-- ==== Sys2Proof/Word.lean ====
section
/-! DEFINITION. Word.lean: the widths that the manual treats as bits, and sparse memories as plain lists. -/

namespace Sys2Proof

/-- One byte. Multi-byte values are little-endian (R14). -/
abbrev Byte := BitVec 8

/-- A 32-bit word: a register element, an accumulator value, an FP32 encoding (R166, R101). -/
abbrev Word := BitVec 32

/-- A sparse memory of w-bit cells: (address, value) pairs, addresses rising, no entry equal to 0.
An unlisted address reads as 0 (R205, R286, R405: "reads +0 until written"). -/
abbrev SMem (w : Nat) := List (Nat × BitVec w)

/-- A byte memory: `SMem 8`, which is the host's list of cells. -/
abbrev Mem := SMem 8

end Sys2Proof
end

