-- ==== Sys2Proof/Syntax.lean ====
section
/-! DEFINITION. Syntax.lean: the commands and events of the module, one constructor for each row of
spec/opcode_table.json, with the operands the model gives them. -/

namespace Sys2Proof

/-- Where an SPDM request arrives (R466): the DOE mailbox or MCTP over SMBus. -/
inductive Transport where
  | doe | mctp
  deriving DecidableEq, Repr, Inhabited

/-- The two IDE streams (R362). -/
inductive IdeStream where
  | io | cachemem
  deriving DecidableEq, Repr, Inhabited

/-- What a host translation was refused for (R359, R546). -/
inductive AtsUse where
  /-- the transfer at the head of the slab's transfer queue -/
  | transfer (slab : Nat)
  /-- a Steward access made for the command with this SEQ -/
  | command (seq : Nat)
  /-- the write of the completion record of the command with this SEQ -/
  | record (seq : Nat)
  /-- the next write of a Talus record to this ring (0 to 15 a partition's, 16 the module's) -/
  | ring (r : Nat)
  deriving DecidableEq, Repr, Inhabited

/-- A place in a memory that carries a check code (R288, R290, R108). -/
inductive Place where
  | share (part ctx slab off : Nat)
  | freeSpad (slab off : Nat)
  | hot (part handle idx slab off : Nat)
  | acc (part ctx slab slot idx : Nat)
  | flat (part slab addr : Nat)
  | page (part handle off : Nat)
  | cold (part handle idx slab off : Nat)
  | cairn (part ctx slab off : Nat)
  | held (part handle slab off : Nat)
  | codec (part session slab off : Nat)
  | steward (slab : Nat)
  deriving DecidableEq, Repr, Inhabited

/-- A code word with bad symbols, as a scrub finds it (R291). -/
structure Upset where
  place : Place
  symbols : Nat
  deriving DecidableEq, Repr, Inhabited

/-- A flit of the fabric as it is received (R255): the fields of its header, 240 payload bytes, and the CRC. -/
structure Flit where
  kind : Nat
  seq : Nat
  ack : Nat
  credit : Nat
  stream : Nat
  payload : List Byte
  crc : BitVec 64
  deriving DecidableEq, Repr, Inhabited

/-- What a start-up step reports as it ends (R516, R518). -/
structure StepReport where
  /-- the index D1 of R518 at which the step failed -/
  failed : Option Nat
  /-- step 1: a health test of the entropy source failed -/
  entropyFail : Bool
  /-- step 2: lanes remapped per stack; step 4: failed lanes of a direction (R254): that slab s sends on link t, at
  8 * s + t; that the hub sends to slab s, at 64 + s -/
  lanes : List Nat
  /-- step 2: capture loads of the stacks in percent; step 5: of the slabs in A -/
  loads : List Nat
  /-- step 2: frames available per slab -/
  frames : List Nat
  deriving DecidableEq, Repr, Inhabited

/-- The commands and events, in the order of spec/opcode_table.json. `fn` is a function and `k` a slot of its window;
`slab`, `link`, `unit` and `idx` are numbers; `seq` is a hub sequence number. -/
inductive Instr where
  | statusGet (fn k : Nat)
  | serviceEnter (fn k : Nat)
  | serviceModeSwitch
  | restEnter (fn k : Nat)
  | restEntryEnd
  | restWakeEnd
  | partCreate (fn k : Nat)
  | partDestroy (fn k : Nat)
  | partSet (fn k : Nat)
  | ctxCreate (fn k : Nat)
  | ctxDestroy (fn k : Nat)
  | ctxSave (fn k : Nat)
  | ctxRestore (fn k : Nat)
  | modelLoad (fn k : Nat)
  | modelDrop (fn k : Nat)
  | modelPin (fn k : Nat)
  | modelUnpin (fn k : Nat)
  | quarryStat (fn k : Nat)
  | regionCreate (fn k : Nat)
  | regionDestroy (fn k : Nat)
  | regionMap (fn k : Nat)
  | regionUnmap (fn k : Nat)
  | progLoad (fn k : Nat)
  | runPassage (fn k : Nat)
  | fetch (fn k : Nat)
  | resultDrop (fn k : Nat)
  | groupCreate (fn k : Nat)
  | groupDestroy (fn k : Nat)
  | copy (fn k : Nat)
  | fill (fn k : Nat)
  | codecOpen (fn k : Nat)
  | codecClose (fn k : Nat)
  | codecEncode (fn k : Nat)
  | codecDecode (fn k : Nat)
  | attest (fn k : Nat)
  | sessionOpen (fn k : Nat)
  | sessionClose (fn k : Nat)
  | signerAdd (fn k : Nat)
  | signerRemove (fn k : Nat)
  | debugUnlock (fn k : Nat)
  | ringSet (fn k : Nat)
  | alarmAck (fn k : Nat)
  | inject (fn k : Nat)
  | injectClear (fn k : Nat)
  | sealUnknownOpcode (fn k : Nat)
  | orderedStart (fn seq : Nat)
  | commandCompletion (fn seq : Nat)
  | mbxCqCfgWrite (fn : Nat) (v : Word)
  | mbxCqHeadWrite (fn : Nat) (v : Word)
  | talHeadWrite (fn : Nat) (ofModule : Bool) (v : Word)
  | pwrWakeWrite (v : Word)
  | geoSvnCommitWrite (v : Word)
  | registerWrite (fn off : Nat) (data : List Byte)
  | passageEnqueue (slab : Nat)
  | passageSelect (slab : Nat)
  | lineIssue (slab : Nat)
  | opEnd (slab unit idx : Nat)
  | passageEnd (slab seq : Nat)
  | passageStall (slab seq : Nat)
  | hsTimeout (src initiator d1 : Nat)
  | nop (slab unit : Nat)
  | mm (slab : Nat)
  | mmList (slab : Nat)
  | mmListEntryRead (slab : Nat)
  | mmChain (slab : Nat)
  | mmArrive (slab : Nat)
  | accClear (slab : Nat)
  | accSpill (slab : Nat)
  | accResume (slab : Nat)
  | accDrain (slab : Nat)
  | accGate (slab : Nat)
  | accSatclr (slab : Nat)
  | vAdd (slab : Nat)
  | vSub (slab : Nat)
  | vMul (slab : Nat)
  | vFma (slab : Nat)
  | vMax (slab : Nat)
  | vMin (slab : Nat)
  | vAbs (slab : Nat)
  | vNeg (slab : Nat)
  | vScale (slab : Nat)
  | vAddi (slab : Nat)
  | vCvt (slab : Nat)
  | vDither (slab : Nat)
  | vGadd (slab : Nat)
  | vRsum (slab : Nat)
  | vRmax (slab : Nat)
  | vRwel (slab : Nat)
  | vArgmax (slab : Nat)
  | vEpi (slab : Nat)
  | vOsm (slab : Nat)
  | vDwconv (slab : Nat)
  | vGconv (slab : Nat)
  | vLd (slab : Nat) (pipeB : Bool)
  | vSt (slab : Nat) (pipeB : Bool)
  | vbExp (slab : Nat)
  | vbLog (slab : Nat)
  | vbRsqrt (slab : Nat)
  | vbRcp (slab : Nat)
  | vbSigmoid (slab : Nat)
  | vbTanh (slab : Nat)
  | vbGelu (slab : Nat)
  | vbSilu (slab : Nat)
  | vbSin (slab : Nat)
  | vbCos (slab : Nat)
  | vbCompress (slab : Nat)
  | vbExpand (slab : Nat)
  | vbPermute (slab : Nat)
  | vbGumbel (slab : Nat)
  | vbCrop (slab : Nat)
  | xfRun (slab : Nat)
  | xfPaged (slab : Nat)
  | cAllredSum (slab : Nat)
  | cAllredMax (slab : Nat)
  | cAllredWelf (slab : Nat)
  | cRedscat (slab : Nat)
  | cBcast (slab : Nat)
  | cAll2all (slab : Nat)
  | cAllgather (slab : Nat)
  | cGatherArrive (slab : Nat)
  | cBarrier (slab : Nat)
  | collectiveMeet (part ctx lidx : Nat)
  | gatherUnitArrive (slab queue unit : Nat)
  | collWatchdogExpire (slab queue : Nat)
  | flDraw (slab : Nat)
  | loopBegin (slab : Nat)
  | loopEnd (slab : Nat)
  | loopr (slab : Nat)
  | twait (slab : Nat)
  | fence (slab : Nat)
  | quarryLoadEnd (part handle idx slab : Nat)
  | ctxSwitchOutEnd (part ctx : Nat)
  | ctxSwitchInEnd (part ctx : Nat)
  | ctxTeardownEnd (part ctx : Nat)
  | encodeFrameStart (session : Nat)
  | encodeFrameEnd (session : Nat)
  | decodeFrameEnd (session : Nat)
  | decodeBudgetExpire (session : Nat)
  | flitReceive (slab link : Nat) (rx : Bool) (flit : Flit)
  | replayWindowEnd (slab link : Nat)
  | scrubPass (slab : Nat) (hbm : Bool) (found : List Upset)
  | coalesceWindowEnd (ring idx : Nat)
  | evtDroppedRecord (ring cls : Nat)
  | alarmConditionEnd (idx : Nat)
  | stackTempReading (stack temp : Nat)
  | junctionTempReading (unit temp : Nat)
  | drawLimitReached (watts mask : Nat)
  | powerLimitEpisodeEnd (watts : Nat)
  | calLoadSample (domain load : Nat)
  | recalStart (domain : Nat)
  | recalEnd (domain : Nat) (valid : Bool)
  | vinExcursion (millivolts : Nat)
  | vinDebounceExpire
  | pwrGoodInDeassert (ns : Nat)
  | supplyShutdown
  | wakePin (ns : Nat)
  | powerOn (millivolts straps : Nat)
  | modRstAssert (ns : Nat)
  | modRstRelease
  | startupStepEnd (r : StepReport)
  | startupTimeout
  | perstAssert (ns : Nat)
  | perstRelease
  | functionLevelReset (fn : Nat)
  | vfEnableClear
  | busMasterEnableWrite (fn : Nat) (on : Bool)
  | hostLinkTrained (width rate : Nat) (flit256 lopt : Bool)
  | hdmDecoderCommit (idx base size : Nat)
  | hdmRead (dpa : Nat)
  | hdmWrite (dpa : Nat) (data : List Byte)
  | bisnpResponse (line : Nat) (dirty : Option (List Byte))
  | biTimeout (line : Nat)
  | hostSnoop (line : Nat)
  | atsTranslationRefused (use : AtsUse)
  | unsupportedRequest (fn off : Nat)
  | ideIntegrityFail (stream : IdeStream)
  | getState
  | getThermal
  | mgmtAlarmAck (code : Nat)
  | injectArm (point param : Nat)
  | imageStage (image off : Nat) (data : List Byte)
  | imageSeal (image len : Nat)
  | imageDiscard
  | getVersion (t : Transport)
  | getCapabilities (t : Transport)
  | negotiateAlgorithms (t : Transport) (sha3 mldsa mlkem gcm : Bool)
  | getDigests (t : Transport)
  | getCertificate (t : Transport) (slot off len : Nat)
  | challenge (t : Transport) (slot : Nat) (nonce : List Byte)
  | getMeasurements (t : Transport) (index : Nat) (nonce : List Byte)
  | keyExchange (t : Transport) (ek : List Byte)
  | finish (t : Transport) (mac : List Byte)
  | heartbeat (t : Transport)
  | keyUpdate (t : Transport) (all : Bool)
  | endSession (t : Transport)
  | chunkGet (t : Transport) (index : Nat)
  | vendorDefinedRequest (t : Transport) (stream : IdeStream) (key : List Byte)
  | entropyHealthFail
  | vfEnableSet (num : Nat)
  deriving DecidableEq, Repr

end Sys2Proof
end

