-- ==== Sys2Proof/Decode.lean ====
section
/-! DEFINITION. Decode.lean: the rows of spec/opcode_table.json give no bits, so no word spells a command. The command
that a sealed slot holds is read from the slot's OPCODE field (R374) by the meanings in Machine/. -/

namespace Sys2Proof

/-- No row of the table gives bits: no word spells a command. -/
def decodeTableWord (_nbits _w : Nat) : Option Instr := none

end Sys2Proof
end

