-- ==== Sys2Proof/Machine/Bits.lean ====
section
/-! DEFINITION. Bits.lean: bit fields, little-endian bytes (R14, R15) and small lists. -/

namespace Sys2Proof.Machine

/-- Field [hi:lo] of a number, with its lsb at weight 1 (R15). -/
def fld (x hi lo : Nat) : Nat := (x >>> lo) % 2 ^ (hi + 1 - lo)

/-- Bit [n] of a number. -/
def bitOf (x n : Nat) : Bool := (x >>> n) % 2 == 1

def boolNat (b : Bool) : Nat := if b then 1 else 0

/-- A field read as a signed integer of `w` bits. -/
def signedOf (w x : Nat) : Int := if x < 2 ^ (w - 1) then (x : Int) else (x : Int) - (2 ^ w : Nat)

/-- The unsigned value of little-endian bytes (R14). -/
def leNat : List Byte → Nat
  | [] => 0
  | b :: t => b.toNat + 256 * leNat t

/-- `n` little-endian bytes of a number (R14). -/
def toLe : Nat → Nat → List Byte
  | 0, _ => []
  | n + 1, x => BitVec.ofNat 8 x :: toLe n (x / 256)

/-- Bytes [off, off + n) of a list, zero past its end. -/
def bytesAt (bs : List Byte) (off n : Nat) : List Byte :=
  let t := (bs.drop off).take n
  t ++ List.replicate (n - t.length) 0

/-- The little-endian number in bytes [off, off + n). -/
def numAt (bs : List Byte) (off n : Nat) : Nat := leNat (bytesAt bs off n)

def ceilDiv (a b : Nat) : Nat := (a + b - 1) / b

def roundUp (a b : Nat) : Nat := ceilDiv a b * b

/-- The members of a mask below `n`, ascending. -/
def maskList (m n : Nat) : List Nat := (List.range n).filter fun i => bitOf m i

def listMask (l : List Nat) : Nat := l.foldl (fun m i => m ||| 2 ^ i) 0

/-- Replace the element at an index; out of range, nothing changes. -/
def modAt {α : Type} (l : List α) (i : Nat) (f : α → α) : List α := l.modify i f

/-- Element at an index, or a default. -/
def nth {α : Type} [Inhabited α] (l : List α) (i : Nat) : α := l.getD i default

/-- Replace every element that satisfies a test. -/
def modWhere {α : Type} (l : List α) (p : α → Bool) (f : α → α) : List α := l.map fun x => if p x then f x else x

/-- Do the byte ranges [a, a + n) and [b, b + m) meet? -/
def overlaps (a n b m : Nat) : Bool := decide (0 < n) && decide (0 < m) && decide (a < b + m) && decide (b < a + n)

/-- No two elements are equal. -/
def distinct : List Nat → Bool
  | [] => true
  | a :: t => !t.contains a && distinct t

def sumNat (l : List Nat) : Nat := l.foldl (· + ·) 0

def minNat (l : List Nat) (d : Nat) : Nat := l.foldl Nat.min d

def maxNat (l : List Nat) : Nat := l.foldl Nat.max 0

/-- The element of least key, the first of equals. -/
def leastBy {α : Type} (key : α → Nat) : List α → Option α
  | [] => none
  | a :: t =>
    match leastBy key t with
    | none => some a
    | some b => if key b < key a then some b else some a

def satInc (x lim n : Nat) : Nat := Nat.min lim (x + n)

end Sys2Proof.Machine
end

