-- ==== Sys2Proof/Machine/Float.lean ====
section
/-! DEFINITION. Float.lean: the number formats of R116, exact values, and the one rounding of R124 to R126. -/

namespace Sys2Proof.Machine

/-- A floating-point format: exponent bits, fraction bits, bias; E4M3 has no infinity (R116). -/
structure Fmt where
  eb : Nat
  fb : Nat
  bias : Nat
  noInf : Bool
  deriving DecidableEq, Repr, Inhabited

def fp32 : Fmt := { eb := 8, fb := 23, bias := 127, noInf := false }
def bf16 : Fmt := { eb := 8, fb := 7, bias := 127, noInf := false }
def fp16 : Fmt := { eb := 5, fb := 10, bias := 15, noInf := false }
def e4m3 : Fmt := { eb := 4, fb := 3, bias := 7, noInf := true }
def e5m2 : Fmt := { eb := 5, fb := 2, bias := 15, noInf := false }

/-- An exact value: NaN, an infinity, or (-1)^neg * m * 2^e (zero keeps its sign). -/
inductive Val where
  | nan
  | inf (neg : Bool)
  | fin (neg : Bool) (m : Nat) (e : Int)
  deriving DecidableEq, Repr, Inhabited

def Val.isNan : Val → Bool
  | .nan => true
  | _ => false

def Val.isFin : Val → Bool
  | .fin .. => true
  | _ => false

def Val.isZero : Val → Bool
  | .fin _ m _ => m == 0
  | _ => false

def Val.neg? : Val → Bool
  | .nan => false
  | .inf s => s
  | .fin s _ _ => s

def Val.negate : Val → Val
  | .nan => .nan
  | .inf s => .inf (!s)
  | .fin s m e => .fin (!s) m e

/-- +0. -/
def Val.zero : Val := .fin false 0 0

/-- Encoding of +infinity: exponent all ones, fraction 0 (the NaN code of E4M3 for a format without infinity). -/
def Fmt.infBits (f : Fmt) : Nat := if f.noInf then 0x7F else (2 ^ f.eb - 1) <<< f.fb

/-- Largest finite encoding (R117). -/
def Fmt.maxBits (f : Fmt) : Nat := if f.noInf then 0x7E else f.infBits - 1

/-- Default NaN (R117, R118). -/
def Fmt.nanBits (f : Fmt) : Nat := if f.noInf then 0x7F else f.infBits + 2 ^ (f.fb - 1)

def Fmt.width (f : Fmt) : Nat := 1 + f.eb + f.fb

/-- Exponent of the smallest normal value (R137). -/
def Fmt.emin (f : Fmt) : Int := 1 - (f.bias : Int)

/-- The value of an encoding (R116, R118: every NaN encoding is NaN). -/
def Fmt.decode (f : Fmt) (x : Nat) : Val :=
  let s := bitOf x (f.eb + f.fb)
  let mag := x % 2 ^ (f.eb + f.fb)
  let e := mag >>> f.fb
  let m := mag % 2 ^ f.fb
  if mag > f.maxBits then (if mag == f.infBits && !f.noInf then .inf s else .nan)
  else if e = 0 then .fin s m (f.emin - (f.fb : Int))
  else .fin s (m + 2 ^ f.fb) ((e : Int) - (f.bias : Int) - (f.fb : Int))

/-- m / 2^s rounded to nearest, ties to even (R124); `sticky` says that the exact value lies a little above m. -/
def rne (m s : Nat) (sticky : Bool) : Nat :=
  if s = 0 then m
  else
    let k := m >>> s
    let r := m % 2 ^ s
    let half := 2 ^ (s - 1)
    if r > half || (r == half && (sticky || k % 2 == 1)) then k + 1 else k

/-- Round m * 2^e to a format; the magnitude's encoding, and whether it overflowed (R124, R125). -/
def Fmt.roundMag (f : Fmt) (m : Nat) (e : Int) (sticky : Bool) : Nat × Bool :=
  if m = 0 then (0, false)
  else
    let g : Int := (Nat.log2 m : Int) + e
    let q : Int := max g f.emin - (f.fb : Int)
    let k : Nat := if q ≤ e then m <<< (e - q).toNat else rne m (q - e).toNat sticky
    let bits : Nat := ((q + (f.fb : Int) + (f.bias : Int) - 1).toNat <<< f.fb) + k
    if bits > f.maxBits then (f.infBits, true) else (bits, false)

def signBit (f : Fmt) (neg : Bool) : Nat := if neg then 2 ^ (f.eb + f.fb) else 0

/-- Round an exact value (R124 to R126): the encoding, and whether ST_CVT_OVF is raised. -/
def Fmt.round (f : Fmt) (v : Val) (sticky : Bool := false) : Nat × Bool :=
  match v with
  | .nan => (f.nanBits, false)
  | .inf s => if f.noInf then (f.nanBits, true) else (signBit f s + f.infBits, false)
  | .fin s m e =>
    let r := f.roundMag m e sticky
    if r.2 && f.noInf then (f.nanBits, true) else (signBit f s + r.1, r.2)

/-! ## Exact arithmetic -/

/-- Signed integer of a sign and a magnitude. -/
def signedMag (s : Bool) (m : Nat) : Int := if s then -(m : Int) else (m : Int)

/-- Exact sum; a sum of exactly zero is +0 unless both operands are -0 (R99, IEEE 754 for round to nearest). -/
def Val.add : Val → Val → Val
  | .nan, _ => .nan
  | _, .nan => .nan
  | .inf a, .inf b => if a = b then .inf a else .nan
  | .inf a, .fin .. => .inf a
  | .fin .., .inf b => .inf b
  | .fin s m e, .fin t n g =>
    let lo := min e g
    let x := signedMag s (m <<< (e - lo).toNat) + signedMag t (n <<< (g - lo).toNat)
    if x = 0 then .fin (s && t) 0 lo else .fin (decide (x < 0)) x.natAbs lo

def Val.sub (a b : Val) : Val := Val.add a b.negate

/-- Exact product; zero times infinity is NaN. -/
def Val.mul : Val → Val → Val
  | .nan, _ => .nan
  | _, .nan => .nan
  | .inf a, .inf b => .inf (a != b)
  | .inf a, .fin t n _ => if n = 0 then .nan else .inf (a != t)
  | .fin s m _, .inf b => if m = 0 then .nan else .inf (s != b)
  | .fin s m e, .fin t n g => .fin (s != t) (m * n) (e + g)

/-- Multiply by 2^k. -/
def Val.scale (v : Val) (k : Int) : Val :=
  match v with
  | .fin s m e => .fin s m (e + k)
  | x => x

/-- Quotient to at least 79 significant bits, with a sticky mark for what is left (R543). -/
def Val.div : Val → Val → Val × Bool
  | .nan, _ => (.nan, false)
  | _, .nan => (.nan, false)
  | .inf _, .inf _ => (.nan, false)
  | .inf a, .fin t _ _ => (.inf (a != t), false)
  | .fin s _ _, .inf b => (.fin (s != b) 0 0, false)
  | .fin s m e, .fin t n g =>
    if n = 0 then (if m = 0 then (.nan, false) else (.inf (s != t), false))
    else
      let k := 80 + Nat.log2 n
      (.fin (s != t) ((m <<< k) / n) (e - g - (k : Int)), (m <<< k) % n != 0)

/-- Order of two values that are not NaN: a < b, with +0 above -0 (R178). -/
def Val.lt (a b : Val) : Bool :=
  match a, b with
  | .nan, _ => false
  | _, .nan => false
  | .inf s, .inf t => s && !t
  | .inf s, .fin .. => s
  | .fin .., .inf t => !t
  | .fin s m e, .fin t n g =>
    let lo := min e g
    let x := signedMag s (m <<< (e - lo).toNat)
    let y := signedMag t (n <<< (g - lo).toNat)
    x < y || (m == 0 && n == 0 && s && !t)

/-! ## Arithmetic flags -/

/-- FLAGS bits of R379: bit n - 1 for flag 0x400n. -/
def flSat : Nat := 1
def flOvf : Nat := 2
def flNan : Nat := 4
def flScale : Nat := 8
/-- Not a flag: the element became NaN by a conversion's overflow (R125, R126), which R193 reports. -/
def flBorn : Nat := 16

/-- What a conversion raises when it overflows or not: an overflow of a format without infinity makes a NaN. -/
def Fmt.overflowed (f : Fmt) (o : Bool) : Nat := if o then (if f.noInf then flOvf + flBorn else flOvf) else 0

/-- A result with the flags its operation raised. -/
abbrev Res := Word × Nat

/-- The flags of an operation with result `v` before rounding: NaN from operands without NaN (R129), overflow of a
finite result (R125). -/
def resOf (nanIn : Bool) (v : Val) (sticky : Bool := false) : Res :=
  let r := fp32.round v sticky
  (BitVec.ofNat 32 r.1, (if v.isNan && !nanIn then flNan else 0) ||| (if r.2 then flOvf else 0))

/-- The value of an FP32 word. -/
def valOf (x : Word) : Val := fp32.decode x.toNat

def fAdd (a b : Word) : Res := resOf ((valOf a).isNan || (valOf b).isNan) (Val.add (valOf a) (valOf b))
def fSub (a b : Word) : Res := resOf ((valOf a).isNan || (valOf b).isNan) (Val.sub (valOf a) (valOf b))
def fMul (a b : Word) : Res := resOf ((valOf a).isNan || (valOf b).isNan) (Val.mul (valOf a) (valOf b))
/-- a * b + c with one rounding. -/
def fFma (a b c : Word) : Res :=
  resOf ((valOf a).isNan || (valOf b).isNan || (valOf c).isNan) (Val.add (Val.mul (valOf a) (valOf b)) (valOf c))
/-- Correctly rounded division with the rules of R543. A zero divisor raises no flag unless the dividend is zero. -/
def fDiv (a b : Word) : Res :=
  let q := Val.div (valOf a) (valOf b)
  resOf ((valOf a).isNan || (valOf b).isNan) q.1 q.2
/-- Multiplication by a power of two, rounded once (R177). -/
def fScale (a : Word) (k : Int) : Res := resOf (valOf a).isNan (Val.scale (valOf a) k)

def nan32 : Word := 0x7FC00000#32

/-- Maximum and minimum of R178; `num` selects number-preferring comparison. -/
def fMax (num : Bool) (a b : Word) : Word :=
  let x := valOf a
  let y := valOf b
  if x.isNan || y.isNan then
    (if num then (if x.isNan then (if y.isNan then nan32 else b) else a) else nan32)
  else if Val.lt x y then b else a

def fMin (num : Bool) (a b : Word) : Word :=
  let x := valOf a
  let y := valOf b
  if x.isNan || y.isNan then
    (if num then (if x.isNan then (if y.isNan then nan32 else b) else a) else nan32)
  else if Val.lt y x then b else a

def fAbs (a : Word) : Word := if (valOf a).isNan then nan32 else BitVec.ofNat 32 (a.toNat % 2 ^ 31)
def fNeg (a : Word) : Word := if (valOf a).isNan then nan32 else a ^^^ 0x80000000#32

/-- Is a word a finite FP32 value? -/
def fin32 (a : Word) : Bool := (valOf a).isFin

/-! ## Element formats and block scales -/

/-- The plain format of an FMT code (R116): 0 FP32, 1 BF16, 2 FP16, 3 and 5 E4M3, 4 and 6 E5M2. -/
def fmtOf (code : Nat) : Fmt :=
  match code with
  | 0 => fp32
  | 1 => bf16
  | 2 => fp16
  | 3 => e4m3
  | 5 => e4m3
  | _ => e5m2

/-- Is an FMT code block-scaled? -/
def isBlock (code : Nat) : Bool := code == 5 || code == 6

/-- Element width in bytes of an FMT code (R119). -/
def fmtBytes (code : Nat) : Nat :=
  match code with
  | 0 => 4
  | 1 => 2
  | 2 => 2
  | _ => 1

/-- FMT code of an AFMT or WFMT code (R116, R165). -/
def fmtOfAfmt (afmt : Nat) : Nat :=
  match afmt with
  | 0 => 3
  | 1 => 4
  | 2 => 5
  | 3 => 6
  | 4 => 1
  | _ => 2

/-- Value of an element of a block with scale byte `sc` (R120): a scale of 0xFF makes NaN. -/
def blockVal (f : Fmt) (x sc : Nat) : Val :=
  if sc = 0xFF then .nan else Val.scale (f.decode x) ((sc : Int) - 127)

/-- floor(log2) of a nonzero finite magnitude. -/
def floorLog2 (m : Nat) (e : Int) : Int := (Nat.log2 m : Int) + e

/-- Is the magnitude of `a` greater than that of `b`, for finite values? -/
def magLt (a b : Val) : Bool :=
  match a, b with
  | .fin _ m e, .fin _ n g =>
    let lo := min e g
    (m <<< (e - lo).toNat) < (n <<< (g - lo).toNat)
  | _, _ => false

/-- The largest magnitude among the finite elements of a block, if any is nonzero. -/
def blockMax (vs : List Val) : Option Val :=
  vs.foldl (fun acc v =>
    if v.isFin && !v.isZero then
      match acc with
      | none => some v
      | some a => if magLt a v then some v else some a
    else acc) none

/-- The block exponent b of R123. -/
def blockExp (noInf : Bool) (vs : List Val) : Int :=
  match blockMax vs with
  | some (.fin _ m e) =>
    let b := floorLog2 m e - (if noInf then 8 else 15)
    -- a * 2^-b against T, 464 = 29 * 2^4 or 61440 = 15 * 2^12
    let lim : Val := if noInf then .fin false 29 4 else .fin false 15 12
    let a : Val := .fin false m (e - b)
    let up := if noInf then magLt lim a else !magLt a lim
    let b := if up then b + 1 else b
    min (max b (-127)) 127
  | _ => -127

/-- Convert a block of values to a block-scaled format (R123, R125, R126): scale byte, element codes, overflow. -/
def toBlock (f : Fmt) (vs : List Val) : Nat × List Nat × Bool :=
  let b := blockExp f.noInf vs
  let rs := vs.map fun v => f.round (Val.scale v (-b))
  ((b + 127).toNat, rs.map (·.1), rs.any (·.2))

end Sys2Proof.Machine
end

