-- ==== Sys2Proof/Machine/Status.lean ====
section
/-! DEFINITION. Status.lean: the status codes of R396. -/

namespace Sys2Proof.Machine

/-- The status codes of the module, exactly those of R396. -/
inductive St where
  | ok
  | opcode
  | rsvdSet
  | perm
  | mode
  | cqUnset
  | inflight
  | cqFull
  | argRange
  | partUnknown
  | partBusy
  | ctxUnknown
  | ctxBusy
  | ctxFaulted
  | aborted
  | handleBad
  | handleTaken
  | heldFull
  | notIdle
  | evtDropped
  | lineForm
  | imageForm
  | geometry
  | boundShare
  | grainCut
  | shapeOver
  | accRange
  | accExtent
  | spillDue
  | listEntry
  | expHeader
  | accRowOver
  | gateOrder
  | cropDesc
  | tokenOver
  | tokenLeft
  | loopOver
  | passageStall
  | noProgram
  | xfAlign
  | xfRange
  | xfSpace
  | vecRange
  | fuseRange
  | regionUnbound
  | pageHome
  | pageFault
  | pageRo
  | regionBusy
  | regionMapped
  | quota
  | memCorr
  | hbmUncorr
  | spadUncorr
  | accUncorr
  | hdmUnmapped
  | biTimeout
  | hostAddr
  | modelDigest
  | modelWindow
  | modelBusy
  | modelDamaged
  | quarryFull
  | accSat
  | cvtOvf
  | nanMade
  | nanScale
  | groupMembers
  | groupBusy
  | groupRing
  | groupFull
  | groupShare
  | groupUnbound
  | collDesc
  | collMismatch
  | collStall
  | linkReplay
  | hostLink
  | imageSig
  | ideFail
  | authFail
  | replay
  | sessionBusy
  | signerFull
  | debugToken
  | bitstream
  | codecParam
  | codecBusy
  | frameCap
  | outShort
  | vinRange
  | pwrGood
  | powerLimit
  | hbmThrottle
  | hbmTrip
  | thermTrip
  | calStale
  | hsTimeout
  | linkDown
  | memFatal
  | bootFw
  | rollback
  | hbmTrain
  | selftest
  | fabricTrain
  | calFail
  | startTimeout
  | steward
  deriving DecidableEq, Repr, Inhabited

/-- The 16-bit value of a code (R396). -/
def St.code : St → Nat
  | .ok => 0x0000
  | .opcode => 0x1001
  | .rsvdSet => 0x1002
  | .perm => 0x1003
  | .mode => 0x1004
  | .cqUnset => 0x1005
  | .inflight => 0x1006
  | .cqFull => 0x1007
  | .argRange => 0x1008
  | .partUnknown => 0x1009
  | .partBusy => 0x100A
  | .ctxUnknown => 0x100B
  | .ctxBusy => 0x100C
  | .ctxFaulted => 0x100D
  | .aborted => 0x100E
  | .handleBad => 0x100F
  | .handleTaken => 0x1010
  | .heldFull => 0x1011
  | .notIdle => 0x1012
  | .evtDropped => 0x1013
  | .lineForm => 0x2001
  | .imageForm => 0x2002
  | .geometry => 0x2003
  | .boundShare => 0x2004
  | .grainCut => 0x2005
  | .shapeOver => 0x2006
  | .accRange => 0x2007
  | .accExtent => 0x2008
  | .spillDue => 0x2009
  | .listEntry => 0x200A
  | .expHeader => 0x200B
  | .accRowOver => 0x200C
  | .gateOrder => 0x200D
  | .cropDesc => 0x200E
  | .tokenOver => 0x200F
  | .tokenLeft => 0x2010
  | .loopOver => 0x2011
  | .passageStall => 0x2012
  | .noProgram => 0x2013
  | .xfAlign => 0x3001
  | .xfRange => 0x3002
  | .xfSpace => 0x3003
  | .vecRange => 0x3004
  | .fuseRange => 0x3005
  | .regionUnbound => 0x3006
  | .pageHome => 0x3007
  | .pageFault => 0x3008
  | .pageRo => 0x3009
  | .regionBusy => 0x300A
  | .regionMapped => 0x300B
  | .quota => 0x300C
  | .memCorr => 0x300D
  | .hbmUncorr => 0x300E
  | .spadUncorr => 0x300F
  | .accUncorr => 0x3010
  | .hdmUnmapped => 0x3011
  | .biTimeout => 0x3012
  | .hostAddr => 0x3013
  | .modelDigest => 0x3014
  | .modelWindow => 0x3015
  | .modelBusy => 0x3016
  | .modelDamaged => 0x3017
  | .quarryFull => 0x3018
  | .accSat => 0x4001
  | .cvtOvf => 0x4002
  | .nanMade => 0x4003
  | .nanScale => 0x4004
  | .groupMembers => 0x5001
  | .groupBusy => 0x5002
  | .groupRing => 0x5003
  | .groupFull => 0x5004
  | .groupShare => 0x5005
  | .groupUnbound => 0x5006
  | .collDesc => 0x5007
  | .collMismatch => 0x5008
  | .collStall => 0x5009
  | .linkReplay => 0x500A
  | .hostLink => 0x500B
  | .imageSig => 0x6001
  | .ideFail => 0x6002
  | .authFail => 0x6003
  | .replay => 0x6004
  | .sessionBusy => 0x6005
  | .signerFull => 0x6006
  | .debugToken => 0x6007
  | .bitstream => 0x7001
  | .codecParam => 0x7002
  | .codecBusy => 0x7003
  | .frameCap => 0x7004
  | .outShort => 0x7005
  | .vinRange => 0x8001
  | .pwrGood => 0x8002
  | .powerLimit => 0x8003
  | .hbmThrottle => 0x8004
  | .hbmTrip => 0x8005
  | .thermTrip => 0x8006
  | .calStale => 0x8007
  | .hsTimeout => 0xE001
  | .linkDown => 0xE002
  | .memFatal => 0xE003
  | .bootFw => 0xE004
  | .rollback => 0xE005
  | .hbmTrain => 0xE006
  | .selftest => 0xE007
  | .fabricTrain => 0xE008
  | .calFail => 0xE009
  | .startTimeout => 0xE00A
  | .steward => 0xE00B

/-- Every status code, in the order of R396. -/
def St.all : List St :=
  [.ok, .opcode, .rsvdSet, .perm, .mode, .cqUnset, .inflight, .cqFull, .argRange, .partUnknown, .partBusy,
   .ctxUnknown, .ctxBusy, .ctxFaulted, .aborted, .handleBad, .handleTaken, .heldFull, .notIdle, .evtDropped,
   .lineForm, .imageForm, .geometry, .boundShare, .grainCut, .shapeOver, .accRange, .accExtent, .spillDue,
   .listEntry, .expHeader, .accRowOver, .gateOrder, .cropDesc, .tokenOver, .tokenLeft, .loopOver,
   .passageStall, .noProgram, .xfAlign, .xfRange, .xfSpace, .vecRange, .fuseRange, .regionUnbound, .pageHome,
   .pageFault, .pageRo, .regionBusy, .regionMapped, .quota, .memCorr, .hbmUncorr, .spadUncorr, .accUncorr,
   .hdmUnmapped, .biTimeout, .hostAddr, .modelDigest, .modelWindow, .modelBusy, .modelDamaged, .quarryFull,
   .accSat, .cvtOvf, .nanMade, .nanScale, .groupMembers, .groupBusy, .groupRing, .groupFull, .groupShare,
   .groupUnbound, .collDesc, .collMismatch, .collStall, .linkReplay, .hostLink, .imageSig, .ideFail,
   .authFail, .replay, .sessionBusy, .signerFull, .debugToken, .bitstream, .codecParam, .codecBusy, .frameCap,
   .outShort, .vinRange, .pwrGood, .powerLimit, .hbmThrottle, .hbmTrip, .thermTrip, .calStale, .hsTimeout,
   .linkDown, .memFatal, .bootFw, .rollback, .hbmTrain, .selftest, .fabricTrain, .calFail, .startTimeout,
   .steward]

/-- The code with a value, if R396 has one. -/
def St.ofCode (v : Nat) : Option St := St.all.find? fun c => c.code == v

end Sys2Proof.Machine
end

