-- ==== Sys2Proof/Machine/Flags.lean ====
section
/-! DEFINITION. Flags.lean: the arithmetic flags of a completion (R23, R24, R130, R379). -/

namespace Sys2Proof.Machine

/-- The flag codes of R130 in the order of FLAGS. -/
def flagCodes : List St := [.accSat, .cvtOvf, .nanMade, .nanScale]

/-- The numerically lowest 0x4xxx code raised, or ST_OK (R23). -/
def flagStatus (fl : Nat) : St :=
  if bitOf fl 0 then .accSat else if bitOf fl 1 then .cvtOvf else if bitOf fl 2 then .nanMade
  else if bitOf fl 3 then .nanScale else .ok

/-- Final status: a failure's code even where flags were raised, else the lowest flag code (R23, R24). -/
def finalStatus (st : St) (fl : Nat) : St := if st = .ok then flagStatus fl else st

end Sys2Proof.Machine
end

