-- ==== Sys2Proof/Machine/Memory.lean ====
section
/-! DEFINITION. Memory.lean: reads and writes of sparse memories in canonical form. Unlisted cells read 0
(R205, R286, R405; host memory: log 4). -/

namespace Sys2Proof.Machine

variable {w : Nat}

/-- The canonical form: addresses strictly rising, no entry 0. -/
def Memory.wf : SMem w → Bool
  | [] => true
  | (a, v) :: t =>
    (v != 0) && Memory.wf t && (match t with | [] => true | (b, _) :: _ => decide (a < b))

/-- The value at an address. -/
def Memory.get : SMem w → Nat → BitVec w
  | [], _ => 0
  | (b, u) :: t, a => if a < b then 0 else if a = b then u else Memory.get t a

/-- Write one cell; writing 0 removes the entry. -/
def Memory.set : SMem w → Nat → BitVec w → SMem w
  | [], a, v => if v = 0 then [] else [(a, v)]
  | (b, u) :: t, a, v =>
    if a < b then (if v = 0 then (b, u) :: t else (a, v) :: (b, u) :: t)
    else if a = b then (if v = 0 then t else (a, v) :: t)
    else (b, u) :: Memory.set t a v

/-- `n` cells from an address. -/
def Memory.read (m : SMem w) (a n : Nat) : List (BitVec w) := (List.range n).map fun i => Memory.get m (a + i)

/-- The listed cells of a run of values from an address. -/
def Memory.cells (a : Nat) : List (BitVec w) → SMem w
  | [] => []
  | v :: t => if v = 0 then Memory.cells (a + 1) t else (a, v) :: Memory.cells (a + 1) t

/-- Write a run of cells. -/
def Memory.write (m : SMem w) (a : Nat) (vs : List (BitVec w)) : SMem w :=
  m.filter (fun c => c.1 < a) ++ Memory.cells a vs ++ m.filter (fun c => a + vs.length ≤ c.1)

/-- Set [a, a + n) to 0: the listed cells inside it are dropped. -/
def Memory.clear (m : SMem w) (a n : Nat) : SMem w := m.filter fun c => c.1 < a || a + n ≤ c.1

/-- The listed cells inside [a, a + n). -/
def Memory.cut (m : SMem w) (a n : Nat) : SMem w := m.filter fun c => a ≤ c.1 && c.1 < a + n

/-- Copy the cells [a, a + n) of `src` onto [b, b + n) of `m`. -/
def Memory.copy (src : SMem w) (a n : Nat) (m : SMem w) (b : Nat) : SMem w :=
  (Memory.cut src a n).foldl (fun d c => Memory.set d (c.1 - a + b) c.2) (Memory.clear m b n)

/-- Apply a list of single writes in order. -/
def Memory.put (m : SMem w) (l : List (Nat × BitVec w)) : SMem w := l.foldl (fun d c => Memory.set d c.1 c.2) m

end Sys2Proof.Machine
end

