-- ==== Sys2Proof/Config.lean ====
section
/-! DEFINITION. Config.lean: what the spec leaves open, as constants without a body. Nothing can be proved about a
value of these beyond what the definitions that apply them enforce. -/

namespace Sys2Proof.Config

/-- Free values (log 11): draw number and position within the draw. -/
opaque freeByte : Nat → Nat → BitVec 8
opaque freeWord : Nat → Nat → BitVec 64
opaque freeBool : Nat → Bool
opaque freeNat : Nat → Nat

/-- Geode's entropy source (R451, R469): draw number to 256 bits (log 11). -/
opaque entropy : Nat → BitVec 256

/-- The stepping's map of special function number f, in service mode or not (R190); log 7. `Machine/Special.lean`
keeps its result inside the bounds of R188 and the special cases of R189. -/
opaque specialMap : Nat → Bool → BitVec 32 → BitVec 32

/-- What a V_DITHER writes where its sum is 2^128: of the block exponent, the cut, the operand and the Flint word (R137);
log 58. `Machine/VectorA.lean` keeps it on the dither's grid (R138). -/
opaque ditherOver : Int → Int → BitVec 32 → BitVec 32 → BitVec 32

/-- The stepping's Gumbel map (R250); log 8. -/
opaque gumbelMap : BitVec 32 → BitVec 32

/-- Cryptographic primitives of the published standards of R9 (log 9). -/
opaque sha3 : List (BitVec 8) → List (BitVec 8)
opaque shake256 : List (BitVec 8) → Nat → List (BitVec 8)
/-- ML-DSA-87: public key, message digest, signature. -/
opaque sigOk : List (BitVec 8) → List (BitVec 8) → List (BitVec 8) → Bool
/-- ML-DSA-87 signature by Geode's key number k over a digest; 0 the identity key, otherwise 1 + the draw of a debug key. -/
opaque sign : Nat → List (BitVec 8) → List (BitVec 8)
/-- AES-256-GCM: key, nonce, additional data, plaintext to ciphertext and tag. -/
opaque gcmSeal : List (BitVec 8) → BitVec 96 → List (BitVec 8) → List (BitVec 8) → List (BitVec 8) × List (BitVec 8)
/-- AES-256-GCM: key, nonce, additional data, ciphertext, tag to the plaintext when the tag holds. -/
opaque gcmOpen : List (BitVec 8) → BitVec 96 → List (BitVec 8) → List (BitVec 8) → List (BitVec 8) → Option (List (BitVec 8))
/-- ML-KEM-1024: the encapsulation key of the key pair drawn at a draw number. -/
opaque kemPublic : Nat → List (BitVec 8)
/-- ML-KEM-1024: decapsulation with the key pair of a draw number. -/
opaque kemDecaps : Nat → List (BitVec 8) → List (BitVec 8)
/-- ML-KEM-1024: encapsulation to a key with a draw number: ciphertext and shared secret. -/
opaque kemEncaps : List (BitVec 8) → Nat → List (BitVec 8) × List (BitVec 8)
/-- The SPDM key schedule and its message authentication (SPDM 1.3, R466): secret and transcript to keys, key and data to a code. -/
opaque spdmKeys : List (BitVec 8) → List (BitVec 8) → List (BitVec 8)
opaque spdmMac : List (BitVec 8) → List (BitVec 8) → List (BitVec 8)
/-- Bytes that the responder sends in one message (SPDM 1.3; the module's number is not in the spec). -/
opaque spdmTransfer : Nat

/-- The Nimfaric public keys fixed at manufacture (R447, R467) and the certificate chain of R450. -/
opaque firmwareKey : List (BitVec 8)
opaque debugKey : List (BitVec 8)
opaque certChain : List (BitVec 8)
/-- Bedrock's content (R452, M_ROM). -/
opaque bedrock : List (BitVec 8)
/-- The SVN and the signature that a boot image carries; where they lie in the image is not in the spec (log 9). -/
opaque imageSvn : List (BitVec 8) → Fin 65
opaque imageSig : List (BitVec 8) → List (BitVec 8)
/-- The factory image pair of the boot store (R520): 0 Steward, 1 microcode. -/
opaque factoryImage : Nat → List (BitVec 8)

/-- AES-256-XTS over one 64-byte word (R296): draw number of the key pair (0 one that has been zeroised), tweak, word. -/
opaque xtsSeal : Nat → BitVec 128 → List (BitVec 8) → List (BitVec 8)
opaque xtsOpen : Nat → BitVec 128 → List (BitVec 8) → List (BitVec 8)
/-- Physical address divided by 64 of a word on its slab, which the Steward chose: draw number, word (log 11). -/
opaque physWord : Nat → Nat → Nat

/-- The certificate that is signed for the debug key of a draw number (R467): its content before the signature, from the
serial number; the X.509 encoding is the standard's (log 9). -/
opaque debugCert : Nat → BitVec 96 → List (BitVec 8)

/-- Where the fields of a flit lie in its 8-byte header (R255): type, sequence number, acknowledged sequence number,
credit return, stream; the spec names the fields and not their bits (log 56). -/
opaque flitHeader : Nat → Nat → Nat → Nat → Nat → List (BitVec 8)

/-! ## AV1 encoding (R423 to R432). What the AV1 specification leaves to an encoder, or defines itself, is here; what the
rules lay down is in Machine/Av1.lean (log 10). -/

/-- What a stream's sequence header says, as far as R423 and R424 give it. -/
structure EncSeq where
  width : Nat
  height : Nat
  tenBit : Bool
  mono : Bool
  /-- log2 of the tile columns and rows -/
  tcols : Nat
  trows : Nat
  level : Nat
  deriving DecidableEq, Repr, Inhabited

/-- A frame's samples, row-major. -/
structure EncPlanes where
  y : List Nat
  cb : List Nat
  cr : List Nat
  deriving DecidableEq, Repr, Inhabited

/-- A block of inter prediction: its place and size in luma samples. -/
structure EncBlk where
  x : Nat
  y : Nat
  w : Nat
  h : Nat
  deriving DecidableEq, Repr, Inhabited

/-- A block with the reference slot and the vector chosen for it, in eighths of a sample. -/
structure EncMv where
  blk : EncBlk
  slot : Nat
  mvx : Int
  mvy : Int
  deriving DecidableEq, Repr, Inhabited

/-- What a reference buffer keeps of its frame: reconstructed samples, vectors, order hint. -/
structure EncRef where
  planes : EncPlanes
  mvs : List EncMv
  order : Nat
  deriving DecidableEq, Repr, Inhabited

/-- A frame's header, as far as the rules give it: key frame, refresh_frame_flags, the slots of LAST to ALTREF, order hint,
base quantiser index, delta_q_present. delta_q_res is 2 and the frame is shown; it sets no global motion. -/
structure EncHdr where
  key : Bool
  refresh : Nat
  slots : List Nat
  order : Nat
  q0 : Nat
  deltaQ : Bool
  deriving DecidableEq, Repr, Inhabited

/-- A coded superblock row: its quantiser, its vectors, the entropy coders' output of each tile. -/
structure EncRow where
  q : Nat
  mvs : List EncMv
  out : List (List (BitVec 8))
  deriving DecidableEq, Repr, Inhabited

/-- The payload of the sequence header OBU. -/
opaque av1SeqBits : EncSeq → List (BitVec 8)
/-- The frame header's bytes. -/
opaque av1Header : EncSeq → EncHdr → List (BitVec 8)
/-- The inter blocks of a superblock row, 8 × 8 to 64 × 64, in coding order: header, frame, references by slot, the rows
before, the row. -/
opaque av1Blocks : EncSeq → EncHdr → EncPlanes → List (Option EncRef) → List EncRow → Nat → List EncBlk
/-- A reference's luma sample at a position in eighths of a sample that is not a full sample. -/
opaque av1Sample : EncSeq → EncRef → Int → Int → Nat
/-- The estimated rate of a vector, given the vectors of the blocks coded before it. -/
opaque av1Rate : List EncMv → Int → Int → Nat
/-- The entropy coders' output of a row for each tile: header, frame, references, rows before, vectors, quantiser. -/
opaque av1Row : EncSeq → EncHdr → EncPlanes → List (Option EncRef) → List EncRow → List EncMv → Nat → List (List (BitVec 8))
/-- The payload of OBU_FRAME from the frame header and the rows. -/
opaque av1Assemble : EncSeq → EncHdr → List EncRow → List (BitVec 8)
/-- The reconstructed samples. -/
opaque av1Recon : EncSeq → EncHdr → EncPlanes → List (Option EncRef) → List EncRow → EncPlanes

/-! ## Decoding (R436 to R442): what the AV1 specification and H.265 define (log 10) -/

/-- What a decode core reads of the next frame in a stream. -/
structure PicHdr where
  /-- no whole frame remains -/
  none : Bool
  /-- bytes of the input consumed up to and with this frame, counted from the stream's start -/
  consumed : Nat
  /-- class of R443 of what breaks the syntax or semantics, 0 for nothing, and the byte offset of the unit concerned -/
  broken : Nat
  brokenAt : Nat
  /-- the frame's size could be parsed -/
  sized : Bool
  width : Nat
  height : Nat
  profile : Nat
  level : Nat
  /-- 0 for 4:0:0, 1 for 4:2:0 -/
  chroma : Nat
  depth : Nat
  /-- reference slots that the frame names, and those it takes -/
  refs : List Nat
  refresh : List Nat
  /-- AV1: the frame is shown; it shows the frame of a slot and is nothing else -/
  shown : Bool
  existing : Option Nat
  /-- HEVC: earlier pictures are output before it, its output order, the pictures that may wait for output -/
  flush : Bool
  order : Int
  reorder : Nat
  /-- film grain parameters -/
  grain : List (BitVec 8)
  deriving DecidableEq, Repr, Inhabited

/-- Kind (1 AV1, 2 HEVC), all input bytes so far, bytes consumed before, input ended. -/
opaque picHeader : Nat → List (BitVec 8) → Nat → Bool → PicHdr
/-- The samples as reconstructed from the reference slots, and for each superblock of the 64 × 64 grid whether it was
reconstructed before a damage was detected: kind, input, bytes consumed before, the samples of the slots, budget expired. -/
opaque picRecon : Nat → List (BitVec 8) → Nat → List (Option EncPlanes) → Bool → EncPlanes × List Bool
/-- Film grain synthesis on a frame for output. -/
opaque filmGrain : List (BitVec 8) → EncPlanes → EncPlanes

end Sys2Proof.Config
end

