-- ==== Sys2Proof/Machine/State.lean ====
section
/-! DEFINITION. State.lean: everything the spec gives the module, as plain data, and the state right after reset. -/

namespace Sys2Proof.Machine

/-- The reasons a step can stop with a fault. No meaning raises one: every fault the spec describes is a state of the
module (a context fault, a refusal code, a module stop). Kept closed and named for the host's interface. -/
inductive Fault where
  /-- Raised by nobody. Safe. -/
  | none
  deriving DecidableEq, Repr

/-- The reasons a step can be refused. -/
inductive Refusal where
  /-- Raised by the dispatcher for a row that has no meaning yet. Safe. -/
  | notModelled (mnemonic : String)
  deriving DecidableEq, Repr

/-! ## Hub -/

/-- The two parts of R1. -/
inductive PartNo where
  | b824 | b618
  deriving DecidableEq, Repr, Inhabited

/-- Values fixed at manufacture ("fuse" in R6, R115, R350, R468). The anti-rollback counter only rises (R448). -/
structure Fuses where
  part : PartNo
  serial : BitVec 96
  spareRows : List Nat
  spareCols : List Nat
  svn : Fin 65
  deriving DecidableEq, Repr, Inhabited

/-- Where the module stands between power and work (R512 to R517). -/
inductive Power where
  /-- no input, or step 0 waits for its two conditions again (R517, R537) -/
  | off
  /-- MOD_RST# is asserted (R513) -/
  | held
  /-- the start-up sequence runs (R516) -/
  | starting
  /-- start-up has ended without a stop (R523) -/
  | up
  deriving DecidableEq, Repr, Inhabited

/-- HUB_START (R524), and the power manager's time at which start-up began. -/
structure Startup where
  step : Nat
  done : Bool
  failed : Bool
  code : Nat
  elapsed : Nat
  began : Nat
  /-- step 1: Bedrock has verified the pair and started the Steward (R517) -/
  stewardUp : Bool
  deriving DecidableEq, Repr, Inhabited

/-- A module stop (R483, R371) with the fields of its record. -/
structure Stop where
  code : St
  src : Nat
  unit : Nat
  d0 : Nat
  d1 : Nat
  inj : Bool
  /-- the slab and stack supplies have been removed (R493) -/
  suppliesOff : Bool
  deriving DecidableEq, Repr, Inhabited

/-- Rest and its transitions (R500 to R502). -/
inductive Rest where
  | awake
  /-- REST_ENTER has completed; units are going into Rest -/
  | entering
  | inRest
  | waking
  deriving DecidableEq, Repr, Inhabited

/-- Sideband inputs after their filters, and THERM_TRIP# (R533). `true` is asserted. ALERT# is computed. -/
structure Pins where
  modRst : Bool
  perst : Bool
  pwrGood : Bool
  thermTrip : Bool
  straps : Nat
  deriving DecidableEq, Repr, Inhabited

/-- One staged boot image (R520): its bytes, and its length once it is marked complete. -/
structure Staged where
  bytes : Mem
  complete : Option Nat
  deriving DecidableEq, Repr, Inhabited

/-- What the last read, message or request was answered (log 12). -/
inductive Reply where
  | none
  | data (bytes : List Byte)
  | poison
  | unsupported
  /-- the module answers a snoop of its device cache: whether it holds the line (R358) -/
  | snoop (held : Bool)
  /-- a request held until a back-invalidation or a wake has ended -/
  | waits
  | decoder (ok : Bool)
  | state (ident : Nat) (stopped : Bool) (fatal : Nat) (service rest : Bool) (link : Nat) (count : Nat) (alarms : List Nat)
  | thermal (temps : List (Nat × Nat)) (hottest : Nat)
  | acked (ok : Bool)
  /-- an SPDM response: request code name, then its module-defined contents -/
  | spdm (what : String) (body : List (List Byte))
  | spdmError
  deriving DecidableEq, Repr, Inhabited

/-- The hub: fuses, start-up, modes, Rest, stop, sequence numbers, timers, pins, staging (chapters 01, 19, 20, 21). -/
structure Hub where
  fuse : Fuses
  power : Power
  startup : Startup
  /-- MBX_STAT.SERVICE (R371) -/
  service : Bool
  /-- acceptance uses service mode from SERVICE_ENTER's own acceptance on (R526) -/
  acceptService : Bool
  rest : Rest
  stop : Option Stop
  /-- next hub sequence number (R35) -/
  seq : Nat
  /-- local timers of the hub's units in local µs, by UNIT code from 0xB (R34) -/
  timers : List Nat
  pins : Pins
  staged : List Staged
  svnFw : Fin 65
  mFw : List Byte
  mUcode : List Byte
  reply : Reply
  deriving DecidableEq, Repr, Inhabited

/-! ## Host port and functions -/

/-- An HDM decoder (R340, R337). -/
structure Decoder where
  base : Nat
  size : Nat
  committed : Bool
  error : Bool
  deriving DecidableEq, Repr, Inhabited

/-- The host port: HP_LINK_STAT, SR-IOV, HDM decoders, snoop filter, device cache, IDE (chapter 13). -/
structure Port where
  up : Bool
  cxl : Bool
  flit256 : Bool
  lopt : Bool
  width : Nat
  rate : Nat
  /-- 0 off, 1 secure, 2 insecure (R365) -/
  ideIo : Nat
  ideCm : Nat
  keyIo : List Byte
  keyCm : List Byte
  retrains : Nat
  numVfs : Nat
  vfEnable : Bool
  decoders : List Decoder
  memActive : Bool
  /-- snoop filter lines by DPA, the longest recorded first (R354) -/
  snoop : List Nat
  /-- lines a back-invalidation has been sent for (R354) -/
  awaiting : List Nat
  /-- lines dropped after ST_BI_TIMEOUT: later writebacks are discarded (R355) -/
  dropped : List Nat
  bisnp : Nat
  /-- host requests that wait for room in a full filter, or for a wake: DPA, and the bytes of a write (R354, R502) -/
  hostWaits : List (Nat × Option (List Byte))
  /-- SEQs of commands whose next access to host memory the host refuses to translate (R359) -/
  refused : List Nat
  viralOn : Bool
  viral : Bool
  deriving DecidableEq, Repr, Inhabited

/-- One MSI-X table entry (R361). -/
structure Vec where
  idx : Nat
  addr : Nat
  data : Nat
  masked : Bool
  deriving DecidableEq, Repr, Inhabited

/-- STATE of a slot (R374). -/
inductive SlotState where
  | free | owned | accepted | refused
  deriving DecidableEq, Repr, Inhabited

/-- A mailbox slot: the bytes the host wrote, reserved bits included, and the Steward's fields (R374). -/
structure Slot where
  idx : Nat
  area : Mem
  seq : Nat
  status : St
  state : SlotState
  deriving DecidableEq, Repr, Inhabited

/-- An interrupt message that was sent (R361). -/
structure Msg where
  vec : Nat
  addr : Nat
  data : Nat
  deriving DecidableEq, Repr, Inhabited

/-- A function: its configuration bits, its MBX_ page and slots, its interrupts (R342, R361, R366, R368 to R375). -/
structure Fn where
  bme : Bool
  msix : Bool
  /-- MSI-X Function Mask (R361) -/
  fmask : Bool
  ats : Bool
  /-- power state D3hot; D0 otherwise (R340) -/
  d3hot : Bool
  /-- AER uncorrectable error status (R340, log 17) -/
  aer : Nat
  /-- MSI-X entries that were written; an absent one is masked -/
  table : List Vec
  pba : List Nat
  /-- messages sent, the latest first (log 12) -/
  sent : List Msg
  cqAddr : Nat
  en : Bool
  log2n : Nat
  head : Nat
  tail : Nat
  /-- completions since EN was set (R381) -/
  written : Nat
  slots : List Slot
  deriving DecidableEq, Repr, Inhabited

/-! ## Commands in flight -/

/-- The 41 commands of R389. -/
inductive Cmd where
  | statusGet | serviceEnter | restEnter | partCreate | partDestroy | partSet | ctxCreate | ctxDestroy | ctxSave
  | ctxRestore | modelLoad | modelDrop | modelPin | modelUnpin | quarryStat | regionCreate | regionDestroy | regionMap
  | regionUnmap | progLoad | runPassage | fetch | resultDrop | groupCreate | groupDestroy | copy | fill | codecOpen
  | codecClose | codecEncode | codecDecode | attest | sessionOpen | sessionClose | signerAdd | signerRemove
  | debugUnlock | ringSet | alarmAck | inject | injectClear
  deriving DecidableEq, Repr, Inhabited

/-- Bytes a command will write to host memory before its record (R384): plaintext, and whether an epoch word follows. -/
structure OutBuf where
  addr : Nat
  /-- LEN: the epoch word lies after LEN plaintext bytes -/
  len : Nat
  bytes : List Byte
  /-- buffer index of R459 -/
  index : Nat
  epoch : Bool
  deriving DecidableEq, Repr, Inhabited

/-- An output entry of RUN_PASSAGE (R392). -/
structure OutEntry where
  host : Nat
  len : Nat
  space : Nat
  slab : Nat
  ofs : Nat
  deriving DecidableEq, Repr, Inhabited

/-- Bytes that operation `op` of a passage has written (R75, R82, R281): kind 0 flat memory of slab `key`, 1 region `key`,
2 host memory, 3 the frame sink of encode session `key`, 4 the context's share on slab `key`. In the sink, `addr` is the
frame's number since the session opened times 2^28, plus the offset in the frame. -/
structure Wrote where
  op : Nat
  kind : Nat
  key : Nat
  addr : Nat
  len : Nat
  deriving DecidableEq, Repr, Inhabited

/-- What a RUN_PASSAGE in flight carries (R331, R332, R392, R204, R305); `wrote` has what its passage wrote on the slabs
where it has ended (R75). -/
structure RunInfo where
  ctx : Nat
  passage : Nat
  bucket : Nat
  w : Nat
  shape : List Nat
  step : Nat
  seed : Nat
  regions : List Nat
  models : List Nat
  outs : List OutEntry
  slabs : List Nat
  queued : List Nat
  ended : List Nat
  wrote : List Wrote
  deriving DecidableEq, Repr, Inhabited

/-- Where a command in flight stands. -/
inductive Phase where
  /-- waits for every earlier command of the partition (R382) -/
  | ordered
  /-- waits for Bus Master Enable (R347) -/
  | bme
  /-- waits for the events that end its work -/
  | busy
  /-- its outcome is decided; the record is not yet written -/
  | done
  deriving DecidableEq, Repr, Inhabited

/-- A command accepted and not completed (R376 to R383). -/
structure Flight where
  cmd : Cmd
  fn : Nat
  seq : Nat
  slot : Nat
  tag : Nat
  irq : Bool
  vector : Nat
  ordered : Bool
  /-- the 224 argument bytes, in plaintext -/
  args : List Byte
  /-- session counter c (R460), 0 outside a session -/
  ctr : Nat
  /-- the record's fields are protected (R462) -/
  prot : Bool
  phase : Phase
  status : St
  /-- FLAGS of R379 -/
  flags : Nat
  detail0 : Nat
  detail1 : Nat
  value : Nat
  outs : List OutBuf
  /-- sequence numbers, sessions or lines it waits for, as its command uses them -/
  waits : List Nat
  run : Option RunInfo
  deriving DecidableEq, Repr, Inhabited

/-! ## Partitions and contexts -/

/-- The quotas of R398. -/
structure Quota where
  mask : Nat
  hostAccess : Bool
  enc : Nat
  dec : Nat
  slots : Nat
  hbm : Nat
  fab : Nat
  host : Nat
  spad : Nat
  hot : Nat
  frames : Nat
  deriving DecidableEq, Repr, Inhabited

/-- An accumulator slot of a context (R103) and its gated mark (R156). Values not listed are +0. -/
structure AccSlot where
  vals : SMem 32
  ext : Option (Nat × Nat)
  sat : Bool
  count : Nat
  gated : Bool
  deriving DecidableEq, Repr, Inhabited

/-- A context's share and slots on one slab (R102, R300, R408). -/
structure CtxSlab where
  slab : Nat
  base : Nat
  share : Mem
  slots : List AccSlot
  deriving DecidableEq, Repr, Inhabited

/-- A group bound in a context (R260, R261). `queues` gives the physical queue of each member. -/
structure Group where
  lidx : Nat
  members : List Nat
  ring : Nat
  chunks : Nat
  gshare : Nat
  wdog : Nat
  queues : List Nat
  deriving DecidableEq, Repr, Inhabited

/-- The geometry word (R84). -/
structure Geom where
  ver : Nat
  slabs : Nat
  arrLog2 : Nat
  laneLog2 : Nat
  slots : Nat
  spad : Nat
  part : Nat
  stepping : Nat
  hbm : Nat
  fab : Nat
  host : Nat
  groups : Nat
  rsvd : Nat
  deriving DecidableEq, Repr, Inhabited

/-- A passage table entry (R321). -/
structure PassEntry where
  w : Nat
  passage : Nat
  bucket : Nat
  lines : List Nat
  deriving DecidableEq, Repr, Inhabited

/-- A region table entry of an image (R322). -/
structure ImgRegion where
  offset : Nat
  len : Nat
  kind : Nat
  mask : Nat
  src : Nat
  deriving DecidableEq, Repr, Inhabited

/-- An identity list entry (R334). -/
structure Ident where
  passage : Nat
  kind : Nat
  fmt : Nat
  dest : Nat
  slab : Nat
  buf : Nat
  count : Nat
  addr : Nat
  deriving DecidableEq, Repr, Inhabited

/-- A model binding entry (R323). -/
structure MBind where
  offset : Nat
  size : Nat
  ord : Nat
  deriving DecidableEq, Repr, Inhabited

/-- A Flint parameter set (R240). -/
structure FlintSet where
  tag : Nat
  stepOfs : Nat
  row0 : Nat
  col0 : Nat
  height : Nat
  width : Nat
  deriving DecidableEq, Repr, Inhabited

/-- A loaded program: the tables of its image (R319 to R324, R140, R240) and its measurement (R326). -/
structure Program where
  geom : Geom
  /-- the geometry word as a number, for Cairn images (R412) -/
  word : Nat
  ndim : Nat
  npass : Nat
  buckets : List (List Nat)
  table : List PassEntry
  idents : List Ident
  binds : List MBind
  regions : List ImgRegion
  fusion : List (BitVec 512)
  /-- one table for each slab of the image -/
  flint : List (List FlintSet)
  meas : List Byte
  deriving DecidableEq, Repr, Inhabited

/-- The states of a context (R406). -/
inductive CtxState where
  | resident | out | faulted
  deriving DecidableEq, Repr, Inhabited

/-- A switch of a context in progress (R410). -/
inductive Switching where
  | none | goingOut | comingIn
  /-- goes out for an earlier command and comes in again for a RUN_PASSAGE -/
  | outThenIn
  deriving DecidableEq, Repr, Inhabited

/-- A context (R405). While it is Out, `data` holds the contents of its Cairn image in HBM. -/
structure Ctx where
  num : Nat
  slabs : List Nat
  slots : Nat
  spad : Nat
  st : CtxState
  switching : Switching
  lastUse : Nat
  prog : Option Program
  data : List CtxSlab
  groups : List Group
  /-- handle of its Cairn image in HBM, 0 for none (R413) -/
  cairn : Nat
  /-- GEOMETRY and PHASH of the header of its Cairn image, while it is Out (R412) -/
  imgWord : Nat
  imgHash : List Byte
  deriving DecidableEq, Repr, Inhabited

/-- A mapped page of a region (R205): its 64 KiB page number, the page size and writability. -/
structure Page where
  num : Nat
  big : Bool
  ro : Bool
  deriving DecidableEq, Repr, Inhabited

/-- A sequence region (R202, R205). `lingering` has the SEQ of the command that unmapped it once for each frame that
awaits R209. -/
structure Region where
  handle : Nat
  size : Nat
  home : Nat
  pages : List Page
  lingering : List Nat
  bytes : Mem
  deriving DecidableEq, Repr, Inhabited

/-- A model part on one slab: its Quarry state (R304 to R315). -/
structure PlaceState where
  slab : Nat
  hot : Bool
  pinned : Bool
  lastUse : Nat
  damaged : Bool
  /-- sequence numbers of the commands that wait for the load; nonempty while it loads -/
  loading : List Nat
  deriving DecidableEq, Repr, Inhabited

/-- A part of a model (R302, R303). -/
structure MPart where
  size : Nat
  mask : Nat
  bytes : Mem
  places : List PlaceState
  deriving DecidableEq, Repr, Inhabited

/-- A model of a partition (R302). -/
structure Model where
  handle : Nat
  parts : List MPart
  deriving DecidableEq, Repr, Inhabited

/-- A held result (R387). -/
structure Held where
  handle : Nat
  slab : Nat
  bytes : List Byte
  deriving DecidableEq, Repr, Inhabited

/-- A tenant session (R457 to R463). -/
structure Session where
  handle : Nat
  kIn : List Byte
  kOut : List Byte
  /-- counters accepted, the highest first (R460) -/
  used : List Nat
  /-- (context, c) of the last CTX_SAVE of each context (R463) -/
  saves : List (Nat × Nat)
  deriving DecidableEq, Repr, Inhabited

/-- A partition (R397 to R402). `flat` and `flatFrames` have one entry for each slab. -/
structure Part where
  live : Bool
  q : Quota
  /-- first physical slot of the block on each slab (R399) -/
  slotBase : List Nat
  /-- entropy draw of the HBM key pair (R297), 0 for none -/
  key : Nat
  flat : List Mem
  flatFrames : List (List Nat)
  ctxs : List Ctx
  regions : List Region
  models : List Model
  held : List Held
  signers : List (List Byte)
  /-- pending ML-KEM key: draw number and body digest (R455) -/
  pendKey : Option (Nat × List Byte)
  session : Option Session
  deriving DecidableEq, Repr, Inhabited

/-! ## Slabs -/

/-- An operation in a unit queue, or started (R51, R52). -/
structure OpE where
  id : Nat
  /-- number of the issue of its line: slots issued together share it -/
  lineId : Nat
  unit : Nat
  part : Nat
  ctx : Nat
  seq : Nat
  /-- line offset from the start of the passage -/
  line : Nat
  bits : BitVec 96
  /-- its partner on the line is coupled with it (R76) -/
  coupled : Bool
  /-- a consumer whose pair has fired (R76) and whose data has not moved yet -/
  fired : Bool
  /-- extent taken at issue (R104) -/
  ext : Nat × Nat
  deriving DecidableEq, Repr, Inhabited

/-- An open loop of a passage (R545): its line and the passes left after this one. -/
structure LoopFrame where
  line : Nat
  left : Nat
  deriving DecidableEq, Repr, Inhabited

/-- A passage selected on a slab and not ended (R80), with its tokens (R70), count register (R170), cursors (R243). -/
structure Live where
  seq : Nat
  part : Nat
  ctx : Nat
  /-- slab of the image -/
  img : Nat
  /-- first line of the passage in the text -/
  first : Nat
  /-- offset of the next line to issue -/
  pc : Nat
  loops : List LoopFrame
  /-- identity of the LOOPR slot that must fire before issue goes on (R545), 0 for none -/
  looprWait : Nat
  /-- passes of the LOOPR body that its count allows, once it has fired -/
  looprCount : Option Nat
  allIssued : Bool
  tokens : List Nat
  count : Nat
  cursors : List Nat
  /-- selected in diagnostic mode (R191) -/
  diag : Bool
  wrote : List Wrote
  deriving DecidableEq, Repr, Inhabited

/-- An MM_LIST in progress (R112, R544): the operation, the entries of its list, those read, the slots that they write
(R106), and what the operation has to report of NaN (R193): flags, elements, the first position, and whether one was
injected. -/
structure ListRun where
  id : Nat
  total : Nat
  read : Nat
  slots : List Nat
  flags : Nat
  births : Nat
  pos : Nat
  inj : Bool
  deriving DecidableEq, Repr, Inhabited

/-- An entry of a physical group queue (R271, R272); `held`: an injection has withheld its start (R488). -/
structure CollE where
  op : OpE
  desc : BitVec 512
  started : Bool
  met : Bool
  held : Bool
  deriving DecidableEq, Repr, Inhabited

/-- A C_GATHER_ARRIVE in progress on a member (R277, R278): units in all, ring chunks per unit, reads that release a
unit, unit numbers arrived, tokens emitted, MM_ARRIVE reads ended per unit. -/
structure Gather where
  total : Nat
  chunks : Nat
  uses : Nat
  arrived : List Nat
  emitted : Nat
  reads : List (Nat × Nat)
  deriving DecidableEq, Repr, Inhabited

/-- A physical group queue (R261, R271, R283). -/
structure GQueue where
  bound : Option (Nat × Nat × Nat)
  entries : List CollE
  gather : Option Gather
  deriving DecidableEq, Repr, Inhabited

/-- Bytes that a transfer of slab `src` has written into a context's share on another slab, and that programs there do not
see until a collective orders them (R74). `carrier` is the first collective of a group with both slabs that fired on slab
`src` after the transfer had ended, and `due` the operation of this slab that met with it or with a later one. -/
structure Inbound where
  part : Nat
  ctx : Nat
  src : Nat
  /-- the transfer, and the passage it belongs to -/
  op : Nat
  seq : Nat
  carrier : Option Nat
  due : Option Nat
  addr : Nat
  bytes : List Byte
  deriving DecidableEq, Repr, Inhabited

/-- A Hentin link seen from one slab (R254, R255, R258, R259, R282). Index 0 send, 1 receive in the two-entry lists. -/
structure HLink where
  up : Bool
  degraded : List Bool
  spares : List Nat
  replays : Nat
  /-- sequence number of the next flit to deliver, per direction -/
  next : List Nat
  /-- consecutive failures of the flits sent and not delivered, from the next one to deliver on, per direction -/
  fails : List (List Nat)
  /-- flits and replayed flits in the present window, per direction, and whether an injection failed one of them -/
  flits : List Nat
  replayed : List Nat
  hurt : List Bool
  deriving DecidableEq, Repr, Inhabited

/-- An HBM stack (R293, R318). Times are of the slab's timer. -/
structure Stack where
  temp : Nat
  level : Nat
  repaired : Nat
  corrected : Nat
  /-- time of the last step down -/
  steppedAt : Nat
  /-- since when every reading has been 80 °C or less -/
  coolSince : Option Nat
  deriving DecidableEq, Repr, Inhabited

/-- A slab. -/
structure Slab where
  /-- passage queue, by SEQ of the RUN_PASSAGE (R79) -/
  passq : List Nat
  live : List Live
  /-- the eight unit queues: array, accumulator, vector A, vector B, transfer, collective, Flint, control (R51) -/
  queues : List (List OpE)
  started : List OpE
  nextId : Nat
  regs : SMem 32
  owner : Option Nat
  /-- activity steps switched in, 0 to 8 (R94) -/
  ramp : Nat
  lists : List ListRun
  inbound : List Inbound
  gqs : List GQueue
  links : List HLink
  frames : Nat
  spadCorrected : Nat
  hbm : List Stack
  bad : List Upset
  /-- local timers of the slab's units in local µs, by UNIT code 0x0 to 0xA (R34) -/
  timers : List Nat
  deriving DecidableEq, Repr, Inhabited

/-! ## Codec, Geode, Talus, power -/

/-- A codec core (R445). -/
structure Core where
  holder : Nat
  part : Nat
  running : Bool
  marked : Nat
  frames : Nat
  deriving DecidableEq, Repr, Inhabited

/-- A decoded frame (R438, R442): its samples, film grain parameters, output order, and whether it was damaged. -/
structure Pic where
  width : Nat
  height : Nat
  tenBit : Bool
  mono : Bool
  planes : Config.EncPlanes
  grain : List Byte
  order : Int
  hurt : Bool
  deriving DecidableEq, Repr, Inhabited

/-- A codec session (R418 to R442). -/
structure CodecSession where
  handle : Nat
  part : Nat
  /-- 0 AV1 encode, 1 AV1 decode, 2 HEVC decode -/
  kind : Nat
  param : List Byte
  cores : List Nat
  home : Nat
  /-- encode: the buffer being filled, then the committed frames with their commit records, oldest first -/
  filling : Mem
  committed : List (Mem × List Byte)
  /-- encode: marks of the 9 reconstruction buffers (R428), as sets of reference slots -/
  marks : List Nat
  /-- encode: (frame, commit record, cap, header asked) of every frame coded so far (R432) -/
  history : List (List Byte × List Byte × Nat × Bool)
  /-- a frame is being coded or decoded -/
  running : Bool
  /-- encode: output of the running command, and its frames over the cap (index, size) -/
  output : List Byte
  capped : List (Nat × Nat)
  /-- frames done by the running command -/
  done : Nat
  /-- decode: bytes given so far, bytes consumed so far, frames written since the session opened -/
  input : List Byte
  consumed : Nat
  index : Nat
  /-- decode: damaged frames of the running command: (index, class, offset) -/
  damaged : List (Nat × Nat × Nat)
  /-- decode: the reference slots, frames that wait for their place in output order, frames released and not written, the
  most recent good reference (R436, R442) -/
  slots : List (Option Pic)
  waiting : List Pic
  ready : List Pic
  good : Option Pic
  deriving DecidableEq, Repr, Inhabited

/-- The codec cluster. -/
structure Codec where
  cores : List Core
  sessions : List CodecSession
  deriving DecidableEq, Repr, Inhabited

/-- The SPDM responder on one transport (R466). -/
structure Spdm where
  version : Bool
  caps : Bool
  algs : Bool
  /-- 0 none, 1 handshake, 2 secured -/
  session : Nat
  secret : List Byte
  transcript : List Byte
  /-- bytes of a large response still to fetch with CHUNK_GET -/
  chunks : List Byte
  deriving DecidableEq, Repr, Inhabited

/-- Geode (R446 to R470). -/
structure Geode where
  debug : Bool
  entOk : Bool
  chal : BitVec 256
  scope : Nat
  /-- entropy draw of the debug key (R467) -/
  debugKey : Nat
  /-- entropy draw of the key pair of the Steward's reserved frames (R296) -/
  stewardKey : Nat
  seedLocked : Bool
  draws : Nat
  spdm : List Spdm
  deriving DecidableEq, Repr, Inhabited

/-- An event as Talus receives it (R475, R476). -/
structure Event where
  code : St
  form : Nat
  part : Nat
  src : Nat
  unit : Nat
  alarm : Bool
  clear : Bool
  inj : Bool
  /-- form 0 -/
  count : Nat
  time : Nat
  d0 : Nat
  d1 : Nat
  d2 : Nat
  /-- form 1 -/
  cmdSeq : Nat
  ctx : Nat
  line : Nat
  op : Nat
  arg : Nat
  deriving DecidableEq, Repr, Inhabited

/-- An open coalescing window (R477): the event that opened it, events merged and the first of them. -/
structure Window where
  opener : Event
  merged : Nat
  first : Option Event
  deriving DecidableEq, Repr, Inhabited

/-- A class of a ring: budget in millionths of a token, drop count and its reasons (R476, R478). -/
structure ClassState where
  code : St
  form : Nat
  budget : Nat
  drops : Nat
  reasons : Nat
  windows : List Window
  deriving DecidableEq, Repr, Inhabited

/-- A Talus ring (R471 to R474). -/
structure Ring where
  isSet : Bool
  base : Nat
  log2n : Nat
  vector : Nat
  head : Nat
  tail : Nat
  written : Nat
  /-- the next record write's translation is refused (R546) -/
  blocked : Bool
  classes : List ClassState
  deriving DecidableEq, Repr, Inhabited

/-- An active alarm (R481): module view 16 or a partition's view. `key` separates lasting conditions. -/
structure Alarm where
  view : Nat
  code : St
  key : Nat
  acked : Bool
  ended : Bool
  stop : Bool
  ev : Event
  deriving DecidableEq, Repr, Inhabited

/-- An armed injection point (R485). `left` none: armed until cleared. -/
structure Armed where
  fn : Nat
  point : Nat
  scope : Nat
  ctx : Nat
  param : Nat
  left : Option Nat
  deriving DecidableEq, Repr, Inhabited

/-- Talus: rings 0 to 15 of the partitions and 16 of the module, alarms in raising order, armed points. -/
structure Talus where
  rings : List Ring
  alarms : List Alarm
  armed : List Armed
  /-- start-up points armed by the management endpoint: point, param (R487) -/
  startup : List (Nat × Nat)
  deriving DecidableEq, Repr, Inhabited

/-- A calibration domain (R504 to R506). Times are of the power manager's timer. -/
structure Domain where
  capture : Nat
  load : Nat
  fallback : Bool
  since : Nat
  /-- lowest load seen by a running recalibration -/
  recal : Option Nat
  deriving DecidableEq, Repr, Inhabited

/-- The power manager (R491 to R511). Domains: slabs 0 to 7, then stacks 0 to 23 at 8 + k. -/
structure PowerMgr where
  vin : Nat
  excursion : Bool
  draw : Nat
  /-- junction readings of slabs 0 to 7 and of the hub -/
  tj : List Nat
  limitPower : List Bool
  limitTherm : List Bool
  coolSince : List (Option Nat)
  episode : Bool
  domains : List Domain
  deriving DecidableEq, Repr, Inhabited

/-- The whole module, the host memory it reaches, and the model's own fields `free` and `pending`. -/
structure State where
  hub : Hub
  port : Port
  fns : List Fn
  flights : List Flight
  parts : List Part
  /-- next object handle (R388) -/
  nextHandle : Nat
  slabs : List Slab
  codec : Codec
  geode : Geode
  talus : Talus
  power : PowerMgr
  /-- host memory by routing ID and host I/O virtual address (R342, log 4) -/
  host : Mem
  /-- counter of free values drawn (log 11) -/
  free : Nat
  /-- commands that wait, first in first out -/
  pending : List Instr
  deriving DecidableEq, Repr, Inhabited

/-! ## Reset -/

def Fn.reset : Fn :=
  { bme := false, msix := false, fmask := false, ats := false, d3hot := false, aer := 0, table := [], pba := [], sent := [], cqAddr := 0, en := false, log2n := 8,
    head := 0, tail := 0, written := 0, slots := [] }

def Quota.zero : Quota :=
  { mask := 0, hostAccess := false, enc := 0, dec := 0, slots := 0, hbm := 0, fab := 0, host := 0, spad := 0, hot := 0,
    frames := 0 }

/-- A partition that does not exist. -/
def Part.absent : Part :=
  { live := false, q := Quota.zero, slotBase := List.replicate 8 0, key := 0, flat := List.replicate 8 [],
    flatFrames := List.replicate 8 [], ctxs := [], regions := [], models := [], held := [],
    signers := List.replicate 8 [], pendKey := none, session := none }

def HLink.reset : HLink :=
  { up := false, degraded := [false, false], spares := [0, 0], replays := 0, next := [0, 0], fails := [[], []],
    flits := [0, 0], replayed := [0, 0], hurt := [false, false] }

def Stack.reset : Stack :=
  { temp := 0, level := 0, repaired := 0, corrected := 0, steppedAt := 0, coolSince := none }

def GQueue.reset : GQueue := { bound := none, entries := [], gather := none }

def Slab.reset : Slab :=
  { passq := [], live := [], queues := List.replicate 8 [], started := [], nextId := 1, regs := [], owner := none,
    ramp := 0, lists := [], inbound := [], gqs := List.replicate 16 GQueue.reset, links := List.replicate 8 HLink.reset, frames := 0,
    spadCorrected := 0, hbm := List.replicate 3 Stack.reset, bad := [], timers := List.replicate 11 0 }

def Ring.reset : Ring :=
  { isSet := false, base := 0, log2n := 0, vector := 0, head := 0, tail := 0, written := 0, blocked := false,
    classes := [] }

def Domain.reset : Domain := { capture := 0, load := 0, fallback := false, since := 0, recal := none }

def PowerMgr.reset : PowerMgr :=
  { vin := 0, excursion := false, draw := 0, tj := List.replicate 9 0, limitPower := List.replicate 8 false,
    limitTherm := List.replicate 8 false, coolSince := List.replicate 8 none, episode := false,
    domains := List.replicate 32 Domain.reset }

def Spdm.reset : Spdm :=
  { version := false, caps := false, algs := false, session := 0, secret := [], transcript := [], chunks := [] }

/-- Geode after a reset whose challenge is entropy draw `n` (R469). -/
def Geode.reset (n : Nat) : Geode :=
  { debug := false, entOk := false, chal := Config.entropy n, scope := 0, debugKey := 0, stewardKey := n + 1,
    seedLocked := false, draws := n + 2, spdm := [Spdm.reset, Spdm.reset] }

def Port.reset : Port :=
  { up := false, cxl := false, flit256 := false, lopt := false, width := 0, rate := 0, ideIo := 0, ideCm := 0,
    keyIo := [], keyCm := [], retrains := 0, numVfs := 0, vfEnable := false,
    decoders := List.replicate 16 { base := 0, size := 0, committed := false, error := false }, memActive := false,
    snoop := [], awaiting := [], dropped := [], bisnp := 0, hostWaits := [], refused := [], viralOn := false,
    viral := false }

def Core.reset : Core := { holder := 0, part := 0, running := false, marked := 0, frames := 0 }

def Startup.reset : Startup :=
  { step := 0, done := false, failed := false, code := 0, elapsed := 0, began := 0, stewardUp := false }

def Pins.reset : Pins := { modRst := false, perst := false, pwrGood := true, thermTrip := false, straps := 0 }

/-- The fuses of the modelled module: a B824, all other fuse values 0 (log 2). -/
def Fuses.model : Fuses :=
  { part := .b824, serial := 0, spareRows := List.replicate 8 0, spareCols := List.replicate 8 0, svn := 0 }

def Hub.reset (f : Fuses) : Hub :=
  { fuse := f, power := .starting, startup := Startup.reset, service := false, acceptService := false, rest := .awake,
    stop := none, seq := 1, timers := List.replicate 5 0, pins := Pins.reset,
    staged := [{ bytes := [], complete := none }, { bytes := [], complete := none }], svnFw := 0, mFw := [],
    mUcode := [], reply := .none }

/-- The module right after power-on reset: start-up runs at step 0, every register at its reset value (R512, R20). -/
def State.reset : State :=
  { hub := Hub.reset Fuses.model, port := Port.reset, fns := List.replicate 16 Fn.reset, flights := [],
    parts := List.replicate 16 Part.absent, nextHandle := 1, slabs := List.replicate 8 Slab.reset,
    codec := { cores := List.replicate 8 Core.reset, sessions := [] }, geode := Geode.reset 0,
    talus := { rings := List.replicate 17 Ring.reset, alarms := [], armed := [], startup := [] },
    power := PowerMgr.reset, host := [], free := 0, pending := [] }

end Sys2Proof.Machine
end

