-- ==== Sys2Proof/Machine/Ops.lean ====
section
/-! DEFINITION. Ops.lean: the named updates of the state, host memory, free values, MSI-X (R361), injections (R485),
Talus records (R471 to R482), and the module stop (R483). Every meaning changes the state through these. -/

namespace Sys2Proof.Machine

/-! ## Named updates -/

def State.setHub (s : State) (h : Hub) : State := { s with hub := h }
def State.setPort (s : State) (p : Port) : State := { s with port := p }
def State.setFns (s : State) (l : List Fn) : State := { s with fns := l }
def State.setFlights (s : State) (l : List Flight) : State := { s with flights := l }
def State.setParts (s : State) (l : List Part) : State := { s with parts := l }
def State.setNextHandle (s : State) (n : Nat) : State := { s with nextHandle := n }
def State.setSlabs (s : State) (l : List Slab) : State := { s with slabs := l }
def State.setCodec (s : State) (c : Codec) : State := { s with codec := c }
def State.setGeode (s : State) (g : Geode) : State := { s with geode := g }
def State.setTalus (s : State) (t : Talus) : State := { s with talus := t }
def State.setPower (s : State) (p : PowerMgr) : State := { s with power := p }
def State.setHost (s : State) (m : Mem) : State := { s with host := m }
def State.setFree (s : State) (n : Nat) : State := { s with free := n }

def State.modFn (s : State) (i : Nat) (f : Fn → Fn) : State := s.setFns (modAt s.fns i f)
def State.modPart (s : State) (i : Nat) (f : Part → Part) : State := s.setParts (modAt s.parts i f)
def State.modSlab (s : State) (i : Nat) (f : Slab → Slab) : State := s.setSlabs (modAt s.slabs i f)
def State.modRing (s : State) (i : Nat) (f : Ring → Ring) : State :=
  s.setTalus { s.talus with rings := modAt s.talus.rings i f }

def State.fn (s : State) (i : Nat) : Fn := nth s.fns i
def State.part (s : State) (i : Nat) : Part := nth s.parts i
def State.slab (s : State) (i : Nat) : Slab := nth s.slabs i
def State.ring (s : State) (i : Nat) : Ring := nth s.talus.rings i

def State.setReply (s : State) (r : Reply) : State := s.setHub { s.hub with reply := r }

/-- The slabs of the part: 8 on a B824, 6 on a B618 (R1, R26). -/
def State.slabCount (s : State) : Nat := match s.hub.fuse.part with | .b824 => 8 | .b618 => 6

/-- HUB_IDENT.PART (R6). -/
def State.partCode (s : State) : Nat := match s.hub.fuse.part with | .b824 => 0x24 | .b618 => 0x18

/-- HUB_IDENT.STEPPING (R6). -/
def stepping : Nat := 0xB1

/-- The module works: start-up has ended and nothing has stopped it (R523, R483). -/
def State.running (s : State) : Bool := decide (s.hub.power = .up) && s.hub.stop.isNone

/-- Function i exists (R342). -/
def State.fnExists (s : State) (i : Nat) : Bool := decide (i = 0) || (s.port.vfEnable && decide (i ≤ s.port.numVfs))

/-- The context of a partition with a number. -/
def Part.ctx? (p : Part) (n : Nat) : Option Ctx := p.ctxs.find? fun c => c.num == n

def State.ctx? (s : State) (p n : Nat) : Option Ctx := (s.part p).ctx? n

def State.modCtx (s : State) (p n : Nat) (f : Ctx → Ctx) : State :=
  s.modPart p fun q => { q with ctxs := modWhere q.ctxs (fun c => c.num == n) f }

/-- A context's private share and slots on a slab. -/
def Ctx.onSlab? (c : Ctx) (slab : Nat) : Option CtxSlab := c.data.find? fun d => d.slab == slab

def Ctx.modSlab (c : Ctx) (slab : Nat) (f : CtxSlab → CtxSlab) : Ctx :=
  { c with data := modWhere c.data (fun d => d.slab == slab) f }

/-- P in bytes (R300). -/
def Ctx.shareBytes (c : Ctx) : Nat := c.spad * 2 ^ 20

def State.flight? (s : State) (seq : Nat) : Option Flight := s.flights.find? fun f => f.seq == seq

def State.modFlight (s : State) (seq : Nat) (g : Flight → Flight) : State :=
  s.setFlights (modWhere s.flights (fun f => f.seq == seq) g)

/-- Commands of a function accepted and not completed (R371). -/
def State.inflight (s : State) (fn : Nat) : Nat := (s.flights.filter fun f => f.fn == fn).length

/-! ## Free values and handles -/

/-- Take the next free-value draw (log 11). -/
def State.draw (s : State) : Nat × State := (s.free, s.setFree (s.free + 1))

/-- `n` free bytes (log 11). -/
def freeBytes (d n : Nat) : List Byte := (List.range n).map (Config.freeByte d)

/-- The next handle of R388. -/
def State.newHandle (s : State) : Nat × State := (s.nextHandle, s.setNextHandle (s.nextHandle + 1))

/-- A draw of Geode's entropy source (R451). -/
def State.entropyDraw (s : State) : Nat × State :=
  (s.geode.draws, s.setGeode { s.geode with draws := s.geode.draws + 1 })

/-- The next hub sequence number (R35). -/
def State.takeSeq (s : State) : Nat × State := (s.hub.seq, s.setHub { s.hub with seq := s.hub.seq + 1 })

/-! ## Host memory -/

/-- First VF Offset and VF Stride of the SR-IOV capability (R342). -/
def firstVfOffset : Nat := 1
def vfStride : Nat := 1

/-- Routing ID of a function, from that of the physical function (R342). -/
def routingId (fn : Nat) : Nat := if fn = 0 then 0 else firstVfOffset + (fn - 1) * vfStride

/-- Where a request of a function reaches host memory: its routing ID beside the I/O virtual address (R342, log 4). -/
def hostAddr (fn a : Nat) : Nat := routingId fn * 2 ^ 64 + a

def State.readHost (s : State) (fn a n : Nat) : List Byte := Memory.read s.host (hostAddr fn a) n

def State.writeHost (s : State) (fn a : Nat) (bs : List Byte) : State := s.setHost (Memory.write s.host (hostAddr fn a) bs)

/-- A write of the Steward, over CXL.cache (R358): an insecure stream discards it (R363, log 55). -/
def State.stewardWrite (s : State) (fn a : Nat) (bs : List Byte) : State :=
  if s.port.ideCm = 2 then s else s.writeHost fn a bs

/-! ## MSI-X (R361, R473) -/

/-- The function may send requests to host memory: Bus Master Enable, in D0 (R340, R347). -/
def Fn.masters (g : Fn) : Bool := g.bme && !g.d3hot

/-- Entry of the MSI-X table; one that was never written is masked. -/
def Fn.vec (g : Fn) (i : Nat) : Vec := (g.table.find? fun e => e.idx == i).getD { idx := i, addr := 0, data := 0, masked := true }

/-- A vector is masked, by its own bit or with the whole function (R361). -/
def Fn.maskedVec (g : Fn) (v : Nat) : Bool := g.fmask || (g.vec v).masked

/-- The message of a vector (R361). -/
def Fn.message (g : Fn) (v : Nat) : Msg := { vec := v, addr := (g.vec v).addr, data := (g.vec v).data }

/-- The message of a vector leaves the module, over CXL.io: an insecure stream discards it (R363, log 55). -/
def State.sendMessage (s : State) (fn v : Nat) : State :=
  if s.port.ideIo = 2 then s else s.modFn fn fun g => { g with sent := g.message v :: g.sent }

/-- Send a vector of a function: masked vectors wait in the pending-bit array, and nothing is sent while MSI-X is off, the
function may not send requests, or it does not exist (R340, R342, R347, R361). -/
def State.sendMsix (s : State) (fn v : Nat) : State :=
  let f := s.fn fn
  if f.msix && f.masters && s.fnExists fn then
    if f.maskedVec v then s.modFn fn fun f => { f with pba := if f.pba.contains v then f.pba else f.pba ++ [v] }
    else s.sendMessage fn v
  else s

/-! ## Injections (R485) -/

/-- Use up one injection of an armed point. -/
def Armed.spend (a : Armed) : Option Armed :=
  match a.left with
  | none => some a
  | some n => if n ≤ 1 then none else some { a with left := some (n - 1) }

/-- Spend the first armed point that satisfies a test. -/
def spendFirst (p : Armed → Bool) : List Armed → Option (Armed × List Armed)
  | [] => none
  | a :: t =>
    if p a then some (a, match a.spend with | some b => b :: t | none => t)
    else (spendFirst p t).map fun r => (r.1, a :: r.2)

/-- An opportunity of a detector: the armed point that it consumes, if any (R485). -/
def State.opportunity (s : State) (point : Nat) (p : Armed → Bool) : Option Armed × State :=
  match spendFirst (fun a => a.point == point && p a) s.talus.armed with
  | some (a, l) => (some a, s.setTalus { s.talus with armed := l })
  | none => (none, s)

/-- The scope of an armed point holds a context of a partition (R485). -/
def Armed.onCtx (a : Armed) (part ctx : Nat) : Bool := (a.scope == 0 && a.fn == part && a.ctx == ctx)
/-- ... a partition. -/
def Armed.onPart (a : Armed) (part : Nat) : Bool := a.scope == 1 && a.fn == part
/-- ... a slab. -/
def Armed.onSlab (a : Armed) (slab : Nat) : Bool := a.scope == 2 && fld a.ctx 3 0 == slab
/-- ... a link. -/
def Armed.onLink (a : Armed) (slab link : Nat) : Bool := a.scope == 3 && fld a.ctx 3 0 == slab && fld a.ctx 7 4 == link
/-- ... a stack. -/
def Armed.onStack (a : Armed) (k : Nat) : Bool := a.scope == 4 && fld a.ctx 4 0 == k
/-- ... the module. -/
def Armed.onModule (a : Armed) : Bool := a.scope == 5

/-! ## Talus -/

/-- Handling of a class (R476): alarm, window in local µs, budget as records per local second and burst, exempt. -/
structure ClassInfo where
  alarm : Bool
  window : Nat
  rate : Nat
  burst : Nat
  exempt : Bool
  deriving DecidableEq, Repr

def St.isStop (c : St) : Bool :=
  match c with
  | .vinRange | .pwrGood | .hbmTrip | .thermTrip | .hsTimeout | .linkDown | .memFatal | .bootFw | .rollback | .hbmTrain
  | .selftest | .fabricTrain | .calFail | .startTimeout | .steward => true
  | _ => false

/-- The table of R476. -/
def classInfo (c : St) (form : Nat) : ClassInfo :=
  if form = 1 then
    match c with
    | .nanMade | .nanScale => { alarm := false, window := 0, rate := 1000, burst := 64, exempt := false }
    | _ => { alarm := false, window := 0, rate := 10000, burst := 256, exempt := false }
  else
    match c with
    | .memCorr => { alarm := false, window := 10000, rate := 100, burst := 16, exempt := false }
    | .hbmUncorr => { alarm := true, window := 10000, rate := 100, burst := 16, exempt := false }
    | .spadUncorr => { alarm := true, window := 10000, rate := 100, burst := 16, exempt := false }
    | .hdmUnmapped => { alarm := false, window := 1000, rate := 1000, burst := 64, exempt := false }
    | .hostAddr => { alarm := false, window := 10000, rate := 100, burst := 16, exempt := false }
    | .linkReplay | .ideFail => { alarm := true, window := 0, rate := 100, burst := 16, exempt := false }
    | .bitstream => { alarm := false, window := 0, rate := 1000, burst := 64, exempt := false }
    | .evtDropped => { alarm := false, window := 0, rate := 0, burst := 0, exempt := true }
    | c => if c.isStop then { alarm := true, window := 0, rate := 0, burst := 0, exempt := true }
           else { alarm := false, window := 0, rate := 100, burst := 16, exempt := false }

/-- The record of an event (R475). -/
def Event.bits (e : Event) (seq : Nat) (phase : Bool) : Nat :=
  let body :=
    if e.form = 1 then
      fld e.cmdSeq 63 0 <<< 96 ||| fld e.ctx 7 0 <<< 160 ||| fld e.line 23 0 <<< 168 ||| fld e.op 7 0 <<< 192
        ||| fld e.arg 54 0 <<< 200
    else
      fld e.count 15 0 <<< 96 ||| fld e.time 31 0 <<< 112 ||| fld e.d0 31 0 <<< 144 ||| fld e.d1 31 0 <<< 176
        ||| fld e.d2 31 0 <<< 208
  fld seq 63 0 ||| e.code.code <<< 64 ||| fld e.part 3 0 <<< 80 ||| fld e.src 3 0 <<< 84 ||| fld e.unit 3 0 <<< 88
    ||| boolNat e.alarm <<< 92 ||| boolNat e.clear <<< 93 ||| (e.form % 2) <<< 94 ||| boolNat e.inj <<< 95
    ||| body ||| boolNat phase <<< 255

/-- The local timer of a unit of a slab, or of the hub (R34). -/
def State.timer (s : State) (src unit : Nat) : Nat :=
  if src < 8 then nth (s.slab src).timers unit else nth s.hub.timers (unit - 0xB)

/-- The timer of the power manager. -/
def State.powTime (s : State) : Nat := s.timer 0xF 0xF

/-- An event of form 0 (R475). -/
def unitEvent (s : State) (code : St) (part src unit d0 d1 d2 : Nat) (inj : Bool := false) : Event :=
  { code := code, form := 0, part := part, src := src, unit := unit, alarm := (classInfo code 0).alarm, clear := false,
    inj := inj, count := 1,
    time := s.timer src unit,
    d0 := d0, d1 := d1, d2 := d2, cmdSeq := 0, ctx := 0, line := 0, op := 0, arg := 0 }

/-- An event of form 1 (R475). -/
def passageEvent (code : St) (part src unit cmdSeq ctx line op arg : Nat) (inj : Bool := false) : Event :=
  { code := code, form := 1, part := part, src := src, unit := unit, alarm := false, clear := false, inj := inj,
    count := 1, time := 0, d0 := 0, d1 := 0, d2 := 0, cmdSeq := cmdSeq, ctx := ctx, line := line, op := op, arg := arg }

def million : Nat := 1000000

/-- The class of a ring, its budget full when nothing has used it (log 18). -/
def Ring.classOf (r : Ring) (c : St) (form : Nat) : ClassState :=
  (r.classes.find? fun x => decide (x.code = c) && x.form == form).getD
    { code := c, form := form, budget := (classInfo c form).burst * million, drops := 0, reasons := 0, windows := [] }

def Ring.setClass (r : Ring) (x : ClassState) : Ring :=
  let same : ClassState → Bool := fun y => decide (y.code = x.code) && y.form == x.form
  if r.classes.any same then { r with classes := modWhere r.classes same fun _ => x }
  else { r with classes := r.classes ++ [x] }

/-- The function whose ring it is (R471). -/
def ringFn (r : Nat) : Nat := if r = 16 then 0 else r

/-- Records unconsumed (R479). -/
def Ring.used (r : Ring) : Nat := (r.tail + 2 ^ 17 - r.head) % 2 ^ 17

/-- Room for an ordinary or an alarm record (R479). -/
def Ring.room (r : Ring) (alarm : Bool) : Bool :=
  decide (r.used < if alarm then 2 ^ r.log2n else 2 ^ r.log2n - 16)

/-- The ring is set and its function can write to host memory (R478). -/
def State.ringOpen (s : State) (r : Nat) : Bool :=
  (s.ring r).isSet && (s.fn (ringFn r)).masters && s.fnExists (ringFn r)

/-- Write a record into a ring and send its interrupt (R473). -/
def State.putRecord (s : State) (r : Nat) (e : Event) (seq : Nat) : State :=
  let g := s.ring r
  let n := 2 ^ g.log2n
  let phase := g.written / n % 2 == 0
  let s1 := s.stewardWrite (ringFn r) (g.base + 32 * (g.written % n)) (toLe 32 (e.bits seq phase))
  let s2 := s1.modRing r fun g => { g with tail := (g.tail + 1) % 2 ^ 17, written := g.written + 1 }
  if e.alarm || g.head == g.tail then s2.sendMsix (ringFn r) g.vector else s2

/-- Count a drop of a class, with its reasons: bit 0 room, 1 budget, 2 unset or blocked (R478). -/
def ClassState.drop (x : ClassState) (why : Nat) : ClassState :=
  { x with drops := Nat.min (2 ^ 32 - 1) (x.drops + 1), reasons := x.reasons ||| why }

/-- Write the ST_EVT_DROPPED record of a class once its three conditions hold together (R478). -/
def State.flushDrop (s : State) (r : Nat) (c : St) (form : Nat) : State :=
  let g := s.ring r
  let x := g.classOf c form
  if 0 < x.drops && s.ringOpen r && !g.blocked && g.room false && ((classInfo c form).exempt || decide (million ≤ x.budget)) then
    let (seq, s1) := s.takeSeq
    let e := { unitEvent s .evtDropped (if r = 16 then 0 else r) 0xF 0xB
                 (c.code + form <<< 16 + (x.reasons % 8) <<< 17) x.drops 0 with alarm := false }
    (s1.putRecord r e seq).modRing r fun g => g.setClass { x with drops := 0, reasons := 0 }
  else s

/-- Write every drop record of a ring that may be written. -/
def State.flushDrops (s : State) (r : Nat) : State :=
  (s.ring r).classes.foldl (fun s x => s.flushDrop r x.code x.form) s

/-- An access of a function to host memory whose translation injection 0x0702 refuses; with ATS off nothing is translated
(R359, R488). -/
def State.atsInjected (s : State) (fn : Nat) : Bool × State :=
  if (s.fn fn).ats then
    match s.opportunity 0x0702 fun a => a.onPart fn with
    | (some _, s1) => (true, s1)
    | (none, s1) => (false, s1)
  else (false, s)

/-- Place one record in a ring, or count a drop (R478, R479, R546). Answers whether it was written, and where its write's
translation was refused, whether that was injected. -/
def State.place (s : State) (r : Nat) (e : Event) (seq : Nat) : State × Bool × Option Bool :=
  let g := s.ring r
  let i := classInfo e.code e.form
  let x := g.classOf e.code e.form
  let noRoom := !g.room e.alarm
  let noToken := !i.exempt && decide (x.budget < million)
  if !s.ringOpen r then (s.modRing r fun g => g.setClass (x.drop 4), false, none)
  else if noRoom || noToken then
    (s.modRing r fun g => g.setClass (x.drop (boolNat noRoom + 2 * boolNat noToken)), false, none)
  else match s.atsInjected (ringFn r) with
  | (inj, s) =>
    if inj || g.blocked then
      (s.modRing r fun g => { g.setClass (x.drop 4) with blocked := g.blocked && inj }, false, some inj)
    else
      ((s.modRing r fun g => g.setClass (if i.exempt then x else { x with budget := x.budget - million })).putRecord r e seq,
        true, none)

/-- Place a record in several rings under one sequence number (R482). -/
def State.placeAll (s : State) (e : Event) (seq : Nat) : List Nat → State × Bool × List (Nat × Bool)
  | [] => (s, false, [])
  | r :: t =>
    let (s1, w, b) := s.place r e seq
    let (s2, w2, bl) := s1.placeAll e seq t
    (s2, w || w2, (b.map fun i => (r, i)).toList ++ bl)

/-- Deliver a record under a number: pending drop records of its class first, then the record. Answers whether some ring
holds it and the rings whose write was refused. -/
def State.deliverCore (s : State) (rings : List Nat) (e : Event) (seq : Nat) : State × Bool × List (Nat × Bool) :=
  (rings.foldl (fun s r => s.flushDrop r e.code e.form) s).placeAll e seq rings

/-- Coalescing (R477): the rings where the event is not merged into an open window, and the rings after it. -/
def State.coalesce (s : State) (e : Event) : List Nat → State × List Nat
  | [] => (s, [])
  | r :: t =>
    let (s1, l) := s.coalesce e t
    if (classInfo e.code e.form).window = 0 then (s1, r :: l) else
    let x := (s1.ring r).classOf e.code e.form
    let same : Window → Bool := fun w =>
      w.opener.part == e.part && w.opener.src == e.src && w.opener.unit == e.unit && w.opener.d0 == e.d0
    match x.windows.find? same with
    | some w =>
      if w.merged < 65535 then
        (s1.modRing r fun g => g.setClass { x with windows := modWhere x.windows same fun w =>
          { w with merged := w.merged + 1, first := some { w.first.getD e with inj := (w.first.getD e).inj || e.inj } } }, l)
      else (s1.modRing r fun g => g.setClass (x.drop 0), l)
    | none =>
      (s1.modRing r fun g => g.setClass { x with windows := x.windows ++ [{ opener := e, merged := 0, first := none }] },
        r :: l)

/-- The event of R546 for a refused record write. It takes a number as every event does (log 19). -/
def State.recordRefused (s : State) (d0 addr : Nat) (inj : Bool) : State :=
  let (seq, s0) := s.takeSeq
  let e := unitEvent s .hostAddr 0 0xF 0xC d0 (addr % 2 ^ 32) (addr / 2 ^ 32 % 2 ^ 32) inj
  let (s1, l) := s0.coalesce e [16]
  (s1.deliverCore l e seq).1

/-- The events of R546 for the partition rings whose record write was refused. -/
def State.refusedRings (s : State) (rings : List (Nat × Bool)) : State :=
  rings.foldl (fun s r => if r.1 = 16 then s else
    let g := s.ring r.1
    s.recordRefused 1 (g.base + 32 * (g.written % 2 ^ g.log2n)) r.2) s

/-- Deliver the record of an event that has its number. -/
def State.deliverAs (s : State) (rings : List Nat) (e : Event) (seq : Nat) : State :=
  let (s1, _, bl) := s.deliverCore rings e seq
  s1.refusedRings bl

/-- Deliver a record that no event of its own brings (a window's follow-up, an alarm's CLEAR record): it takes its number
when some ring holds it (log 19). -/
def State.deliver (s : State) (rings : List Nat) (e : Event) : State :=
  let s0 := rings.foldl (fun s r => s.flushDrop r e.code e.form) s
  let (s1, w, bl) := s0.placeAll e s0.hub.seq rings
  (if w then s1.takeSeq.2 else s1).refusedRings bl

/-- Raise an alarm in a view (R481): a new one, or the active one again, not acknowledged. -/
def Talus.raise (t : Talus) (view : Nat) (e : Event) (key : Nat) (lasting stop : Bool) : Talus :=
  let same : Alarm → Bool := fun a => a.view == view && decide (a.code = e.code) && a.key == key
  if t.alarms.any same then
    { t with alarms := modWhere t.alarms same fun a => { a with acked := false, ended := a.ended && !lasting } }
  else { t with alarms := t.alarms ++ [{ view := view, code := e.code, key := key, acked := false, ended := !lasting,
                                         stop := stop, ev := e }] }

/-- An event as the hub receives it: its number (R35, log 19), its alarms, coalescing and records (R476 to R482). `rings` are
its rings; an alarm class raises an alarm in each of `views`: those of its rings, and the view of a partition that it names
(R481). -/
def State.emit (s : State) (rings : List Nat) (e : Event) (key : Nat := 0) (lasting : Bool := false) (views : List Nat := rings) : State :=
  let (seq, s0) := s.takeSeq
  let s1 := if e.alarm then s0.setTalus (views.foldl (fun t r => t.raise r e key lasting false) s0.talus) else s0
  let (s2, l) := s1.coalesce e rings
  s2.deliverAs l e seq

/-- A unit-form event on the module ring. -/
def State.moduleEvent (s : State) (code : St) (part src unit d0 d1 d2 : Nat) (inj : Bool := false) : State :=
  s.emit [16] (unitEvent s code part src unit d0 d1 d2 inj)

/-- ALERT# is low while an alarm is active in the module view (R482). -/
def State.alert (s : State) : Bool := s.talus.alarms.any fun a => a.view == 16

/-- Alarms of a view, the longest-active first (R474). -/
def State.viewAlarms (s : State) (view : Nat) : List Alarm := s.talus.alarms.filter fun a => a.view == view

/-! ## The module stop -/

/-- The Steward and the host port still run after a stop (R483): not where a handshake stopped the module that one of them, or
the host interface, did not acknowledge (R36). -/
def stopWrites (code : St) (d1 : Nat) : Bool := !(decide (code = .hsTimeout) && [0xB, 0xC, 0x100].contains d1)

/-- A fatal code stops the module (R483): stop records to every set ring, the alarm, viral (R364), and HUB_START during
start-up (R524). A module that is off, held or stopped does not stop again (R515). -/
def State.stopModule (s : State) (code : St) (src unit d0 d1 : Nat) (inj : Bool := false) : State :=
  if s.hub.stop.isSome || !(decide (s.hub.power = .up) || decide (s.hub.power = .starting)) then s else
  let e := unitEvent s code 0 src unit d0 d1 0 inj
  let s1 := s.setTalus (s.talus.raise 16 e 0 true true)
  let (seq, s2) := s1.takeSeq
  let s2 := s2.deliverAs ((List.range 17).filter fun r => stopWrites code d1 && (s.ring r).isSet) e seq
  let trip := decide (code = .thermTrip) || decide (code = .hbmTrip)
  let h := s2.hub
  let s3 := s2.setHub { h with
    stop := some { code := code, src := src, unit := unit, d0 := d0, d1 := d1, inj := inj, suppliesOff := false },
    pins := { h.pins with thermTrip := h.pins.thermTrip || trip },
    startup := if h.power = .starting then
        { h.startup with failed := true, code := code.code, elapsed := Nat.min (2 ^ 32 - 1) (s2.powTime - h.startup.began) }
      else h.startup }
  s3.setPort { s3.port with viral := s3.port.viral || s3.port.viralOn }

/-! ## Idle time -/

/-- A class refills its budget over `n` local µs (R476): rate records per local second are rate millionths per µs. -/
def ClassState.refill (n : Nat) (x : ClassState) : ClassState :=
  let i := classInfo x.code x.form
  { x with budget := Nat.min (i.burst * million) (x.budget + n * i.rate) }

/-- Local µs by which timer `i` advances in 20 µs of true time: every unit counts by its own oscillator, within ±5 %
(R34). -/
def advance (d i : Nat) : Nat := 19 + Config.freeNat (d + i) % 3

/-- Timers after 20 µs. -/
def runTimers (d : Nat) (l : List Nat) : List Nat := l.zipIdx.map fun x => x.1 + advance d x.2

/-- An array operation waits or is in flight on the slab. -/
def Slab.arrayBusy (b : Slab) : Bool :=
  ((nth b.queues 0) ++ b.started).any fun o => o.unit == 0 && o.bits.toNat % 16 != 0

/-- A slab's idle time: its units' timers, and a step of the array's ramp-down where no operation waits or is in flight (R94,
log 13). -/
def Slab.tick (d : Nat) (b : Slab) : Slab :=
  { b with
    timers := runTimers d b.timers
    ramp := if b.arrayBusy then b.ramp else b.ramp - 1 }

/-- 20 µs pass on an empty queue (log 1): the local timer of every unit, the Talus budgets by the Steward's timer, and the
ramps. -/
def idleTick (s : State) : State :=
  let d := s.free
  let s1 := (s.setFree (d + 256)).setHub { s.hub with timers := runTimers d s.hub.timers }
  let s2 := s1.setTalus
    { s1.talus with
      rings := s1.talus.rings.map fun r => { r with classes := r.classes.map (ClassState.refill (advance d 0)) } }
  s2.setSlabs (s2.slabs.zipIdx.map fun b => b.1.tick (d + 16 * (b.2 + 1)))

end Sys2Proof.Machine
end

