-- ==== Sys2Proof/Machine/Operands.lean ====
section
/-! DEFINITION. Operands.lean: every field layout that a slab program gives an operation: lines and slots (R54 to R58),
array, accumulator, vector, transfer, collective, Flint and control slots, and the descriptors they point to. -/

namespace Sys2Proof.Machine

/-! ## Lines and slots (R54) -/

/-- A 512-bit line, as a number. -/
abbrev Line := Nat

/-- First bit of each slot, in the order of VALID (R54). -/
def slotLo (u : Nat) : Nat := [32, 128, 160, 240, 320, 400, 448, 480].getD u 0

/-- Width of each slot (R54). -/
def slotWidth (u : Nat) : Nat := [96, 32, 80, 80, 80, 48, 32, 32].getD u 0

def lineSlot (l : Line) (u : Nat) : Nat := fld l (slotLo u + slotWidth u - 1) (slotLo u)
def lineValid (l : Line) (u : Nat) : Bool := bitOf l (4 + u)
def lineLast (l : Line) : Bool := bitOf l 12

/-- Units are numbered as VALID numbers the slots: 0 array, 1 accumulator, 2 vector A, 3 vector B, 4 transfer,
5 collective, 6 Flint, 7 control (R51, R54). -/
def isVector (u : Nat) : Bool := u == 2 || u == 3

/-- OP of a slot (R57). -/
def slotOp (u x : Nat) : Nat := if isVector u then fld x 7 0 else fld x 3 0

/-- Bits of the head of a slot (R57). -/
def headBits (u : Nat) : Nat := if isVector u then 29 else if u = 6 || u = 7 then 18 else 25

/-- A token field at bit `lo`: its token, if V is 1 (R56). -/
def tokenAt (x lo : Nat) : Option Nat := if bitOf x (lo + 6) then some (fld x (lo + 5) lo) else none

/-- Where the token fields of a slot start: waits, then EMIT (R57). -/
def tokenBits (u : Nat) : List Nat × Nat :=
  if isVector u then ([8, 15], 22) else if u = 6 || u = 7 then ([4], 11) else ([4, 11], 18)

/-- The tokens that a slot's WAIT fields name, once for each naming (R71). -/
def slotWaits (u x : Nat) : List Nat := (tokenBits u).1.filterMap (tokenAt x)

/-- The token that a slot emits (R72). -/
def slotEmit (u x : Nat) : Option Nat := tokenAt x (tokenBits u).2

/-- Every token field with V = 0 has ID 0 (R56). -/
def tokensClean (u x : Nat) : Bool :=
  ((tokenBits u).2 :: (tokenBits u).1).all fun lo => bitOf x (lo + 6) || fld x (lo + 5) lo == 0

/-! ## Array slot -/

def arrShape (x : Nat) : Nat := fld x 26 25
def arrAfmt (x : Nat) : Nat := fld x 29 27
def arrWfmt (x : Nat) : Nat := fld x 32 30
def arrSlot (x : Nat) : Nat := fld x 35 33
def arrAcc (x : Nat) : Bool := bitOf x 36
def arrM (x : Nat) : Nat := fld x 47 37 + 1
def arrA (x : Nat) : Nat := fld x 68 48
def arrW (x : Nat) : Nat := fld x 89 69
def arrFuse (x : Nat) : Nat := fld x 95 90
/-- K-chunk index and group of an MM_ARRIVE. -/
def arrChunk (x : Nat) : Nat := fld (arrA x) 8 0
def arrGroup (x : Nat) : Nat := fld (arrA x) 12 9

/-- K, N, largest M and chunk depth of a SHAPE (R96). -/
def shapeK (h : Nat) : Nat := [512, 256, 1024, 128].getD h 0
def shapeN (h : Nat) : Nat := [512, 1024, 256, 2048].getD h 0
def shapeM (h : Nat) : Nat := [1024, 512, 2048, 256].getD h 0
def shapeChunk (h : Nat) : Nat := [512, 256, 512, 128].getD h 0
def shapeChunks (h : Nat) : Nat := shapeK h / shapeChunk h

/-- AFMT and WFMT go together (R59). -/
def fmtPairOk (a w : Nat) : Bool :=
  if w = 7 then decide (a ≤ 5)
  else (decide (a ≤ 3) && decide (w ≤ 3)) || (a == w && (a == 4 || a == 5))

/-- AFMT codes with block scales (R116). -/
def afmtBlock (a : Nat) : Bool := a == 2 || a == 3

/-- Element bytes of AFMT and WFMT codes (R119). -/
def afmtBytes (a : Nat) : Nat := if a = 4 || a = 5 then 2 else 1

/-- Bytes of an operand of `rows` × `cols` elements whose blocks lie along rows or columns: element bytes, and from the
next 512-byte boundary its `scales` scale bytes (R121). -/
def operandBytes (n bytes scales : Nat) : Nat :=
  if scales = 0 then n * bytes else roundUp (n * bytes) 512 + scales

/-- Where the scale bytes of a block-scaled operand start whose `n` element bytes lie at share address `a`: the next 512-byte
boundary (R121, R173). -/
def scaleAddr (a n : Nat) : Nat := roundUp (a + n) 512

/-- Bytes from `a` to the end of a block-scaled operand's `scales` scale bytes. -/
def scaledBytes (a n scales : Nat) : Nat := scaleAddr a n + scales - a

/-- Bytes of the streamed operand of M rows (R121). -/
def streamBytes (a m k : Nat) : Nat := operandBytes (m * k) (afmtBytes a) (if afmtBlock a then m * (k / 32) else 0)

/-- Bytes of a weight tile with WFMT 0 to 5 (R121). -/
def weightBytes (w k n : Nat) : Nat := operandBytes (k * n) (afmtBytes w) (if afmtBlock w then k / 32 * n else 0)

/-! ## Accumulator slot -/

def accSlot (x : Nat) : Nat := fld x 27 25
def accArg (x : Nat) : Nat := fld x 31 28

/-! ## Vector slots -/

def vDst (x : Nat) : Nat := fld x 34 29
def vSrc1 (x : Nat) : Nat := fld x 40 35
def vSrc2 (x : Nat) : Nat := fld x 46 41
/-- n of a T-form operation. -/
def vN (x : Nat) : Nat := fld x 52 47 + 1
def vFmt (x : Nat) : Nat := fld x 55 53
def vImm (x : Nat) : Nat := fld x 71 56
def vAux (x : Nat) : Nat := fld x 79 72

def mReg (x : Nat) : Nat := fld x 34 29
def mCnt (x : Nat) : Nat := fld x 40 35
def mFmt (x : Nat) : Nat := fld x 43 41
def mAddr (x : Nat) : Nat := fld x 67 44
def mStride (x : Nat) : Nat := fld x 79 68

/-- Element-wise operations with a second operand (R176). -/
def isBinary (op : Nat) : Bool := decide (1 ≤ op) && decide (op ≤ 6)

/-- Row reductions (R180). -/
def isReduce (op : Nat) : Bool := decide (0x10 ≤ op) && decide (op ≤ 0x13)

/-- Special functions of vector B (R188). -/
def isSpecial (op : Nat) : Bool := decide (1 ≤ op) && decide (op ≤ 0x0A)

/-- Is the slot of M form? -/
def isMForm (u op : Nat) : Bool :=
  op == 0x40 || op == 0x41 || (u == 2 && (op == 0x20 || op == 0x21)) || (u == 3 && op == 0x30)

/-- Input channels per group of V_GCONV (R196). -/
def gconvG (x : Nat) : Nat := 2 ^ (1 + fld (vAux x) 6 5)

/-- Taps along the spatial axis of a convolution (R195, R196). -/
def convTaps (op x : Nat) : Nat := if op = 0x30 then fld (vAux x) 4 0 else fld (vAux x) 4 0 / gconvG x

/-- Registers that a slot reads (R61, R176, R180, R197). -/
def slotReads (u x : Nat) : List (Nat × Nat) :=
  let op := slotOp u x
  let n := vN x
  if u = 2 then
    if isBinary op then
      let b := fld (vAux x) 1 0
      [(vSrc1 x, n)] ++ (if b = 0 || b = 3 then [(vSrc2 x, n)] else if b = 2 then [(vSrc2 x, 1)] else [])
        ++ (if op = 4 then [(vDst x, n)] else [])
    else if 7 ≤ op ∧ op ≤ 0x0A then [(vSrc1 x, n)]
    else if op = 0x0C then [(vSrc1 x, n)]
    else if op = 0x0D || op = 0x0E then [(vSrc1 x, n), (vSrc2 x, n)]
    else if isReduce op then [(vSrc1 x, n)] ++ (if bitOf (vAux x) 0 then [(vDst x, 1)] else [])
    else if op = 0x30 || op = 0x31 then
      [(vSrc1 x, n + (if 1 < convTaps op x then 1 else 0)), (vSrc2 x, 1)]
        ++ (if bitOf (vAux x) (if op = 0x30 then 5 else 7) then [(vDst x, n)] else [])
    else if op = 0x41 then [(mReg x, mCnt x + 1)]
    else []
  else if u = 3 then
    if isSpecial op || op = 0x12 || op = 0x20 then [(vSrc1 x, n)]
    else if op = 0x10 then [(vSrc1 x, n), (vSrc2 x, n)]
    else if op = 0x11 then [(vSrc1 x, n), (vSrc2 x, n)] ++ (if bitOf (vAux x) 0 then [(vDst x, n)] else [])
    else if op = 0x41 then [(mReg x, mCnt x + 1)]
    else []
  else []

/-- Registers that a slot writes (R61, R180, R246). -/
def slotWrites (u x : Nat) : List (Nat × Nat) :=
  let op := slotOp u x
  if u = 6 then (if op = 1 then [(fld x 23 18, 4 * (fld x 27 24 + 1))] else [])
  else if !isVector u || op = 0 then []
  else if isMForm u op then (if op = 0x40 then [(mReg x, mCnt x + 1)] else [])
  else if u = 2 && isReduce op then [(vDst x, 1)]
  else [(vDst x, vN x)]

/-- The slot names tile registers, and so waits for the file (R61, R168). -/
def namesRegs (u x : Nat) : Bool := !(slotReads u x).isEmpty || !(slotWrites u x).isEmpty

/-- Two register ranges meet. -/
def rangesMeet (a b : List (Nat × Nat)) : Bool := a.any fun p => b.any fun q => overlaps p.1 p.2 q.1 q.2

/-! ## Transfer, collective, Flint and control slots -/

def xfAddr (x : Nat) : Nat := fld x 48 25
def xfCount (x : Nat) : Nat := fld x 56 49 + 1

def colGroup (x : Nat) : Nat := fld x 28 25
def colDesc (x : Nat) : Nat := fld x 47 29

def flReg (x : Nat) : Nat := fld x 23 18
def flGrains (x : Nat) : Nat := fld x 27 24 + 1
def flSet (x : Nat) : Nat := fld x 31 28

def ctlArg (x : Nat) : Nat := fld x 31 18

/-! ## Descriptors -/

/-- A transfer descriptor (R62), by its 512 bits. -/
structure XfDesc where
  sspace : Nat
  saddr : Nat
  dspace : Nat
  daddr : Nat
  run : Nat
  rows : Nat
  sstride : Nat
  dstride : Nat
  pattern : Nat
  rsvd : Nat
  deriving DecidableEq, Repr, Inhabited

def xfDescOf (d : Nat) : XfDesc :=
  { sspace := fld d 63 60, saddr := fld d 59 0, dspace := fld d 127 124, daddr := fld d 123 64, run := fld d 159 128
    rows := fld d 191 160, sstride := fld d 255 192, dstride := fld d 319 256, pattern := fld d 383 320
    rsvd := fld d 511 384 }

/-- A fusion descriptor (R141), by its 512 bits. -/
structure Fuse where
  kind : Nat
  act : Nat
  biasEn : Bool
  scaleEn : Bool
  resEn : Bool
  norm : Nat
  gammaEn : Bool
  betaEn : Bool
  final : Bool
  vfmt : Nat
  sfmt : Nat
  gcnt : Nat
  scal : Nat
  eps : Nat
  bias : Nat
  scale : Nat
  gamma : Nat
  beta : Nat
  stat : Nat
  oacc : Nat
  deriving DecidableEq, Repr, Inhabited

def fuseOf (d : Nat) : Fuse :=
  { kind := fld d 3 0, act := fld d 7 4, biasEn := bitOf d 8, scaleEn := bitOf d 9, resEn := bitOf d 10
    norm := fld d 12 11, gammaEn := bitOf d 13, betaEn := bitOf d 14, final := bitOf d 15, vfmt := fld d 17 16
    sfmt := fld d 19 18, gcnt := fld d 23 20, scal := fld d 47 32, eps := fld d 63 48, bias := fld d 87 64
    scale := fld d 111 88, gamma := fld d 135 112, beta := fld d 159 136, stat := fld d 183 160, oacc := fld d 207 184 }

/-- The bits that a kind of descriptor may set, beside KIND (R141, R142): (hi, lo) fields. -/
def fuseFields (kind : Nat) : List (Nat × Nat) :=
  match kind with
  | 1 => [(7, 4), (12, 11), (13, 13), (14, 14), (17, 16), (19, 18), (63, 48), (135, 112), (159, 136), (183, 160)]
  | 2 => [(7, 4), (8, 8), (9, 9), (10, 10), (17, 16), (47, 32), (87, 64), (111, 88)]
  | 3 => [(7, 4), (8, 8), (17, 16), (23, 20), (87, 64), (183, 160)]
  | 4 => [(7, 4), (8, 8), (9, 9), (10, 10), (12, 11), (13, 13), (14, 14), (17, 16), (23, 20), (47, 32), (63, 48), (87, 64),
          (111, 88), (135, 112), (159, 136), (183, 160)]
  | 5 => [(7, 4), (8, 8), (9, 9), (17, 16), (47, 32), (87, 64), (111, 88)]
  | 6 => [(47, 32), (183, 160)]
  | 7 => [(15, 15), (183, 160), (207, 184)]
  | _ => []

/-- A fusion descriptor keeps the rules of R141 and R142. -/
def fuseOk (d : Nat) : Bool :=
  let f := fuseOf d
  let mask := (fuseFields f.kind).foldl (fun m p => m ||| ((2 ^ (p.1 + 1 - p.2) - 1) <<< p.2)) 15
  decide (1 ≤ f.kind) && decide (f.kind ≤ 7) && (d ||| mask) == mask && decide (f.act ≤ 5) && decide (f.norm ≤ 2)
    && decide (f.vfmt ≤ 1) && decide (f.sfmt ≤ 2) && (f.kind != 4 || f.norm == 1 || f.norm == 2)

/-- A list header or entry of MM_LIST (R112). -/
structure ListEntry where
  a : Nat
  w : Nat
  slot : Nat
  acc : Bool
  row0 : Nat
  rsvd : Nat
  deriving DecidableEq, Repr, Inhabited

def listEntryOf (d : Nat) : ListEntry :=
  { a := fld d 20 0, w := fld d 41 21, slot := fld d 44 42, acc := bitOf d 45, row0 := fld d 56 46, rsvd := fld d 127 57 }

/-- A collective descriptor (R265), by its 512 bits. -/
structure CDesc where
  dtype : Nat
  num : Bool
  gmin : Nat
  unitq : Nat
  uses : Nat
  bytes : Nat
  src : Nat
  dst : Nat
  root : Nat
  cpr : Nat
  rsvd : Bool
  deriving DecidableEq, Repr, Inhabited

def cdescOf (d : Nat) : CDesc :=
  { dtype := fld d 3 0, num := bitOf d 4, gmin := fld d 14 8, unitq := fld d 19 16, uses := fld d 27 20
    bytes := fld d 63 32, src := fld d 84 64, dst := fld d 116 96, root := fld d 130 128, cpr := fld d 144 136
    rsvd := fld d 7 5 != 0 || fld d 15 15 != 0 || fld d 31 28 != 0 || fld d 95 85 != 0 || fld d 127 117 != 0
      || fld d 135 131 != 0 || fld d 511 145 != 0 }

/-- A box descriptor of VB_CROP (R230), by its 512 bits. -/
structure Box where
  src : Nat
  dst : Nat
  h : Nat
  w : Nat
  pitch : Nat
  extrap : Nat
  y0 : Word
  x0 : Word
  y1 : Word
  x1 : Word
  rsvd : Bool
  deriving DecidableEq, Repr, Inhabited

def boxOf (d : Nat) : Box :=
  { src := fld d 23 0, dst := fld d 47 24, h := fld d 63 48, w := fld d 79 64, pitch := fld d 103 80
    extrap := fld d 127 112, y0 := BitVec.ofNat 32 (fld d 159 128), x0 := BitVec.ofNat 32 (fld d 191 160)
    y1 := BitVec.ofNat 32 (fld d 223 192), x1 := BitVec.ofNat 32 (fld d 255 224)
    rsvd := fld d 111 104 != 0 || fld d 511 256 != 0 }

/-- A Flint parameter set (R240), by its 256 bits. -/
def flintOf (d : Nat) : FlintSet :=
  { tag := fld d 15 0, stepOfs := fld d 63 32, row0 := fld d 87 64, col0 := fld d 111 88, height := fld d 135 112
    width := fld d 159 136 }

def flintClean (d : Nat) : Bool := fld d 31 16 == 0 && fld d 255 160 == 0

/-- The rectangle lies on grain boundaries (R241). -/
def FlintSet.whole (p : FlintSet) : Bool :=
  p.row0 % 64 == 0 && p.col0 % 64 == 0 && p.height % 64 == 0 && p.width % 64 == 0 && p.height != 0 && p.width != 0

/-- The geometry word (R84). -/
def geomOf (w : Nat) : Geom :=
  { ver := fld w 3 0, slabs := fld w 7 4, arrLog2 := fld w 11 8, laneLog2 := fld w 15 12, slots := fld w 19 16
    spad := fld w 31 20, part := fld w 39 32, stepping := fld w 47 40, hbm := fld w 55 48, fab := fld w 63 56
    host := fld w 71 64, groups := fld w 76 72, rsvd := fld w 127 77 }

/-- The ranges of R84 that step 2 of R327 checks (R85). -/
def Geom.inRange (g : Geom) : Bool :=
  g.ver == 1 && decide (1 ≤ g.slabs) && decide (g.slabs ≤ 8) && [2, 4, 8].contains g.slots && decide (1 ≤ g.spad)
    && decide (g.spad ≤ 1024) && decide (1 ≤ g.hbm) && decide (g.hbm ≤ 128) && decide (1 ≤ g.fab) && decide (g.fab ≤ 128)
    && decide (1 ≤ g.host) && decide (g.host ≤ 128) && decide (g.groups ≤ 16) && g.rsvd == 0

/-! ## Form of a slot (R55 to R61 and the chapters' own load checks) -/

/-- What the form checks of a line need of its image (R110, R140, R241, R263). -/
structure FormEnv where
  fusion : List Nat
  nflint : Nat
  groups : Nat
  longSums : Nat

/-- The fusion descriptor that a field names; index 0 names none (R140). -/
def FormEnv.fuse? (e : FormEnv) (k : Nat) : Option Fuse := if k = 0 then none else (e.fusion[k - 1]?).map fuseOf

/-- A range of registers stays inside the file (R61). -/
def inFile (l : List (Nat × Nat)) : Bool := l.all fun r => decide (r.1 + r.2 ≤ 64)

def arrayForm (e : FormEnv) (x : Nat) : Bool :=
  let op := slotOp 0 x
  let f := e.fuse? (arrFuse x)
  fmtPairOk (arrAfmt x) (arrWfmt x) && decide (arrM x ≤ shapeM (arrShape x))
    && decide (arrFuse x ≤ e.fusion.length)
    && (match f with
      | none => true
      | some d => if op = 3 then d.kind == 5 else d.kind == 1 && (op != 2 || d.norm == 0))
    && (op != 2 || (arrSlot x == 0 && !arrAcc x && arrW x == 0))
    && (op != 3 || arrA x == 0)
    && (op != 4 || (fld (arrA x) 20 13 == 0 && decide (arrGroup x < e.groups)))

/-- The register fields of a T-form operation, each with the operation's n registers (R61). -/
def tRanges (x : Nat) : List (Nat × Nat) := [(vDst x, vN x), (vSrc1 x, vN x), (vSrc2 x, vN x)]

def accForm (e : FormEnv) (x : Nat) : Bool :=
  let op := slotOp 1 x
  if op = 2 || op = 3 then decide (accArg x < e.longSums) else accArg x == 0

/-- T form of vector A (R136, R175 to R180, R195 to R197). -/
def vectorAForm (x : Nat) : Bool :=
  let op := slotOp 2 x
  let aux := vAux x
  let b := fld aux 1 0
  inFile (tRanges x) && inFile (slotReads 2 x) &&
  (if isBinary op then
    vFmt x == 0 && (b == 1 || vImm x == 0) && (b != 1 || vSrc2 x == 0)
      && (!bitOf aux 2 || op == 5 || op == 6) && (b == 2 || fld aux 7 3 == 0)
  else if op = 7 || op = 8 then vFmt x == 0 && vSrc2 x == 0 && vImm x == 0 && aux == 0
  else if op = 9 || op = 0x0A then vFmt x == 0 && vSrc2 x == 0 && aux == 0
  else if op = 0x0C then vSrc2 x == 0 && vImm x == 0 && vFmt x != 7 && fld aux 2 0 != 7 && fld aux 7 3 == 0
  else if op = 0x0D then
    vImm x == 0 && vFmt x != 7 && fld aux 7 5 == 0 && decide (23 - (fmtOf (vFmt x)).fb ≤ fld aux 4 0) && decide (fld aux 4 0 ≤ 23)
  else if op = 0x0E then vFmt x == 0 && vImm x == 0 && aux == 0
  else if isReduce op then
    vFmt x == 0 && vSrc2 x == 0 && (op == 0x13 || vImm x == 0) && fld aux 7 2 == 0
      && (!bitOf aux 1 || op == 0x11 || op == 0x13)
  else
    let t := fld aux 4 0
    vFmt x == 0 && vImm x == 0 && decide (1 ≤ t)
      && (if op = 0x30 then fld aux 7 6 == 0 else t % gconvG x == 0)
      && !rangesMeet [(vDst x, vN x)] [(vSrc1 x, vN x + (if 1 < convTaps op x then 1 else 0)), (vSrc2 x, 1)])

/-- T form of vector B (R175, R185 to R188, R201, R249). -/
def vectorBForm (x : Nat) : Bool :=
  let op := slotOp 3 x
  inFile (tRanges x) && vFmt x == 0 &&
  (if op = 0x10 || op = 0x11 then
    fld (vAux x) 7 1 == 0 && ((op == 0x10 && bitOf (vAux x) 0) || vImm x == 0)
      && !rangesMeet [(vDst x, vN x)] [(vSrc1 x, vN x), (vSrc2 x, vN x)]
  else vSrc2 x == 0 && vImm x == 0 && vAux x == 0)

/-- The fields of an output that is not written are zero (R58). -/
def noOutput (x : Nat) : Bool := mAddr x == 0 && mFmt x == 0 && mStride x == 0

/-- M form (R58, R61, R142, R150, R172, R173, R229). `acc` is the opcode of the accumulator slot of the line, if it is
valid. -/
def memForm (e : FormEnv) (u x : Nat) (acc : Option Nat) : Bool :=
  let op := slotOp u x
  let blockStride := !isBlock (mFmt x) || mStride x == 0
  if op = 0x40 || op = 0x41 then
    decide (mReg x + mCnt x + 1 ≤ 64) && mFmt x != 7 && blockStride
      && (mStride x == 0 || decide (32 * (mCnt x + 1) * fmtBytes (mFmt x) ≤ mStride x * 64))
  else if u = 3 then decide (mFmt x ≤ 4)
  else
    let k := (e.fuse? (mReg x)).map Fuse.kind
    decide (mReg x ≤ e.fusion.length) && mFmt x != 7 && blockStride &&
    (if op = 0x20 then
      (if acc = some 5 then k == some 4 else mReg x == 0 || k == some 2 || (k == some 3 && noOutput x))
     else acc == some 4 && mCnt x == 0 && (k == some 6 || k == some 7)
       && (match e.fuse? (mReg x) with | some d => d.kind != 7 || d.final || noOutput x | none => false))

/-- The opcodes of a unit (R58). -/
def opKnown (u op : Nat) : Bool :=
  match u with
  | 0 => decide (op ≤ 4)
  | 1 => decide (op ≤ 6)
  | 2 => decide (op ≤ 0x0A) || [0x0C, 0x0D, 0x0E, 0x10, 0x11, 0x12, 0x13, 0x20, 0x21, 0x30, 0x31, 0x40, 0x41].contains op
  | 3 => decide (op ≤ 0x0A) || [0x10, 0x11, 0x12, 0x20, 0x30, 0x40, 0x41].contains op
  | 4 => decide (op ≤ 2)
  | 5 => decide (op ≤ 9)
  | 6 => decide (op ≤ 1)
  | _ => decide (op ≤ 5)

/-- The form of one valid slot. -/
def slotForm (e : FormEnv) (u x : Nat) (acc : Option Nat) : Bool :=
  let op := slotOp u x
  tokensClean u x && opKnown u op &&
  (if op = 0 then x >>> headBits u == 0
   else match u with
    | 0 => arrayForm e x
    | 1 => accForm e x
    | 4 => fld x 79 57 == 0 && (op != 2 || fld x 56 49 == 0)
    | 5 => decide (colGroup x < e.groups)
    | 6 => decide (flReg x + 4 * flGrains x ≤ 64) && decide (flSet x < e.nflint)
    | 7 => op == 1 || op == 3 || ctlArg x == 0
    | _ => if isMForm u op then memForm e u x acc else if u = 2 then vectorAForm x else vectorBForm x)

/-- OP of a valid slot of a line. -/
def lineOp (l : Line) (u : Nat) : Option Nat := if lineValid l u then some (slotOp u (lineSlot l u)) else none

/-- The partner of the accumulator slot of a line: the unit coupled with it (R76). -/
def partnerUnit (l : Line) : Option Nat :=
  match lineOp l 1 with
  | some a =>
    if a = 4 || a = 5 then
      (match lineOp l 2 with
      | some v => if v = 0x20 || v = 0x21 then some 2 else none
      | none => none).orElse fun _ => if a = 4 && lineOp l 0 == some 3 then some 0 else none
    else none
  | none => none

/-- Coupled operations stand with one partner each, and a chain does not feed its own slot (R76, R107). -/
def couplingOk (l : Line) : Bool :=
  let a := lineOp l 1
  let drain := a == some 4 || a == some 5
  let vec := lineOp l 2 == some 0x20 || lineOp l 2 == some 0x21
  let chain := lineOp l 0 == some 3
  drain == (vec || chain) && !(vec && chain) && (!chain || a == some 4)
    && (!chain || arrSlot (lineSlot l 0) != accSlot (lineSlot l 1))

/-- The form of a line (R54, R55, R58). -/
def lineForm (e : FormEnv) (l : Line) : Bool :=
  fld l 3 0 == 1 && fld l 31 13 == 0 && couplingOk l &&
  (List.range 8).all fun u => if lineValid l u then slotForm e u (lineSlot l u) (lineOp l 1) else lineSlot l u == 0

/-- Loops open after a line when `o` are open before it; nothing where R68 is broken. -/
def loopsAfter (l : Line) (o : Nat) : Option Nat :=
  match lineOp l 7 with
  | some 1 => if o < 4 then some (o + 1) else none
  | some 3 => if o < 4 then some (o + 1) else none
  | some 2 => if o = 0 then none else some (o - 1)
  | _ => some o

/-- Loops of a passage nest at most four deep and are closed inside it (R68). `o` counts the open ones. -/
def loopsForm : List Line → Nat → Bool
  | [], _ => true
  | l :: t, o =>
    match loopsAfter l o with
    | none => false
    | some n => if lineLast l then n == 0 && loopsForm t 0 else loopsForm t n

end Sys2Proof.Machine
end

