-- ==== Sys2Proof/Machine/Commands.lean ====
section
/-! DEFINITION. Commands.lean: the table of R389: opcodes, functions, argument layouts, and which context a command
names. -/

namespace Sys2Proof.Machine

/-- OPCODE of a command (R389). -/
def Cmd.code : Cmd → Nat
  | .statusGet => 0x0001 | .serviceEnter => 0x0002 | .restEnter => 0x0003
  | .partCreate => 0x0101 | .partDestroy => 0x0102 | .partSet => 0x0103
  | .ctxCreate => 0x0104 | .ctxDestroy => 0x0105 | .ctxSave => 0x0106 | .ctxRestore => 0x0107
  | .modelLoad => 0x0201 | .modelDrop => 0x0202 | .modelPin => 0x0203 | .modelUnpin => 0x0204 | .quarryStat => 0x0205
  | .regionCreate => 0x0211 | .regionDestroy => 0x0212 | .regionMap => 0x0213 | .regionUnmap => 0x0214
  | .progLoad => 0x0301 | .runPassage => 0x0302 | .fetch => 0x0303 | .resultDrop => 0x0304
  | .groupCreate => 0x0401 | .groupDestroy => 0x0402 | .copy => 0x0501 | .fill => 0x0502
  | .codecOpen => 0x0601 | .codecClose => 0x0602 | .codecEncode => 0x0603 | .codecDecode => 0x0604
  | .attest => 0x0701 | .sessionOpen => 0x0702 | .sessionClose => 0x0703 | .signerAdd => 0x0704
  | .signerRemove => 0x0705 | .debugUnlock => 0x0706 | .ringSet => 0x0801 | .alarmAck => 0x0802
  | .inject => 0x0A01 | .injectClear => 0x0A02

/-- The 41 commands. -/
def Cmd.all : List Cmd :=
  [.statusGet, .serviceEnter, .restEnter, .partCreate, .partDestroy, .partSet, .ctxCreate, .ctxDestroy, .ctxSave,
   .ctxRestore, .modelLoad, .modelDrop, .modelPin, .modelUnpin, .quarryStat, .regionCreate, .regionDestroy, .regionMap,
   .regionUnmap, .progLoad, .runPassage, .fetch, .resultDrop, .groupCreate, .groupDestroy, .copy, .fill, .codecOpen,
   .codecClose, .codecEncode, .codecDecode, .attest, .sessionOpen, .sessionClose, .signerAdd, .signerRemove,
   .debugUnlock, .ringSet, .alarmAck, .inject, .injectClear]

def Cmd.ofCode (v : Nat) : Option Cmd := Cmd.all.find? fun c => c.code == v

/-- Commands that only the physical function may issue (R389). -/
def Cmd.pfOnly : Cmd → Bool
  | .serviceEnter | .restEnter | .partCreate | .partDestroy | .partSet | .debugUnlock => true
  | _ => false

/-- Commands that only a virtual function may issue (R389). -/
def Cmd.vfOnly : Cmd → Bool
  | .sessionOpen | .sessionClose => true
  | _ => false

/-- Commands that only diagnostic mode allows (R389). -/
def Cmd.diagOnly : Cmd → Bool
  | .serviceEnter | .debugUnlock => true
  | _ => false

/-- The listed argument fields of a command: byte offset, bytes, and the named bits of its first byte where the entry
names single bits (R389). -/
def Cmd.fields : Cmd → List (Nat × Nat × Nat)
  | .statusGet | .quarryStat => [(0, 8, 255), (8, 4, 255)]
  | .serviceEnter | .restEnter => []
  | .partCreate | .partSet =>
    [(0, 1, 255), (1, 1, 255), (2, 1, 1), (3, 1, 255), (4, 1, 255), (5, 1, 255), (6, 1, 255), (7, 1, 255), (8, 1, 255),
     (10, 2, 255), (12, 2, 255), (16, 4, 255)]
  | .partDestroy => [(0, 1, 255)]
  | .ctxCreate => [(0, 1, 255), (1, 1, 255), (2, 2, 255)]
  | .ctxDestroy => [(0, 2, 255)]
  | .ctxSave | .ctxRestore => [(0, 2, 255), (8, 8, 255)]
  | .modelLoad => [(0, 1, 255), (1, 1, 3), (4, 4, 255), (8, 8, 255)]
  | .modelDrop | .modelPin | .modelUnpin | .regionDestroy | .codecClose | .sessionClose => [(0, 4, 255)]
  | .regionCreate => [(0, 8, 255), (8, 1, 255)]
  | .regionMap => [(0, 4, 255), (4, 1, 3), (8, 8, 255), (16, 4, 255)]
  | .regionUnmap => [(0, 4, 255), (8, 8, 255), (16, 8, 255)]
  | .progLoad => [(0, 2, 255), (2, 1, 255), (8, 8, 255), (16, 8, 255)]
  | .runPassage =>
    [(0, 2, 255), (2, 1, 255), (3, 1, 255), (4, 16, 255), (20, 4, 255), (24, 8, 255), (32, 64, 255), (96, 32, 255),
     (128, 8, 255)]
  | .fetch => [(0, 8, 255), (8, 8, 255), (16, 4, 255)]
  | .resultDrop => [(0, 8, 255)]
  | .groupCreate =>
    [(0, 2, 255), (2, 1, 255), (3, 1, 255), (4, 8, 255), (12, 1, 255), (13, 1, 255), (14, 2, 255), (16, 4, 255)]
  | .groupDestroy => [(0, 2, 255), (2, 1, 255)]
  | .copy => [(0, 8, 255), (8, 8, 255), (16, 8, 255), (24, 2, 255)]
  | .fill => [(0, 8, 255), (8, 8, 255), (16, 8, 255), (24, 2, 255)]
  | .codecOpen => [(0, 1, 255), (8, 8, 255), (16, 4, 255)]
  | .codecEncode => [(0, 4, 255), (4, 2, 255), (8, 8, 255), (16, 4, 255), (24, 8, 255)]
  | .codecDecode => [(0, 4, 255), (4, 2, 255), (6, 1, 255), (8, 8, 255), (16, 4, 255), (20, 4, 255)]
  | .attest => [(0, 8, 255), (8, 4, 255), (16, 32, 255)]
  | .sessionOpen => [(0, 8, 255), (8, 8, 255), (16, 4, 255)]
  | .signerAdd => [(0, 8, 255), (8, 1, 255)]
  | .signerRemove => [(0, 1, 255)]
  | .debugUnlock => [(0, 8, 255), (8, 4, 255)]
  | .ringSet => [(0, 8, 255), (8, 1, 255), (9, 1, 255), (10, 1, 1)]
  | .alarmAck => [(0, 2, 255)]
  | .inject => [(0, 2, 255), (2, 1, 255), (3, 1, 255), (4, 2, 255), (8, 8, 255)]
  | .injectClear => [(0, 2, 255)]

/-- The named bits of argument byte `i` of a command (R389). -/
def Cmd.byteMask (c : Cmd) (i : Nat) : Nat :=
  (c.fields.foldl (fun m f => if f.1 ≤ i && decide (i < f.1 + f.2.1) then m ||| f.2.2 else m) 0)

/-- Every reserved bit of the argument area is zero (R389). -/
def Cmd.argsClean (c : Cmd) (args : List Byte) : Bool :=
  (args.zipIdx.all fun b => (b.1.toNat &&& (255 - c.byteMask b.2)) == 0)

/-- The argument field of `n` bytes at an offset. -/
def Flight.arg (f : Flight) (off n : Nat) : Nat := numAt f.args off n

/-- SPACE of a 64-bit transfer address (R62). -/
def spaceOf (a : Nat) : Nat := fld a 63 60

/-- The context a command names (R383, R391), as its number. -/
def Flight.ctxNamed (f : Flight) : Option Nat :=
  match f.cmd with
  | .ctxDestroy | .ctxSave | .ctxRestore | .progLoad | .runPassage | .groupCreate | .groupDestroy => some (f.arg 0 2)
  | .codecDecode => some (f.arg 4 2)
  | .copy => if spaceOf (f.arg 0 8) = 2 || spaceOf (f.arg 8 8) = 2 then some (f.arg 24 2) else none
  | .fill => if spaceOf (f.arg 0 8) = 2 then some (f.arg 24 2) else none
  | .inject => if f.arg 2 1 = 0 then some (f.arg 4 2) else none
  | _ => none

/-! ## Outcomes -/

/-- Codes of a command whose counter the module cannot trust: their records stay in plaintext (R462). -/
def St.untrusted (c : St) : Bool := decide (c = .authFail) || decide (c = .replay)

/-- A command in flight ends with a code and no effect. -/
def Flight.failed (g : Flight) (c : St) (d0 : Nat := 0) (d1 : Nat := 0) : Flight :=
  { g with
    status := c
    phase := .done
    detail0 := d0
    detail1 := d1
    value := 0
    outs := []
    prot := g.prot && !c.untrusted }

/-- A command fails with a code (R378). -/
def State.failCmd (s : State) (f : Flight) (c : St) (d0 : Nat := 0) (d1 : Nat := 0) : State :=
  s.modFlight f.seq fun g => g.failed c d0 d1

/-- A command succeeds with a VALUE and the buffers it writes (R384). -/
def State.okCmd (s : State) (f : Flight) (value : Nat := 0) (outs : List OutBuf := []) (d0 : Nat := 0) : State :=
  s.modFlight f.seq fun g => { g with status := .ok, phase := .done, value := value, outs := outs, detail0 := d0 }

/-- A command goes on until events end its work. -/
def State.busyCmd (s : State) (f : Flight) (waits : List Nat := []) : State :=
  s.modFlight f.seq fun g => { g with phase := .busy, waits := waits }

end Sys2Proof.Machine
end

