-- ==== Sys2Proof/Machine/Crypt.lean ====
section
/-! DEFINITION. Crypt.lean: the protected form of a tenant session (R459 to R463), over the uninterpreted AES-256-GCM of
Config (log 9). -/

namespace Sys2Proof.Machine

/-- The nonce of R459. -/
def gcmNonce (c idx dir chunk : Nat) : BitVec 96 :=
  BitVec.ofNat 96 (fld c 63 0 ||| fld idx 6 0 <<< 64 ||| (dir % 2) <<< 71 ||| fld chunk 23 0 <<< 72)

/-- The additional data of R459, as little-endian fields in the order the rule lists them (log 9). -/
def gcmAad (part op idx chunk n : Nat) (final : Bool) : List Byte :=
  toLe 1 part ++ toLe 2 op ++ toLe 1 idx ++ toLe 3 chunk ++ toLe 4 n ++ toLe 1 (boolNat final)

/-- The plaintext bytes of a chunk (R461). -/
def chunkBytes : Nat := 65536

def chunkCount (n : Nat) : Nat := Nat.max 1 (ceilDiv n chunkBytes)

/-- E(L) of R461: the bytes that a protected buffer of L plaintext bytes occupies. -/
def protSize (n : Nat) : Nat :=
  sumNat ((List.range (chunkCount n)).map fun i => roundUp (Nat.min chunkBytes (n - i * chunkBytes)) 64 + 64)

/-- One chunk of R461 with its trailer. -/
def sealChunk (key : List Byte) (part op idx c chunk : Nat) (final : Bool) (pt : List Byte) : List Byte :=
  let (ct, tag) := Config.gcmSeal key (gcmNonce c idx 1 chunk) (gcmAad part op idx chunk pt.length final) pt
  bytesAt ct 0 (roundUp pt.length 64) ++ bytesAt tag 0 16 ++ toLe 4 chunk ++ toLe 4 pt.length ++ toLe 8 (boolNat final)
    ++ toLe 8 c ++ List.replicate 24 0

/-- A protected buffer, module to host (R461). -/
def sealBuffer (key : List Byte) (part op idx c : Nat) (pt : List Byte) : List Byte :=
  let n := chunkCount pt.length
  ((List.range n).map fun i =>
    sealChunk key part op idx c i (decide (i + 1 = n)) ((pt.drop (i * chunkBytes)).take chunkBytes)).flatten

/-- Open the chunks of a protected buffer of `n` plaintext bytes: every trailer must be in order, carry the counter and
mark the last chunk; a chunk that fails gives nothing (R461). `dir` is the direction under which it was sealed. -/
def openChunks (key : List Byte) (part op idx c dir : Nat) : Nat → Nat → List Byte → Nat → Option (List Byte)
  | 0, _, _, _ => some []
  | k + 1, i, buf, left =>
    let n := Nat.min chunkBytes left
    let r := roundUp n 64
    let tr := bytesAt buf r 64
    let final := decide (k = 0)
    if numAt tr 16 4 = i && numAt tr 20 4 = n && numAt tr 24 1 = boolNat final && numAt tr 32 8 = c then
      match Config.gcmOpen key (gcmNonce c idx dir i) (gcmAad part op idx i n final) (bytesAt buf 0 n) (bytesAt tr 0 16) with
      | none => none
      | some pt => (openChunks key part op idx c dir k (i + 1) (buf.drop (r + 64)) (left - n)).map fun t => pt ++ t
    else none

/-- The counters of the trailers of a protected buffer (R463). -/
def trailerCounters : Nat → List Byte → Nat → List Nat
  | 0, _, _ => []
  | k + 1, buf, left =>
    let n := Nat.min chunkBytes left
    let r := roundUp n 64
    numAt buf (r + 32) 8 :: trailerCounters k (buf.drop (r + 64)) (left - n)

/-- The host refuses the translation of a command's access to host memory: by injection 0x0702, or as
ATS_TRANSLATION_REFUSED announced; the two at one access are one refusal (R359, R486). -/
def State.hostRefuses (s : State) (f : Flight) : Bool × State :=
  let (inj, s1) := s.atsInjected f.fn
  if (s1.fn f.fn).ats && s1.port.refused.contains f.seq then
    (true, s1.setPort { s1.port with refused := s1.port.refused.filter fun q => q != f.seq })
  else (inj, s1)

/-- What an argument reached by pointer holds: plaintext, or a protected buffer under a session (R458, R461). -/
def State.hostArg (s : State) (f : Flight) (op idx a n : Nat) : Except St (List Byte) :=
  match (s.part f.fn).session with
  | none => .ok (s.readHost f.fn a n)
  | some k =>
    match openChunks k.kIn f.fn op idx f.ctr 0 (chunkCount n) 0 (s.readHost f.fn a (protSize n)) n with
    | none => .error .authFail
    | some bs => .ok bs

/-- A command gets to host memory for a read: not over an insecure stream (R363), nor where the host refuses (R359). -/
def State.hostOpen (s : State) (f : Flight) : State × Option St :=
  if s.port.ideCm = 2 then (s, some .ideFail) else
  match s.hostRefuses f with
  | (true, s1) => (s1, some .hostAddr)
  | (false, s1) => (s1, none)

/-- Read an argument reached by pointer. -/
def State.hostIn (s : State) (f : Flight) (op idx a n : Nat) : State × Except St (List Byte) :=
  match s.hostOpen f with
  | (s1, some e) => (s1, .error e)
  | (s1, none) => (s1, s1.hostArg f op idx a n)

/-- The header fields that join the additional data of the argument area (R460, log 9). -/
def Flight.headerAad (f : Flight) : List Byte :=
  toLe 2 f.cmd.code ++ toLe 1 (boolNat f.irq) ++ toLe 1 (boolNat f.ordered) ++ toLe 1 f.vector ++ toLe 4 f.tag

/-- The argument area under a session: its counter, and its plaintext (R459, R460). -/
def Session.openArgs (k : Session) (f : Flight) : Except St (Nat × List Byte) :=
  let c := numAt f.args 0 8
  let aad := gcmAad f.fn f.cmd.code 0 0 200 true ++ f.headerAad
  match Config.gcmOpen k.kIn (gcmNonce c 0 0 0) aad (bytesAt f.args 24 200) (bytesAt f.args 8 16) with
  | none => .error .authFail
  | some pt =>
    if c = 0 || k.used.contains c || c + 1024 ≤ maxNat k.used then .error .replay
    else .ok (c, bytesAt pt 0 200 ++ List.replicate 24 0)

/-- A command as its sender means it: the area of one that waits under a session opened, or nothing where it will not
open (R460). -/
def State.meant (s : State) (f : Flight) : Option Flight :=
  match f.phase, (s.part f.fn).session with
  | .ordered, some k =>
    match k.openArgs f with
    | .ok (c, args) => some { f with
        args := args
        ctr := c
        prot := true }
    | .error _ => none
  | _, _ => some f

/-- The bytes that lie in host memory for a result buffer (R384, R461); under a session, LEN bytes in protected form. -/
def outBytes (s : State) (f : Flight) (op : Nat) (o : OutBuf) : List Byte :=
  match f.prot, (s.part f.fn).session with
  | true, some k => sealBuffer k.kOut f.fn op o.index f.ctr (bytesAt o.bytes 0 o.len)
  | _, _ => o.bytes

/-- Where the epoch word lies after the buffer's start (R384, R461). -/
def epochOfs (f : Flight) (o : OutBuf) : Nat := if f.prot then protSize o.len else o.len

/-- A result buffer whose address and LEN are legal (R384). -/
def bufOk (a n : Nat) : Bool := a % 64 == 0 && n % 64 == 0

end Sys2Proof.Machine
end

