-- ==== Sys2Proof/Machine/Fault.lean ====
section
/-! DEFINITION. Fault.lean: context faults and teardown (R82, R281, R380, R383, R416). -/

namespace Sys2Proof.Machine

/-- Drop everything of a context from a slab: queued and started operations, passages queued and selected with their hold
of the register file (R198), the operations of its groups (R82, R281), and what transfers of other slabs have still to show
here. `seqs` are its RUN_PASSAGE commands. -/
def Slab.dropCtx (b : Slab) (part ctx : Nat) (seqs : List Nat) : Slab :=
  let mine : OpE → Bool := fun o => o.part == part && o.ctx == ctx
  { b with
    passq := b.passq.filter fun q => !seqs.contains q
    live := b.live.filter fun l => !(l.part == part && l.ctx == ctx)
    owner := b.owner.filter fun q => !b.live.any fun l => l.seq == q && l.part == part && l.ctx == ctx
    inbound := b.inbound.filter fun w => !(w.part == part && w.ctx == ctx)
    queues := b.queues.map fun q => q.filter fun o => !mine o
    started := b.started.filter fun o => !mine o
    lists := b.lists.filter fun l => !b.started.any fun o => o.id == l.id && mine o
    gqs := b.gqs.map fun g =>
      match g.bound with
      | some (p, c, _) => if p = part && c = ctx then { g with entries := [], gather := none } else g
      | none => g }

/-- What a context fault reports (R380, R475). -/
structure FaultInfo where
  code : St
  slab : Nat
  unit : Nat
  /-- the operation that faulted, 0 for none -/
  id : Nat
  /-- SEQ of the RUN_PASSAGE, or of the command that faulted the context -/
  seq : Nat
  line : Nat
  op : Nat
  detail0 : Nat
  detail1 : Nat
  arg : Nat
  inj : Bool
  deriving DecidableEq, Repr

/-- OP of an operation as records show it (R57, R475). -/
def OpE.opNo (o : OpE) : Nat := if o.unit = 2 || o.unit = 3 then o.bits.toNat % 256 else o.bits.toNat % 16

/-- A context fault on a line of a passage: DETAIL0 of R380, and ARG of R475. -/
def lineFault (code : St) (slab : Nat) (o : OpE) (unit : Nat) (d1 : Nat := 0xFFFFFFFF) (inj : Bool := false) : FaultInfo :=
  { code := code, slab := slab, unit := unit, id := o.id, seq := o.seq, line := o.line, op := o.opNo,
    detail0 := slab + (o.line % 2 ^ 24) * 256, detail1 := d1, arg := d1, inj := inj }

/-- The event of an operation that made NaN in diagnostic mode (R193, R475): the code, POS of the first element, and how
many. -/
def State.nanEvent (s : State) (slab : Nat) (o : OpE) (unit flags births pos : Nat) (inj : Bool) : State :=
  let code := if bitOf flags 3 && !bitOf flags 2 then St.nanScale else St.nanMade
  s.emit [o.part] (passageEvent code o.part slab unit o.seq o.ctx o.line o.opNo
    (pos % 2 ^ 25 + Nat.min births (2 ^ 20 - 1) * 2 ^ 25) inj)

/-- The list operations of a context that a fault stops send what they have to report (R193): in diagnostic mode an
MM_LIST sends its one event when it ends. -/
def State.reportLists (s : State) (slab part ctx : Nat) : State :=
  let b := s.slab slab
  b.started.foldl (fun s o =>
    match b.lists.find? fun r => r.id == o.id with
    | some r =>
      if o.part == part && o.ctx == ctx && decide (0 < r.births) && b.live.any fun l => l.seq == o.seq && l.diag then
        s.nanEvent slab o 0 r.flags r.births r.pos r.inj
      else s
    | none => s) s

/-- Offset of the commit record in an input frame (R425). -/
def commitOfs : Nat := 0x0FFFFE00

/-- Bytes written to the frame sink hold free values, as long as their frame has not been encoded (R75, R426). -/
def CodecSession.blurSink (c : CodecSession) (addr : Nat) (bs : List Byte) : CodecSession :=
  let k := addr / 2 ^ 28
  let a := addr % 2 ^ 28
  if k < c.history.length then c
  else if k - c.history.length < c.committed.length then
    { c with committed := modAt c.committed (k - c.history.length) fun e => if a = commitOfs then (e.1, bs) else (Memory.write e.1 a bs, e.2) }
  else { c with filling := Memory.write c.filling a bs }

/-- Bytes that an operation has written hold free values (R75, R82, R281, log 11). -/
def State.blur (s : State) (p c : Nat) (w : Wrote) : State :=
  let bs := freeBytes s.free w.len
  let s1 := s.setFree (s.free + 1)
  match w.kind with
  | 0 => s1.modPart p fun q => { q with flat := modAt q.flat w.key fun m => Memory.write m w.addr bs }
  | 1 => s1.modPart p fun q =>
      { q with regions := modWhere q.regions (fun r => r.handle == w.key) fun r => { r with bytes := Memory.write r.bytes w.addr bs } }
  | 2 => s1.writeHost p w.addr bs
  | 3 => s1.setCodec { s1.codec with
      sessions := modWhere s1.codec.sessions (fun x => x.handle == w.key && x.part == p) fun x => x.blurSink w.addr bs }
  | _ => s1.modCtx p c fun x => x.modSlab w.key fun d => { d with share := Memory.write d.share w.addr bs }

/-- Operations in progress on a slab: started, or collectives of a group (R281). -/
def Slab.inProgress (b : Slab) (id : Nat) : Bool :=
  (b.started.any fun o => o.id == id) || b.gqs.any fun g => g.entries.any fun e => e.op.id == id && e.started

/-- The outputs of a context's operations in progress on a slab are discarded: their bytes hold free values. What operation
`keep` has moved stays: the one that faulted, as R212 and R289 say of a transfer's pieces. -/
def State.discardOutputs (s : State) (slab part ctx keep : Nat) : State :=
  let b := s.slab slab
  let ws := (b.live.filter fun l => l.part == part && l.ctx == ctx).flatMap fun l =>
    l.wrote.filter fun w => b.inProgress w.op && w.op != keep
  ws.foldl (fun s w => s.blur part ctx w) s

/-- The operations of a context stop on every slab (R82): operation `id` of slab `slab` is the one that faulted. -/
def State.stopOps (s : State) (part ctx slab id : Nat) : State :=
  (List.range 8).foldl (fun s k => (s.reportLists k part ctx).discardOutputs k part ctx (if k = slab then id else 0)) s

/-- The commands of a context that are in flight, by their SEQ (R383). -/
def State.ofCtx (s : State) (part ctx : Nat) (f : Flight) : Bool :=
  f.fn == part && ((s.meant f).bind Flight.ctxNamed) == some ctx

/-- A command ends with a code; one that waits under a session has its counter used and its record protected (R395,
R460, R462). -/
def State.endCmd (s : State) (f : Flight) (c : St) (d0 : Nat := 0) (d1 : Nat := 0) : State :=
  let g := (s.meant f).getD f
  let s1 := if f.phase = .ordered && g.prot then
      s.modPart f.fn fun q => { q with session := q.session.map fun k => { k with used := g.ctr :: k.used } }
    else s
  s1.modFlight f.seq fun _ => g.failed c d0 d1

/-- The held results of a run go with it. -/
def State.dropHeldOf (s : State) (f : Flight) : State :=
  if f.cmd = .runPassage then s.modPart f.fn fun q => { q with held := q.held.filter fun x => x.handle / 16 != f.seq } else s

/-- A context faults (R82, R281, R383, R416): its operations are removed everywhere and their outputs discarded, its
RUN_PASSAGE completes with the code, and so does the CTX_RESTORE that fails for it (R289), its other commands in flight
complete with ST_CTX_FAULTED, and the event goes to the partition's ring. -/
def State.contextFault (s : State) (part ctx : Nat) (i : FaultInfo) : State :=
  let s0 := s.stopOps part ctx i.slab i.id
  let all := s0.flights.filter fun f => s0.ofCtx part ctx f
  let seqs := (all.filter fun f => f.run.isSome).map Flight.seq
  let s1 := s0.setSlabs (s0.slabs.map fun b => b.dropCtx part ctx seqs)
  let s2 := all.foldl (fun s f =>
    if f.seq = i.seq && (f.run.isSome || decide (f.cmd = .ctxRestore)) then s.endCmd f i.code i.detail0 i.detail1 else (s.endCmd f .ctxFaulted).dropHeldOf f) s1
  let s3 := s2.modCtx part ctx fun c => { c with st := .faulted, switching := .none }
  s3.emit [part] (passageEvent i.code part i.slab i.unit i.seq ctx i.line i.op i.arg i.inj)

/-- A slot as CTX_CREATE leaves it (R103). -/
def AccSlot.fresh : AccSlot := { vals := [], ext := none, sat := false, count := 0, gated := false }

/-- Empty every physical queue whose binding satisfies a test. -/
def Slab.unbind (b : Slab) (p : Nat × Nat × Nat → Bool) : Slab :=
  { b with
    gqs := modWhere b.gqs (fun g => g.bound.any p) fun _ => GQueue.reset }

/-- A group releases its physical queues (R262). -/
def State.releaseGroup (s : State) (part ctx lidx : Nat) : State :=
  s.setSlabs (s.slabs.map fun b => b.unbind fun k => k == (part, ctx, lidx))

/-- Release every group of a context (R262). -/
def State.releaseGroups (s : State) (part ctx : Nat) : State :=
  s.setSlabs (s.slabs.map fun b => b.unbind fun k => k.1 == part && k.2.1 == ctx)

/-- Disarm the points of a context (R487). -/
def State.disarmCtx (s : State) (part ctx : Nat) : State :=
  s.setTalus { s.talus with armed := s.talus.armed.filter fun a => !a.onCtx part ctx }

/-- A context after teardown (R416): its share reads +0, its slots are as at creation, and it holds no program and no
group. An Out context stays Out with its image. -/
def Ctx.tornDown (c : Ctx) : Ctx :=
  { c with
    st := if c.st = .out then .out else .resident
    switching := .none
    prog := none
    groups := []
    data := if c.st = .out then c.data else
      c.data.map fun d => { d with share := [], slots := d.slots.map fun _ => AccSlot.fresh } }

/-- The bad words in a context's share and slots go with their content. -/
def placeOfCtx (p : Place) (part ctx : Nat) : Bool :=
  match p with
  | .share q c _ _ => q == part && c == ctx
  | .acc q c _ _ _ => q == part && c == ctx
  | .cairn q c _ _ => q == part && c == ctx
  | _ => false

def placePart : Place → Option Nat
  | .share q _ _ _ | .hot q _ _ _ _ | .acc q _ _ _ _ | .flat q _ _ | .page q _ _ | .cold q _ _ _ _ | .cairn q _ _ _
  | .held q _ _ _ | .codec q _ _ _ => some q
  | .freeSpad _ _ | .steward _ => none

def State.dropBad (s : State) (p : Place → Bool) : State :=
  s.setSlabs (s.slabs.map fun b => { b with bad := b.bad.filter fun u => !p u.place })

/-- Tear a context down on every slab (R416). -/
def State.teardown (s : State) (part ctx : Nat) : State :=
  let s1 := (s.releaseGroups part ctx).modCtx part ctx Ctx.tornDown
  (s1.disarmCtx part ctx).dropBad fun p => placeOfCtx p part ctx

/-- CTX_TEARDOWN_END (R416, R487): the Steward has torn a faulted context down. -/
def ctxTeardownEnd (part ctx : Nat) (s : State) : State :=
  match s.ctx? part ctx with
  | some c => if s.running && decide (c.st = .faulted) then s.teardown part ctx else s
  | none => s

def execCtxTeardownEnd (part ctx : Nat) (s : State) : Host.Outcome State Fault Refusal :=
  .next (ctxTeardownEnd part ctx s)

end Sys2Proof.Machine
end

