-- ==== Sys2Proof/Machine/Ecc.lean ====
section
/-! DEFINITION. Ecc.lean: what the check codes do when a memory is read (R288 to R290, R108), and the injections into
them (R485, R486, R488). -/

namespace Sys2Proof.Machine

def nextFree (s : State) (n : Nat) : State := s.setFree (s.free + n)

/-- A stack of a slab counts corrected words (R318). -/
def State.countHbm (s : State) (slab j n : Nat) : State :=
  s.modSlab slab fun b => { b with hbm := modAt b.hbm j fun t => { t with corrected := Nat.min (2 ^ 32 - 1) (t.corrected + n) } }

/-- A slab counts corrected scratchpad and accumulator symbols (R317). -/
def State.countSpad (s : State) (slab n : Nat) : State :=
  s.modSlab slab fun b => { b with spadCorrected := Nat.min (2 ^ 32 - 1) (b.spadCorrected + n) }

/-- Whose a word of HBM is (R476): its partition, and its partition address where it lies in flat memory. `none` is a word
of the Steward's frames or of no partition. -/
abbrev HbmWord := Option (Nat × Option Nat)

/-- The word of HBM at a place (R401, R476). -/
def hbmPlace : Place → HbmWord
  | .flat p _ a => some (p, some (a / 64 * 64))
  | .page p _ _ | .cold p _ _ _ _ | .cairn p _ _ _ | .held p _ _ _ | .codec p _ _ _ => some (p, none)
  | .share _ _ _ _ | .freeSpad _ _ | .hot _ _ _ _ _ | .acc _ _ _ _ _ | .steward _ => none

/-- PART and the address of D1 and D2 (R476). The spec gives frames outside flat memory no partition address: free value
`d` (log 11). -/
def hbmAddr (d : Nat) : HbmWord → Nat × Nat
  | some (p, some a) => (p, a)
  | some (p, none) => (p, Config.freeNat d % 2 ^ 37)
  | none => (0, 2 ^ 64 - 1)

/-- ST_MEM_CORR for a word of HBM: stack j of the slab (R476). -/
def State.hbmCorrected (s : State) (slab j : Nat) (w : HbmWord) (inj : Bool) : State :=
  let p := hbmAddr s.free w
  ((nextFree s 1).countHbm slab j 1).moduleEvent .memCorr p.1 slab 0x9 (2 + j) (p.2 % 2 ^ 32) (p.2 / 2 ^ 32 % 2 ^ 32) inj

/-- ST_MEM_CORR for a scratchpad word with its symbols counted (R476). Where the spec does not place the word, its
physical offset is free (log 14). -/
def State.spadCorrectedEv (s : State) (slab : Nat) (phys : Option Nat) (n : Nat) (inj : Bool) : State :=
  ((nextFree s 1).countSpad slab n).moduleEvent .memCorr 0 slab 0x8 0
    (phys.getD (Config.freeNat s.free % 2 ^ 25 * 32)) 0 inj

/-- ST_MEM_CORR for an accumulator word (R476): physical slot and slot index. -/
def State.accCorrectedEv (s : State) (slab phys idx : Nat) (inj : Bool) : State :=
  (s.countSpad slab 1).moduleEvent .memCorr 0 slab 0x1 1 (phys * 2 ^ 19 + idx) 0 inj

def Slab.dropUpset (b : Slab) (u : Upset) : Slab :=
  { b with bad := b.bad.filter fun v => v != u }

/-- A read meets the bad words `us` of a memory whose code corrects `lim` symbols, and the injections at points p1
(correctable) and p2 (not) (R485, R488). `report` corrects and reports one word: a real one, or the injected one alone. An
injection that meets a real word, by `same`, gives one event with INJ 1 (R486). Answers whether a word was not
correctable, and whether that was injected. -/
def State.meetCodes (s : State) (us : List Upset) (lim p1 p2 : Nat) (armed : Armed → Bool) (same : Armed → Upset → Bool)
    (report : State → Option Upset → Option Armed → State) : State × Option Bool :=
  let (o1, s1) := s.opportunity p1 armed
  let (o2, s2) := s1.opportunity p2 armed
  let t1 := o1.bind fun a => us.find? (same a)
  let t2 := o2.bind fun a => us.find? (same a)
  let s3 := (us.filter fun u => decide (u.symbols ≤ lim) && t2 != some u).foldl
    (fun s u => report s (some u) (if t1 = some u then o1 else none)) s2
  let s4 := if o1.isSome && t1.isNone then report s3 none o1 else s3
  (s4, if (us.any fun u => decide (lim < u.symbols)) || o2.isSome then
      some (o2.isSome || t1.any fun u => decide (lim < u.symbols)) else none)

/-- A read of HBM that a partition causes (R288, R289), of the bad words at places that satisfy `hit`. `addr` is the
partition address and the bytes read; a read of frames that the spec gives no partition address may cover the word that
PARAM names, which is free (R485, log 11). Scope 4 takes a read of any word of the stack, which a run of bytes is once, at
its `start`. -/
def State.readHbm (s : State) (slab part : Nat) (hit : Place → Bool) (addr : Option (Nat × Nat)) (start : Bool := true) :
    State × Option Bool :=
  let named : Armed → Nat := fun a => fld a.param 36 0 / 64 * 64
  let armed : Armed → Bool := fun a =>
    (a.onPart part && fld a.param 39 37 == slab &&
      (match addr with | some (x, n) => overlaps x n (named a) 64 | none => Config.freeBool s.free))
    || (start && a.scope == 4 && fld a.ctx 4 0 / 3 == slab)
  let same : Armed → Upset → Bool := fun a u =>
    a.scope == 4 || addr.isNone || hbmPlace u.place == some (part, some (named a))
  (nextFree s 1).meetCodes ((s.slab slab).bad.filter fun u => hit u.place) 2 0x0105 0x0106 armed same fun s u a =>
    let j := match a with
      | some x => if x.scope = 4 then fld x.ctx 4 0 % 3 else Config.freeNat s.free % 3
      | none => Config.freeNat s.free % 3
    let s1 := nextFree s 1
    match u with
    | some u => (s1.modSlab slab fun b => b.dropUpset u).hbmCorrected slab j (hbmPlace u.place) a.isSome
    | none =>
      let w := match a, addr with
        | some x, some (y, _) => some (if x.scope = 4 then y / 64 * 64 else named x)
        | some x, none => if x.scope = 4 then none else some (named x)
        | none, _ => none
      s1.hbmCorrected slab j (some (part, w)) true

/-- The physical offset that an armed scratchpad point names: scope 2 gives one (R488). -/
def Armed.physOffset (a : Armed) : Option Nat := if a.scope = 2 then some (fld a.param 29 0) else none

/-- A read of scratchpad meets the bad words at places that satisfy a test: one bad symbol is corrected, two are not
correctable (R290). Injections 0x0103 and 0x0104: `off` is the share offset read, in a context of a partition; whether a
physical offset lies in it is free (log 14). -/
def State.readSpad (s : State) (slab part ctx : Nat) (off n : Nat) (hit : Place → Bool) : State × Option Bool :=
  let armed : Armed → Bool := fun a =>
    (a.onCtx part ctx && overlaps off n (fld a.param 29 0 / 32 * 32) 32) || (a.onSlab slab && Config.freeBool s.free)
  let same : Armed → Upset → Bool := fun a u =>
    a.scope == 2 || match u.place with | .share _ _ _ o => o / 32 == fld a.param 29 0 / 32 | _ => false
  (nextFree s 1).meetCodes ((s.slab slab).bad.filter fun u => hit u.place) 1 0x0103 0x0104 armed same fun s u a =>
    let s1 := match u with | some u => s.modSlab slab fun b => b.dropUpset u | none => s
    s1.spadCorrectedEv slab (a.bind Armed.physOffset) 1 a.isSome

/-- Places of accumulator values [a, a + n) of a slot. -/
def inSlot (p c slab slot a n : Nat) (x : Place) : Bool :=
  match x with
  | .acc q d k l i => q == p && d == c && k == slab && l == slot && overlaps a n (i / 8 * 8) 8
  | _ => false

/-- A read of the values [a, a + n) of an accumulator slot (R108): one bad symbol in a word is corrected, two are not. -/
def State.readAcc (s : State) (slab part ctx slot phys a n : Nat) : State × Option Bool :=
  if n = 0 then (s, none) else
  let armed : Armed → Bool := fun x => x.onCtx part ctx && fld x.param 2 0 == slot
  s.meetCodes ((s.slab slab).bad.filter fun u => inSlot part ctx slab slot a n u.place) 1 0x0101 0x0102 armed
    (fun _ u => match u.place with | .acc _ _ _ _ i => i / 8 == a / 8 | _ => false) fun s u x =>
    match u with
    | some u => (s.modSlab slab fun b => b.dropUpset u).accCorrectedEv slab phys
        (match u.place with | .acc _ _ _ _ i => i | _ => 0) x.isSome
    | none => s.accCorrectedEv slab phys a true

/-- A write replaces the code words that it covers: bad words in [a, a + n) of a memory are gone. -/
def State.overwrite (s : State) (slab : Nat) (hit : Place → Bool) : State :=
  s.modSlab slab fun b => { b with bad := b.bad.filter fun u => !hit u.place }

/-- Places of a context's share inside [a, a + n). -/
def inShare (part ctx slab a n : Nat) (p : Place) : Bool :=
  match p with | .share q c k o => q == part && c == ctx && k == slab && overlaps a n (o / 32 * 32) 32 | _ => false

/-- Places of flat memory inside [a, a + n). -/
def inFlat (part slab a n : Nat) (p : Place) : Bool :=
  match p with | .flat q k o => q == part && k == slab && overlaps a n (o / 64 * 64) 64 | _ => false

end Sys2Proof.Machine
end

