-- ==== Sys2Proof/Machine/Quota.lean ====
section
/-! DEFINITION. Quota.lean: what a partition uses of its quotas (R303, R398 to R401, R405), and the partition's flat
memory. -/

namespace Sys2Proof.Machine

def frameBytes : Nat := 2 ^ 21

/-- A quota of a partition on a slab: zero off its SLABMASK (R398). -/
def Part.quotaOn (p : Part) (slab : Nat) (f : Quota → Nat) : Nat := if p.live && bitOf p.q.mask slab then f p.q else 0

/-- F of a partition on a slab, in bytes (R401). -/
def Part.flatSize (p : Part) (slab : Nat) : Nat := p.quotaOn slab Quota.frames * frameBytes

/-- The spans of a region that hold a mapped page (R205). -/
def Region.spans (r : Region) : List Nat := (r.pages.map fun g => g.num / 32).eraseDups

/-- Frames of a region: its spans and the frames that await R209. -/
def Region.frames (r : Region) : Nat := r.spans.length + r.lingering.length

/-- Frames of a context's Cairn image on each of its slabs (R412): slot record, slots and share. -/
def Ctx.imageFrames (c : Ctx) : Nat := ceilDiv (4096 + 2097152 * c.slots + c.shareBytes) frameBytes

/-- The context has, or is making, a Cairn image in HBM. -/
def Ctx.imaged (c : Ctx) : Bool := decide (c.st = .out) || decide (c.switching = .goingOut) || decide (c.switching = .outThenIn)

/-- Bytes of an input frame of R425. -/
def encLumaPitch (prm : List Byte) : Nat := roundUp (numAt prm 0 2 * (1 + fld (numAt prm 4 1) 0 0)) 512

def encHintOfs (prm : List Byte) : Nat :=
  let h := numAt prm 2 2
  if bitOf (numAt prm 4 1) 1 then encLumaPitch prm * h else encLumaPitch prm * h * 3 / 2

def encFrameBytes (prm : List Byte) : Nat :=
  encHintOfs prm + ceilDiv (numAt prm 2 2) 16 * roundUp (4 * ceilDiv (numAt prm 0 2) 16) 512

/-- Bytes of a decode pool buffer: MAXW × MAXH samples at 10 bits in 16-bit words, 4:2:0 (log 20). -/
def decBufBytes (prm : List Byte) : Nat := numAt prm 0 2 * numAt prm 2 2 * 3

/-- Frames that a codec session holds on its home slab (R419): encode, INBUF input buffers and 9 reconstruction
buffers; decode, 17 buffers (log 20). -/
def codecFrames (kind : Nat) (prm : List Byte) : Nat :=
  if kind = 0 then
    (fld (numAt prm 7 1) 3 0) * ceilDiv (encFrameBytes prm + 512) frameBytes + 9 * ceilDiv (encFrameBytes prm) frameBytes
  else 17 * ceilDiv (decBufBytes prm) frameBytes

/-- HBM frames that partition p has allocated on a slab (R401). -/
def State.framesUsed (s : State) (p slab : Nat) : Nat :=
  let q := s.part p
  (q.flatFrames.getD slab []).length
    + sumNat ((q.regions.filter fun r => r.home == slab).map Region.frames)
    + sumNat ((q.models.map fun m => sumNat ((m.parts.filter fun x => bitOf x.mask slab).map fun x => ceilDiv x.size 2)))
    + sumNat ((q.ctxs.filter fun c => c.imaged && c.slabs.contains slab).map Ctx.imageFrames)
    + sumNat ((q.held.filter fun h => h.slab == slab).map fun h => ceilDiv h.bytes.length frameBytes)
    + sumNat ((s.codec.sessions.filter fun c => c.part == p && c.home == slab).map fun c => codecFrames c.kind c.param)

/-- Frames of the quota still free (R394). -/
def State.framesFree (s : State) (p slab : Nat) : Nat :=
  (s.part p).quotaOn slab Quota.frames - s.framesUsed p slab

/-- A context holds its grant and share on its slabs (R406): until it is Out, and once it has come in. -/
def Ctx.holds (c : Ctx) : Bool := decide (c.st ≠ .out) && decide (c.switching ≠ .comingIn)

/-- A context holds its grant and share, or they are set aside for it (R406, R409). -/
def Ctx.occupies (c : Ctx) : Bool := decide (c.st ≠ .out) || decide (c.switching = .comingIn)

/-- HBM_SHARE reserved by the partition's open codec sessions on a slab (R420). -/
def State.codecReserve (s : State) (p slab : Nat) : Nat :=
  8 * (s.codec.sessions.filter fun c => c.part == p && c.home == slab).length

/-- MiB of hot copies of a partition on a slab, those being loaded included (R304). -/
def Part.hotUsed (p : Part) (slab : Nat) : Nat :=
  sumNat (p.models.map fun m => sumNat ((m.parts.filter fun x =>
    x.places.any fun y => y.slab == slab && (y.hot || !y.loading.isEmpty)).map MPart.size))

/-! ## Flat memory (R401) -/

def State.flat (s : State) (p slab : Nat) : Mem := ((s.part p).flat.getD slab [])

/-- Allocate the frame of a flat address for a write, if the quota has one (R401). -/
def State.needFlat (s : State) (p slab a : Nat) : Option State :=
  let fr := a / frameBytes
  if ((s.part p).flatFrames.getD slab []).contains fr then some s
  else if 0 < s.framesFree p slab then
    some (s.modPart p fun q => { q with flatFrames := modAt q.flatFrames slab fun l => l ++ [fr] })
  else none

/-- Allocate the frames of the flat bytes [a, a + n). -/
def State.needFlatRange (s : State) (p slab a n : Nat) : Option State :=
  if n = 0 then some s else
  (List.range ((a + n - 1) / frameBytes - a / frameBytes + 1)).foldl
    (fun o i => o.bind fun s => s.needFlat p slab ((a / frameBytes + i) * frameBytes)) (some s)

def State.writeFlat (s : State) (p slab a : Nat) (bs : List Byte) : State :=
  s.modPart p fun q => { q with flat := modAt q.flat slab fun m => Memory.write m a bs }

def State.putFlat (s : State) (p slab : Nat) (f : Mem → Mem) : State :=
  s.modPart p fun q => { q with flat := modAt q.flat slab f }

end Sys2Proof.Machine
end

