-- ==== Sys2Proof/Machine/Parts.lean ====
section
/-! DEFINITION. Parts.lean: partitions and their quotas: PART_CREATE, PART_SET, PART_DESTROY (R397 to R402). -/

namespace Sys2Proof.Machine

/-- The quotas in the arguments of PART_CREATE and PART_SET (R389). -/
def quotaOfArgs (f : Flight) : Quota :=
  { mask := f.arg 1 1, hostAccess := bitOf (f.arg 2 1) 0, enc := f.arg 3 1, dec := f.arg 4 1, slots := f.arg 5 1,
    hbm := f.arg 6 1, fab := f.arg 7 1, host := f.arg 8 1, spad := f.arg 10 2, hot := f.arg 12 2, frames := f.arg 16 4 }

/-- The allowed values of R398. -/
def State.quotaInRange (s : State) (q : Quota) : Bool :=
  decide (0 < q.mask) && decide (q.mask < 2 ^ s.slabCount) && decide (q.enc ≤ 4) && decide (q.dec ≤ 4)
    && [0, 2, 4, 8].contains q.slots && decide (q.hbm ≤ 128) && decide (q.fab ≤ 112) && decide (q.host ≤ 128)
    && decide (q.spad ≤ 1024) && decide (q.hot ≤ 1024) && decide (q.frames < 2 ^ 20)

/-- The partitions other than `p` that exist. -/
def State.others (s : State) (p : Nat) : List Part := ((s.parts.zipIdx.filter fun x => x.2 != p).map Prod.fst).filter Part.live

def sumBy {α : Type} (l : List α) (f : α → Nat) : Nat := sumNat (l.map f)

/-- Physical slots that a partition's block takes on a slab. -/
def Part.block (p : Part) (slab : Nat) : List Nat :=
  (List.range (p.quotaOn slab Quota.slots)).map fun i => p.slotBase.getD slab 0 + i

/-- Where a slots block of `n` goes on a slab whose slots `taken` are occupied (R399). -/
def placeBlock (taken : List Nat) (n : Nat) : Option Nat :=
  let freeAt : Nat → Nat → Bool := fun b k => (List.range k).all fun i => !taken.contains (b + i)
  if n = 0 then some 0
  else if n = 2 then
    match [0, 2, 4, 6].find? fun b => freeAt b 2 && !freeAt (b ^^^ 2) 2 with
    | some b => some b
    | none => [0, 2, 4, 6].find? fun b => freeAt b 2
  else if n = 4 then [0, 4].find? fun b => freeAt b 4
  else if freeAt 0 8 then some 0 else none

/-- The slot bases of a partition's new quotas, one for each slab: a block of the same size on a slab stays (R399). -/
def State.placeBlocks (s : State) (p : Nat) (q : Quota) : Option (List Nat) :=
  let old := s.part p
  (List.range 8).foldr (fun slab o => o.bind fun l =>
    if !bitOf q.mask slab then some (0 :: l)
    else if q.slots = old.quotaOn slab Quota.slots then some (old.slotBase.getD slab 0 :: l)
    else (placeBlock ((s.others p).map fun x => x.block slab).flatten q.slots).map fun b => b :: l) (some [])

/-- GSHARE that bound groups reserve on the link between two slabs (R257, R260). -/
def State.groupShare (s : State) (a b : Nat) : Nat :=
  sumBy s.parts fun p => sumBy p.ctxs fun c => sumBy c.groups fun g =>
    if g.members.contains a && g.members.contains b then g.gshare else 0

/-- The limits of R399 hold for partition `p` with quotas `q`. -/
def State.quotaFits (s : State) (p : Nat) (q : Quota) : Bool :=
  let os := s.others p
  let on : Nat → (Quota → Nat) → Nat := fun slab f => sumBy os fun x => x.quotaOn slab f
  let mine := maskList q.mask 8
  mine.all (fun k =>
    decide (on k Quota.spad + on k Quota.hot + q.spad + q.hot ≤ 1024)
      && decide (on k Quota.hbm + q.hbm ≤ 128)
      && decide (on k Quota.frames + q.frames ≤ (s.slab k).frames)
      && decide (on k Quota.fab + q.fab ≤ 112)
      && mine.all fun j => k == j ||
        decide (sumBy os (fun x => if bitOf x.q.mask k && bitOf x.q.mask j then x.q.fab else 0) + q.fab + s.groupShare k j ≤ 112))
    && decide (sumBy os (fun x => x.q.host) + q.host ≤ 128)
    && decide (sumBy os (fun x => x.q.enc) + q.enc ≤ 4)
    && decide (sumBy os (fun x => x.q.dec) + q.dec ≤ 4)

/-- PART_CREATE (R397 to R399, R297): the partition, with a fresh HBM key pair and its ring unset (R471). -/
def partCreate (s : State) (f : Flight) : State :=
  let p := f.arg 0 1
  let q := quotaOfArgs f
  if p = 0 || 15 < p || !s.quotaInRange q then s.failCmd f .argRange
  else if (s.part p).live then s.failCmd f .partBusy
  else match s.placeBlocks p q with
  | none => s.failCmd f .quota
  | some bases =>
    if !s.quotaFits p q then s.failCmd f .quota else
    let (n, s1) := s.entropyDraw
    let s2 := s1.modPart p fun _ => { Part.absent with live := true, q := q, slotBase := bases, key := n }
    (s2.modRing p fun r => { Ring.reset with classes := r.classes }).okCmd f

/-! ## PART_SET -/

/-- The largest share that a program loaded in the partition's contexts declares (R400). -/
def Part.declared (p : Part) (g : Geom → Nat) : Nat :=
  maxNat (p.ctxs.map fun c => (c.prog.map fun r => g r.geom).getD 0)

/-- Slabs that the partition's contexts, region homes, model parts, held results and codec sessions use (R400). -/
def State.slabsUsed (s : State) (p : Nat) : List Nat :=
  let q := s.part p
  (q.ctxs.map Ctx.slabs).flatten ++ q.regions.map Region.home ++
    (q.models.map fun m => (m.parts.map fun x => maskList x.mask 8).flatten).flatten ++ q.held.map Held.slab ++
    (s.codec.sessions.filter fun c => c.part == p).map CodecSession.home

/-- Codec cores of a kind held by the partition's open sessions (R400, R418). -/
def State.coresHeld (s : State) (p : Nat) (encode : Bool) : Nat :=
  sumNat ((s.codec.sessions.filter fun c => c.part == p && ((c.kind == 0) == encode)).map fun c => c.cores.length)

/-- The change is one that R400 refuses. -/
def State.setBusy (s : State) (p : Nat) (q : Quota) (bases : List Nat) : Bool :=
  let old := s.part p
  let resident : Nat → Bool := fun slab => old.ctxs.any fun c => c.occupies && c.slabs.contains slab
  (s.slabsUsed p).any (fun k => !bitOf q.mask k)
    || (List.range 8).any (fun k =>
      let newOn : Nat → Nat := fun v => if bitOf q.mask k then v else 0
      (resident k && (decide (newOn q.slots < old.quotaOn k Quota.slots) || decide (newOn q.spad < old.quotaOn k Quota.spad)
        || (decide (0 < old.quotaOn k Quota.slots) && bases.getD k 0 != old.slotBase.getD k 0)))
      || decide (newOn q.hot < old.hotUsed k) || decide (newOn q.frames < s.framesUsed p k))
    || decide (q.enc < s.coresHeld p true) || decide (q.dec < s.coresHeld p false)
    || decide (q.hbm < old.declared Geom.hbm) || decide (q.fab < old.declared Geom.fab)
    || decide (q.host < old.declared Geom.host)

/-- Lines of a partition's DPA window (R351). -/
def inWindow (p line : Nat) : Bool := line / 2 ^ 34 == p

/-- Send BISnpInv for lines that the filter records (R354, R356, R367). -/
def Port.backInvalidate (o : Port) (lines : List Nat) : Port :=
  let l := lines.filter fun x => o.snoop.contains x && !o.awaiting.contains x
  { o with awaiting := o.awaiting ++ l, bisnp := Nat.min (2 ^ 32 - 1) (o.bisnp + l.length) }

/-- Back-invalidate a partition's DPA window (R356). -/
def State.closeWindow (s : State) (p : Nat) : State := s.setPort (s.port.backInvalidate (s.port.snoop.filter (inWindow p)))

/-- No line of the window waits for the host (R356). -/
def State.windowClosed (s : State) (p : Nat) : Bool := !s.port.awaiting.any (inWindow p)

/-- PART_SET (R399, R400): the quotas change as one step; withdrawing HOST_ACCESS completes after R356. -/
def partSet (s : State) (f : Flight) : State :=
  let p := f.arg 0 1
  let q := quotaOfArgs f
  if 15 < p || !s.quotaInRange q then s.failCmd f .argRange
  else if !(s.part p).live then s.failCmd f .partUnknown
  else match s.placeBlocks p q with
  | none => s.failCmd f .quota
  | some bases =>
    if !s.quotaFits p q then s.failCmd f .quota
    else if s.setBusy p q bases then s.failCmd f .partBusy else
    let withdraw := (s.part p).q.hostAccess && !q.hostAccess
    let s1 := s.modPart p fun x => { x with q := q, slotBase := bases }
    if withdraw && !(s1.closeWindow p).windowClosed p then (s1.closeWindow p).busyCmd f
    else s1.okCmd f

/-! ## Destroying -/

/-- Drop every operation and passage of a partition from the slabs, and its groups (R82, R281, R402). -/
def Slab.dropPart (b : Slab) (p : Nat) (seqs : List Nat) : Slab :=
  let u := b.unbind fun k => k.1 == p
  { u with
    passq := u.passq.filter fun q => !seqs.contains q
    live := u.live.filter fun l => l.part != p
    owner := u.owner.filter fun q => !u.live.any fun l => l.seq == q && l.part == p
    inbound := u.inbound.filter fun w => w.part != p
    queues := u.queues.map fun q => q.filter fun o => o.part != p
    started := u.started.filter fun o => o.part != p
    lists := u.lists.filter fun l => !u.started.any fun o => o.id == l.id && o.part == p }

/-- Remove the partition's passages and operations from every slab, their outputs discarded (R82). -/
def State.dropPart (s : State) (p : Nat) : State :=
  let seqs := (s.flights.filter fun f => f.fn == p && f.run.isSome).map Flight.seq
  let s1 := (s.part p).ctxs.foldl (fun s c => s.stopOps p c.num 0 0) s
  s1.setSlabs (s1.slabs.map fun b => b.dropPart p seqs)

/-- Close the partition's codec sessions (R421). -/
def Codec.closePart (c : Codec) (p : Nat) : Codec :=
  let hs := (c.sessions.filter fun x => x.part == p).map CodecSession.handle
  { cores := c.cores.map fun k => if hs.contains k.holder then { k with holder := 0, part := 0, running := false } else k
    sessions := c.sessions.filter fun x => x.part != p }

/-- The commands of a partition in flight complete with ST_ABORTED (R383), but for the one that ends it. Flags that they
have raised are reported all the same (R23); the session ends with them, so their records are in plaintext. -/
def State.abortPart (s : State) (p self : Nat) : State :=
  s.setFlights (s.flights.map fun g =>
    if (g.fn == p) && g.seq != self then
      { g with status := .aborted, phase := .done, detail0 := 0, detail1 := 0, value := 0, outs := [], prot := false }
    else g)

/-- Disarm the context points of a partition (R487). -/
def State.disarmPartCtxs (s : State) (p : Nat) : State :=
  s.setTalus { s.talus with armed := s.talus.armed.filter fun a => !(a.fn == p && a.scope == 0) }

/-- Tear down every context of a partition as a faulting context is (R346, R416). -/
def State.teardownAll (s : State) (p : Nat) : State :=
  let s1 := (s.dropPart p).modPart p fun q => { q with ctxs := q.ctxs.map Ctx.tornDown }
  (s1.disarmPartCtxs p).dropBad fun x => match x with
    | .share q _ _ _ => q == p
    | .acc q _ _ _ _ => q == p
    | _ => false

/-- End a partition (R402): contexts, session, models, regions, held results, images, frames and keys go. -/
def State.destroyPart (s : State) (p self : Nat) : State :=
  let s0 := (s.abortPart p self).teardownAll p
  let s1 := s0.setCodec (s0.codec.closePart p)
  (s1.modPart p fun _ => Part.absent).dropBad fun x => placePart x == some p

/-- PART_DESTROY (R397, R402). -/
def partDestroy (s : State) (f : Flight) : State :=
  let p := f.arg 0 1
  if p = 0 || 15 < p then s.failCmd f .argRange
  else if !(s.part p).live then s.failCmd f .partUnknown
  else (s.destroyPart p f.seq).okCmd f

end Sys2Proof.Machine
end

