-- ==== Sys2Proof/Machine/Contexts.lean ====
section
/-! DEFINITION. Contexts.lean: contexts, switching and Cairn images: CTX_CREATE, CTX_DESTROY, CTX_SAVE, CTX_RESTORE and
the ends of switches (R405 to R417). -/

namespace Sys2Proof.Machine

/-- A passage of the context is queued or running (R417, R329). -/
def State.passaging (s : State) (p c self : Nat) : Bool :=
  s.flights.any fun f => f.seq != self && f.run.isSome && s.ofCtx p c f && decide (f.phase ≠ .done)

/-- A command that names the context is in flight, other than one (R406). -/
def State.named (s : State) (p c self : Nat) : Bool :=
  s.flights.any fun f => f.seq != self && s.ofCtx p c f

/-- The context is idle (R406). -/
def State.idle (s : State) (p : Nat) (c : Ctx) (self : Nat) : Bool :=
  decide (c.st = .resident) && decide (c.switching = .none) && !s.named p c.num self

/-- Slots that a context occupies on a slab. -/
def Ctx.slotsOn (c : Ctx) (slab : Nat) : List Nat :=
  match c.onSlab? slab with
  | some d => (List.range c.slots).map fun i => d.base + i
  | none => []

/-- The lowest aligned free position for a grant in a partition's block on a slab, when the contexts `out` are gone
(R102, R408). -/
def Part.findPos (p : Part) (slab grant : Nat) (out : List Nat) : Option Nat :=
  let taken := ((p.ctxs.filter fun c => c.occupies && !out.contains c.num).map fun c => c.slotsOn slab).flatten
  ((List.range (8 / grant)).map fun i => i * grant).find? fun b =>
    (List.range grant).all fun i => (p.block slab).contains (b + i) && !taken.contains (b + i)

/-- A grant and a share fit on a slab when the contexts `out` are gone (R409). -/
def Part.fits (p : Part) (slab grant spad : Nat) (out : List Nat) : Bool :=
  (p.findPos slab grant out).isSome &&
    decide (sumNat ((p.ctxs.filter fun c => c.occupies && !out.contains c.num && c.slabs.contains slab).map Ctx.spad) + spad
      ≤ p.quotaOn slab Quota.spad)

/-- Insert by a key, after equal keys. -/
def insertBy {α : Type} (key : α → Nat) (a : α) : List α → List α
  | [] => [a]
  | b :: t => if key a < key b then a :: b :: t else b :: insertBy key a t

def sortBy {α : Type} (key : α → Nat) (l : List α) : List α := l.foldr (insertBy key) []

/-- The victims on one slab beyond those already chosen: the way whose most recently used victim has the lowest last
use; which of the ways with that victim is a free choice (R409, log 16). -/
def State.victimsOn (s : State) (p slab grant spad : Nat) (chosen : List Nat) : Option (List Nat) :=
  let q := s.part p
  if q.fits slab grant spad chosen then some chosen else
  let cand := sortBy Ctx.lastUse (q.ctxs.filter fun c => s.idle p c 0 && !chosen.contains c.num && c.slabs.contains slab)
  let upTo : Nat → List Nat := fun n => chosen ++ (cand.take n).map Ctx.num
  match (List.range (cand.length + 1)).find? fun n => q.fits slab grant spad (upTo n) with
  | none => none
  | some n =>
    let order := sortBy (fun c => Config.freeNat (s.free + c)) ((cand.take (n - 1)).map Ctx.num)
    some (order.foldl (fun l c =>
      let l2 := l.filter fun x => x != c
      if q.fits slab grant spad l2 then l2 else l) (upTo n))

/-- The victims on every slab that the context spans, in order (R409). `own` is the context itself where it exists: what it
still holds while it goes out is free for it. -/
def State.victims (s : State) (p grant spad : Nat) (slabs : List Nat) (own : List Nat := []) : Option (List Nat) :=
  (slabs.foldl (fun o slab => o.bind fun l => s.victimsOn p slab grant spad l) (some own)).map fun l =>
    l.filter fun n => !own.contains n

/-- GEOMETRY of a Cairn image: the program's word with the context's span, grant and share (R412). -/
def Ctx.imageWord (c : Ctx) : Nat :=
  let w := (c.prog.map Program.word).getD 0
  (w - (fld w 7 4 <<< 4) - (fld w 19 16 <<< 16) - (fld w 31 20 <<< 20))
    + (c.slabs.length <<< 4) + (c.slots <<< 16) + (c.spad <<< 20)

/-- PHASH of a Cairn image (R412). -/
def Ctx.imageHash (c : Ctx) : List Byte := (c.prog.map Program.meas).getD (List.replicate 64 0)

/-- Start switching out the victims (R409, R410). -/
def State.sendOut (s : State) (p : Nat) (vs : List Nat) : State :=
  s.modPart p fun q => { q with ctxs := modWhere q.ctxs (fun c => vs.contains c.num) fun c => { c with switching := .goingOut } }

/-- The victims' images fit the HBM quota on their slabs (R401). -/
def State.imagesFit (s : State) (p : Nat) (vs : List Nat) : Bool :=
  let cs := (s.part p).ctxs.filter fun c => vs.contains c.num
  (List.range 8).all fun k => decide (sumNat ((cs.filter fun c => c.slabs.contains k).map Ctx.imageFrames) ≤ s.framesFree p k)

/-- Give an Out context its places, where the contexts `out` are gone, and start bringing it in (R408, R409). -/
def State.bringIn (s : State) (p num seq : Nat) (out : List Nat) : State :=
  let q := s.part p
  s.modCtx p num fun c =>
    { c with
      switching := if c.switching = .goingOut then .outThenIn else .comingIn
      lastUse := seq
      data := c.data.map fun d => { d with base := (q.findPos d.slab c.slots (num :: out)).getD 0 } }

/-- Decide the switches that bring a context in: victims out, then the context in (R409). Nothing when it cannot. -/
def State.switchFor (s : State) (p self : Nat) (c : Ctx) : Option State :=
  match s.victims p c.slots c.spad c.slabs [c.num] with
  | none => none
  | some vs =>
    if !s.imagesFit p vs then none
    else some (((s.setFree (s.free + 256)).sendOut p vs).bringIn p c.num self vs)

/-- Fresh slots and share of a context on a slab (R103, R405). -/
def CtxSlab.fresh (slab base slots : Nat) : CtxSlab :=
  { slab := slab, base := base, share := [], slots := List.replicate slots AccSlot.fresh }

/-- CTX_CREATE (R405, R408, R409). -/
def ctxCreate (s : State) (f : Flight) : State :=
  let p := s.part f.fn
  let mask := f.arg 0 1
  let g := f.arg 1 1
  let sp := f.arg 2 2
  let slabs := maskList mask 8
  if mask = 0 || slabs.any (fun k => !bitOf p.q.mask k) || !([2, 4, 8].contains g) || p.q.slots < g || sp = 0 || p.q.spad < sp
  then s.failCmd f .argRange
  else match (List.range 256).find? fun n => !p.ctxs.any fun c => c.num == n with
  | none => s.failCmd f .quota
  | some num =>
    match s.victims f.fn g sp slabs with
    | none => s.failCmd f .quota
    | some vs =>
      if !s.imagesFit f.fn vs then s.failCmd f .quota else
      let s1 := (s.setFree (s.free + 256)).sendOut f.fn vs
      let q := s1.part f.fn
      let c : Ctx :=
        { num := num, slabs := slabs, slots := g, spad := sp, st := .resident
          switching := if vs = [] then .none else .comingIn
          lastUse := f.seq, prog := none
          data := slabs.map fun k => CtxSlab.fresh k ((q.findPos k g vs).getD 0) g
          groups := [], cairn := 0, imgWord := 0, imgHash := [] }
      let s2 := s1.modPart f.fn fun q => { q with ctxs := q.ctxs ++ [c] }
      if vs = [] then s2.okCmd f num
      else (s2.modFlight f.seq fun x => { x with value := num }).busyCmd f vs

/-- The context has still to go out. -/
def Ctx.leaving (c : Ctx) : Bool := decide (c.switching = .goingOut) || decide (c.switching = .outThenIn)

/-- No context of a list is still going out. -/
def Part.outDone (p : Part) (vs : List Nat) : Bool := !p.ctxs.any fun c => vs.contains c.num && c.leaving

/-- The context that a command names, or the code of R391. -/
def State.needCtx (s : State) (p n : Nat) : Except St Ctx :=
  match s.ctx? p n with
  | none => .error .ctxUnknown
  | some c => if c.st = .faulted then .error .ctxFaulted else .ok c

/-- Commands that wait for a switch of a context end with ST_CTX_UNKNOWN when it is destroyed (R391, log 51). -/
def State.orphan (s : State) (p c self : Nat) : State :=
  (s.flights.filter fun f => f.fn == p && f.seq != self && decide (f.phase = .busy) &&
    (match f.cmd with
      | .ctxSave | .ctxRestore => f.ctxNamed == some c
      | .ctxCreate => f.value == c
      | _ => false)).foldl (fun s f => s.failCmd f .ctxUnknown) s

/-- CTX_DESTROY (R417). -/
def ctxDestroy (s : State) (f : Flight) : State :=
  match s.needCtx f.fn (f.arg 0 2) with
  | .error c => s.failCmd f c
  | .ok c =>
    if s.passaging f.fn c.num f.seq then s.failCmd f .ctxBusy else
    let s1 := (s.teardown f.fn c.num).orphan f.fn c.num f.seq
    (s1.modPart f.fn fun q => { q with ctxs := q.ctxs.filter fun x => x.num != c.num }).okCmd f

/-! ## Cairn images -/

/-- A slot record entry (R412). -/
def AccSlot.record (a : AccSlot) : List Byte :=
  let e := a.ext.getD (0, 0)
  toLe 16 (e.1 % 2 ^ 12 + (e.2 % 2 ^ 12) <<< 12 + boolNat a.ext.isSome <<< 24 + boolNat a.sat <<< 25 + (a.count % 2 ^ 9) <<< 26)

/-- The values of a slot as bytes, in slot index order (R412). -/
def AccSlot.bytes (a : AccSlot) : List Byte := ((Memory.read a.vals 0 524288).map fun v => toLe 4 v.toNat).flatten

/-- The section of a slab (R412). -/
def CtxSlab.section (d : CtxSlab) (share : Nat) : List Byte :=
  bytesAt (d.slots.map AccSlot.record).flatten 0 4096 ++ (d.slots.map AccSlot.bytes).flatten ++ Memory.read d.share 0 share

/-- Length of a Cairn image (R412). -/
def cairnLen (n g share : Nat) : Nat := 4160 + n * (4096 + 2097152 * g + share)

/-- The Cairn image of an Out context (R412). -/
def Ctx.cairnImage (c : Ctx) (part : Nat) : List Byte :=
  let head := toLe 4 0x4E464332 ++ toLe 2 1 ++ toLe 2 0 ++ toLe 16 c.imgWord
    ++ toLe 8 (cairnLen c.slabs.length c.slots c.shareBytes) ++ bytesAt c.imgHash 0 64 ++ toLe 2 c.num ++ toLe 1 part
  let body := bytesAt head 0 4096 ++ (c.data.map fun d => d.section c.shareBytes).flatten
  body ++ bytesAt (Config.sha3 body) 0 64

/-- The length of an image of the context (R412). -/
def Ctx.imageLen (c : Ctx) : Nat := cairnLen c.slabs.length c.slots c.shareBytes

/-- Read a Cairn image in HBM on every slab of its context: a slab with an uncorrectable word, and whether it was
injected (R289). -/
def State.cairnRead (s : State) (p : Nat) (c : Ctx) : State × Option (Nat × Bool) :=
  c.slabs.foldl (fun o k =>
    let hit : Place → Bool := fun x => match x with | .cairn q n sl _ => q == p && n == c.num && sl == k | _ => false
    let (s1, r) := o.1.readHbm k p hit none
    (s1, match o.2, r with | some x, _ => some x | none, some i => some (k, i) | none, none => none)) (s, none)

/-- What CTX_SAVE writes and returns once the context is Out (R413, R463). -/
def State.saveImage (s : State) (f : Flight) (num : Nat) : State :=
  let (h, s1) := match s.ctx? f.fn num with
    | some c => if c.cairn = 0 then s.newHandle else (c.cairn, s)
    | none => (0, s)
  let s2 := s1.modCtx f.fn num fun c => { c with cairn := h }
  let buf := f.arg 8 8
  let outs := if buf = 0 then [] else
    match s2.ctx? f.fn num with
    | some c => [{ addr := buf, len := c.imageLen, bytes := c.cairnImage f.fn, index := 1, epoch := true : OutBuf }]
    | none => []
  let s3 := s2.modPart f.fn fun q =>
    { q with session := q.session.map fun k => { k with saves := (num, f.ctr) :: k.saves.filter fun x => x.1 != num } }
  s3.okCmd f h outs

/-- CTX_SAVE of an Out context: a host copy reads the image in HBM, and a word that cannot be corrected is not given out
(R289): the command fails with ST_HBM_UNCORR (log 51). -/
def State.saveDone (s : State) (f : Flight) (num : Nat) : State :=
  if f.arg 8 8 = 0 then s.saveImage f num else
  match s.ctx? f.fn num with
  | none => s.saveImage f num
  | some c =>
    match s.cairnRead f.fn c with
    | (s1, none) => s1.saveImage f num
    | (s1, some _) => s1.failCmd f .hbmUncorr

/-- CTX_SAVE (R413): an idle resident context is switched out; an Out one gives the handle of its image. -/
def ctxSave (s : State) (f : Flight) : State :=
  if f.arg 8 8 % 64 ≠ 0 then s.failCmd f .argRange else
  match s.needCtx f.fn (f.arg 0 2) with
  | .error c => s.failCmd f c
  | .ok c =>
    if c.st = .out && decide (c.switching = .none) then s.saveDone f c.num
    else if !s.idle f.fn c f.seq then s.failCmd f .ctxBusy
    else if !s.imagesFit f.fn [c.num] then s.failCmd f .quota
    else (s.sendOut f.fn [c.num]).busyCmd f [c.num]

/-- What a restore takes from an image: the contents of each slab, in the order of the image. -/
structure CairnBody where
  word : Nat
  hash : List Byte
  secs : List (Mem × List AccSlot)

/-- A slot read back from its record and values (R412). -/
def accSlotOf (rec vals : List Byte) : AccSlot :=
  let r := numAt rec 0 16
  { vals := Memory.put [] ((List.range 524288).map fun i => (i, BitVec.ofNat 32 (numAt vals (4 * i) 4)))
    ext := if bitOf r 24 then some (fld r 11 0, fld r 23 12) else none
    sat := bitOf r 25, count := fld r 34 26, gated := false }

/-- Reserved bits of a slot record are zero (R412, R414). -/
def slotRecordClean (rec : List Byte) (g : Nat) : Bool :=
  (List.range g).all (fun i => fld (numAt rec (16 * i) 16) 127 35 == 0) && (rec.drop (16 * g)).all (· == 0)

/-- Read a host copy: check 2 of R414. -/
def parseCairn (bs : List Byte) : Option CairnBody :=
  let w := numAt bs 8 16
  let n := fld w 7 4
  let g := fld w 19 16
  let share := fld w 31 20 * 2 ^ 20
  let len := numAt bs 24 8
  let body := bs.take (len - 64)
  let sec : Nat := 4096 + 2097152 * g + share
  let secs := (List.range n).map fun i => bytesAt bs (4096 + i * sec) sec
  if numAt bs 0 4 = 0x4E464332 && numAt bs 4 2 = 1 && numAt bs 6 2 = 0 && len = cairnLen n g share && len = bs.length
      && bytesAt bs (len - 64) 64 = bytesAt (Config.sha3 body) 0 64
      && fld (numAt bs 98 1) 7 4 = 0 && (bytesAt bs 99 3997).all (· == 0) && fld w 127 77 = 0
      && secs.all fun x => slotRecordClean (x.take 4096) g
  then some { word := w, hash := bytesAt bs 32 64
              secs := secs.map fun x =>
                (Memory.write [] 0 (bytesAt x (4096 + 2097152 * g) share),
                 (List.range g).map fun i => accSlotOf (bytesAt x (16 * i) 16) (bytesAt x (4096 + 2097152 * i) 2097152)) }
  else none

/-- Check 1 and 2 of R414 on a host copy (R463). -/
def State.cairnArg (s : State) (f : Flight) (c : Ctx) (a : Nat) : Except St CairnBody :=
  match (s.part f.fn).session with
  | none =>
    match parseCairn (s.readHost f.fn a (numAt (s.readHost f.fn (a + 24) 8) 0 8)) with
    | some b => .ok b
    | none => .error .imageForm
  | some k =>
    let n := c.imageLen
    let buf := s.readHost f.fn a (protSize n)
    let cs := trailerCounters (chunkCount n) buf n
    match k.saves.find? fun x => x.1 == c.num with
    | none => .error .replay
    | some (_, want) =>
      if cs.any fun x => x != want then .error .replay else
      match openChunks k.kOut f.fn (Cmd.code .ctxSave) 1 want 1 (chunkCount n) 0 buf n with
      | none => .error .authFail
      | some bs => match parseCairn bs with | some b => .ok b | none => .error .imageForm

/-- A host copy of an image, as it is read. -/
def State.hostCairn (s : State) (f : Flight) (c : Ctx) (a : Nat) : State × Except St CairnBody :=
  match s.hostOpen f with
  | (s1, some e) => (s1, .error e)
  | (s1, none) => (s1, s1.cairnArg f c a)

/-- Checks 3 and 4 of R414. -/
def State.cairnMatches (s : State) (c : Ctx) (word : Nat) (hash : List Byte) : Bool :=
  fld word 39 32 == s.partCode && fld word 47 40 == stepping && fld word 7 4 == c.slabs.length
    && fld word 19 16 == c.slots && fld word 31 20 == c.spad && hash == c.imageHash

/-- Put an image's contents into a context; the code words written are fresh. -/
def State.loadImage (s : State) (p c : Nat) (secs : List (Mem × List AccSlot)) : State :=
  (s.modCtx p c fun x =>
    { x with data := (x.data.zip secs).map fun d => { d.1 with share := d.2.1, slots := d.2.2 } }).dropBad fun u => placeOfCtx u p c

/-- Restore an image: an Out context is switched in with it (R414). -/
def State.restoreInto (s : State) (f : Flight) (c : Ctx) (secs : List (Mem × List AccSlot)) : State :=
  if c.st = .out then
    match s.switchFor f.fn f.seq c with
    | none => s.failCmd f .quota
    | some s1 => (s1.loadImage f.fn c.num secs).busyCmd f [c.num]
  else (s.loadImage f.fn c.num secs).okCmd f

/-- A context that is Out comes in with a zero share, cleared slots and no program (R414). -/
def Ctx.blank (c : Ctx) : Ctx :=
  { c with
    prog := none
    cairn := 0
    imgWord := 0
    imgHash := []
    data := c.data.map fun d => { d with share := [], slots := d.slots.map fun _ => AccSlot.fresh } }

/-- A restore that releases the handle of another Out context leaves that one resident and blank, holding its grant
(R414). The command waits for the switches; where the other context finds no room, it fails with ST_QUOTA and nothing has
changed (log 51). -/
def State.restoreOther (s : State) (f : Flight) (c x : Ctx) (secs : List (Mem × List AccSlot)) : State :=
  match if c.st = .out then s.switchFor f.fn f.seq c else some s with
  | none => s.failCmd f .quota
  | some s1 =>
    match (s1.ctx? f.fn x.num).bind fun y => s1.switchFor f.fn f.seq y with
    | none => s.failCmd f .quota
    | some s2 =>
      let s3 := (s2.modCtx f.fn x.num Ctx.blank).dropBad fun u => placeOfCtx u f.fn x.num
      (s3.loadImage f.fn c.num secs).busyCmd f (if c.st = .out then [c.num, x.num] else [x.num])

/-- The fault of R289 at a Cairn restore. -/
def cairnFault (f : Flight) (slab : Nat) (inj : Bool) : FaultInfo :=
  { code := .hbmUncorr, slab := slab, unit := 0x9, id := 0, seq := f.seq, line := 0xFFFFFF, op := 0xFF
    detail0 := slab + 0xFFFFFF * 256, detail1 := 0xFFFFFFFF, arg := 0xFFFFFFFF, inj := inj }

/-- CTX_RESTORE (R414, R463). -/
def ctxRestore (s : State) (f : Flight) : State :=
  let v := f.arg 8 8
  let hostCopy := bitOf v 63
  let a := fld v 62 0
  if hostCopy && a % 64 ≠ 0 then s.failCmd f .argRange else
  match s.needCtx f.fn (f.arg 0 2) with
  | .error c => s.failCmd f c
  | .ok c =>
    let src := (s.part f.fn).ctxs.find? fun x => x.cairn == v && v != 0 && decide (x.st = .out)
    if !hostCopy && src.isNone then s.failCmd f .handleBad
    else if !(s.idle f.fn c f.seq || (decide (c.st = .out) && decide (c.switching = .none))) then
      s.failCmd f .ctxBusy
    else if hostCopy then
      match s.hostCairn f c a with
      | (s1, .error e) => s1.failCmd f e
      | (s1, .ok b) => if s1.cairnMatches c b.word b.hash then s1.restoreInto f c b.secs else s1.failCmd f .geometry
    else match src with
      | none => s.failCmd f .handleBad
      | some x =>
        if !s.cairnMatches c x.imgWord x.imgHash then s.failCmd f .geometry
        else if c.st = .out && (s.switchFor f.fn f.seq c).isNone then s.failCmd f .quota
        else match s.cairnRead f.fn x with
        | (s0, some (k, i)) =>
          ((s0.restoreInto f c (c.data.map fun d => (d.share, d.slots))).failCmd f .hbmUncorr).contextFault f.fn c.num
            (cairnFault f k i)
        | (s0, none) =>
          let secs := x.data.map fun d => (d.share, d.slots)
          if x.num = c.num then s0.restoreInto f c secs else s0.restoreOther f c x secs

/-! ## The ends of switches -/

/-- A context is Out: its slots and pages are free, its image is in HBM (R410, R411). -/
def Ctx.goneOut (c : Ctx) : Ctx :=
  { c with st := .out, switching := if c.switching = .outThenIn then .comingIn else .none, imgWord := c.imageWord, imgHash := c.imageHash }

/-- A switch-out reads a context's share and slots on every slab: the first word that cannot be corrected, with the code of
R290 or R108, the unit, and whether it was injected. -/
def State.switchRead (s : State) (p : Nat) (c : Ctx) : State × Option (St × Nat × Nat × Bool) :=
  c.data.foldl (fun o d =>
    let (s1, r) := o.1.readSpad d.slab p c.num 0 c.shareBytes (inShare p c.num d.slab 0 c.shareBytes)
    let o1 := (s1, o.2 <|> r.map fun i => (St.spadUncorr, d.slab, 0x8, i))
    (List.range c.slots).foldl (fun o k =>
      let (s2, r) := o.1.readAcc d.slab p c.num k (d.base + k) 0 524288
      (s2, o.2 <|> r.map fun i => (St.accUncorr, d.slab, 0x1, i))) o1) (s, none)

/-- Two contexts claim a slot of one slab in common. -/
def Ctx.slotsMeet (a b : Ctx) : Bool := a.slabs.any fun k => (a.slotsOn k).any fun i => (b.slotsOn k).contains i

/-- SPAD_MIB of a partition's contexts on a slab exceeds its quota. -/
def Part.overfull (q : Part) (slab : Nat) : Bool :=
  decide (q.quotaOn slab Quota.spad < sumNat ((q.ctxs.filter fun c => c.occupies && c.slabs.contains slab).map Ctx.spad))

/-- Context x, which was to come in where context v does not leave, stays Out, or is not made; the commands that wait for it
fail with ST_QUOTA (R409, log 51). -/
def State.turnBack (s : State) (p : Nat) (x : Ctx) : State :=
  let wait := s.flights.filter fun f => decide (f.phase ≠ .done) &&
    (((f.run.isSome || decide (f.cmd = .ctxRestore)) && s.ofCtx p x.num f)
      || (f.fn == p && decide (f.cmd = .ctxCreate) && decide (f.phase = .busy) && f.value == x.num))
  let seqs := wait.map Flight.seq
  let s1 := s.setSlabs (s.slabs.map fun b => { b with passq := b.passq.filter fun q => !seqs.contains q })
  let s2 := if x.st = .resident then s1.modPart p fun q => { q with ctxs := q.ctxs.filter fun c => c.num != x.num }
    else s1.modCtx p x.num fun c => { c with switching := .none }
  wait.foldl (fun s f => s.failCmd f .quota) s2

/-- The contexts that were to come in where a context stays, the last to ask first (log 51). -/
def State.turnBackFor (s : State) (p v : Nat) : State :=
  let coming := (sortBy Ctx.lastUse ((s.part p).ctxs.filter fun c => decide (c.switching = .comingIn))).reverse
  coming.foldl (fun s x =>
    match s.ctx? p v with
    | some c => if c.slotsMeet x || c.slabs.any fun k => x.slabs.contains k && (s.part p).overfull k then s.turnBack p x else s
    | none => s) s

/-- The fault of a context whose share or slots cannot be read as it goes out (R108, R290): no line applies. -/
def switchFault (code : St) (slab unit : Nat) (inj : Bool) : FaultInfo :=
  { code := code, slab := slab, unit := unit, id := 0, seq := 0, line := 0xFFFFFF, op := 0xFF
    detail0 := slab + 0xFFFFFF * 256, detail1 := 0xFFFFFFFF, arg := 0xFFFFFFFF, inj := inj }

/-- CTX_SWITCH_OUT_END (R410, R411): also finishes the CTX_SAVE that waits for it. A word of the share or of a slot that
cannot be corrected faults the context, which stays (R108, R290). -/
def ctxSwitchOutEnd (part ctx : Nat) (s : State) : State :=
  match s.ctx? part ctx with
  | none => s
  | some c =>
    if !(s.running && c.leaving) then s else
    match s.switchRead part c with
    | (s0, some (code, slab, unit, inj)) => (s0.contextFault part ctx (switchFault code slab unit inj)).turnBackFor part ctx
    | (s0, none) =>
      let s1 := (s0.modCtx part ctx Ctx.goneOut).dropBad fun u => placeOfCtx u part ctx
      match s1.flights.find? fun f => f.fn == part && decide (f.cmd = .ctxSave) && decide (f.phase = .busy) && f.waits == [ctx] with
      | some f => s1.saveDone f ctx
      | none => s1

/-- A CTX_RESTORE that waits for contexts to come in has one less to wait for, and succeeds after the last (R414). -/
def State.restoreArrived (s : State) (part ctx : Nat) : State :=
  (s.flights.filter fun f => f.fn == part && decide (f.cmd = .ctxRestore) && decide (f.phase = .busy) && f.waits.contains ctx).foldl
    (fun s f =>
      let w := f.waits.filter fun n => n != ctx
      if w = [] then s.okCmd f else s.modFlight f.seq fun g => { g with waits := w }) s

/-- CTX_SWITCH_IN_END (R408, R410, R411, R413): after the victims are out; the image's handle is released. A word of the
image that cannot be corrected faults the context, and its RUN_PASSAGE with it (R289). -/
def ctxSwitchInEnd (part ctx : Nat) (s : State) : State :=
  match s.ctx? part ctx with
  | none => s
  | some c =>
    let p := s.part part
    let clear := !p.ctxs.any fun x => x.leaving && x.slabs.any fun k => c.slabs.contains k
    if !(s.running && decide (c.switching = .comingIn) && decide (c.st = .out) && clear) then s else
    let s1 := s.modCtx part ctx fun x =>
      { x with st := .resident, switching := .none, cairn := 0, imgWord := 0, imgHash := [] }
    if s.flights.any fun f => f.fn == part && decide (f.cmd = .ctxRestore) && decide (f.phase = .busy) && f.waits.contains ctx then
      s1.restoreArrived part ctx
    else
      let (s2, r) := s1.cairnRead part c
      match r, s.flights.find? fun f => decide (f.phase = .busy) && f.run.isSome && s.ofCtx part ctx f with
      | some (k, i), some f => s2.contextFault part ctx (cairnFault f k i)
      | some (k, i), none => s2.contextFault part ctx (switchFault .hbmUncorr k 0x9 i)
      | none, _ => s2.dropBad fun u => placeOfCtx u part ctx

def execCtxSwitchOutEnd (part ctx : Nat) (s : State) : Host.Outcome State Fault Refusal :=
  .next (ctxSwitchOutEnd part ctx s)

def execCtxSwitchInEnd (part ctx : Nat) (s : State) : Host.Outcome State Fault Refusal :=
  .next (ctxSwitchInEnd part ctx s)

end Sys2Proof.Machine
end

