-- ==== Sys2Proof/Machine/Quarry.lean ====
section
/-! DEFINITION. Quarry.lean: models and their hot copies: MODEL_LOAD, MODEL_DROP, MODEL_PIN, MODEL_UNPIN, QUARRY_STAT and
the end of a load (R302 to R315). -/

namespace Sys2Proof.Machine

def Part.model? (p : Part) (h : Nat) : Option Model := p.models.find? fun m => m.handle == h

/-- The part index of the ordinal-th part placed on a slab (R302). -/
def Model.ordPart (m : Model) (slab ord : Nat) : Option Nat :=
  ((List.range m.parts.length).filter fun i => bitOf ((nth m.parts i).mask) slab)[ord]?

def MPart.place? (x : MPart) (slab : Nat) : Option PlaceState := x.places.find? fun y => y.slab == slab

def Model.place? (m : Model) (i slab : Nat) : Option PlaceState := (m.parts[i]?).bind fun x => x.place? slab

/-- Change the Quarry state of a part on a slab. -/
def State.modPlace (s : State) (p h i slab : Nat) (g : PlaceState → PlaceState) : State :=
  let onPart : MPart → MPart := fun x => { x with places := modWhere x.places (fun y => y.slab == slab) g }
  s.modPart p fun q => { q with models := modWhere q.models (fun m => m.handle == h) fun m => { m with parts := modAt m.parts i onPart } }

/-- The parts that a RUN_PASSAGE binds on the slabs it spans: (handle, part index, slab) (R305). -/
def State.bound (s : State) (p : Nat) (binds : List MBind) (models slabs : List Nat) : List (Nat × Nat × Nat) :=
  (slabs.map fun k => (binds.zip models).filterMap fun b =>
    ((s.part p).model? b.2).bind fun m => (m.ordPart k b.1.ord).map fun i => (b.2, i, k)).flatten

/-- Parts held on behalf of passages in flight (R308). -/
def State.heldParts (s : State) (p : Nat) : List (Nat × Nat × Nat) :=
  (s.flights.filterMap fun f =>
    match f.run with
    | some r =>
      if f.fn == p && decide (f.phase ≠ .done) then
        (s.ctx? p r.ctx).bind fun c => c.prog.map fun g => s.bound p g.binds r.models r.slabs
      else none
    | none => none).flatten

/-- Any part of the model is held (R311). -/
def State.modelHeld (s : State) (p h : Nat) : Bool := (s.heldParts p).any fun x => x.1 == h

/-- Some copy of the model is being loaded. -/
def Model.isLoading (m : Model) : Bool := m.parts.any fun x => x.places.any fun y => !y.loading.isEmpty

/-- Evict hot copies on a slab until `need` MiB are free, the lowest last use first, passing over pinned and held copies
and those in `keep` (R308). Nothing when they cannot be freed (R309). -/
def State.makeRoom (s : State) (p slab need : Nat) (keep : List (Nat × Nat × Nat)) : Option State :=
  let q := s.part p
  let used := q.hotUsed slab
  let cap := q.quotaOn slab Quota.hot
  if used + need ≤ cap then some s else
  let pass := keep ++ s.heldParts p
  let cand := sortBy (fun c : Nat × (Nat × Nat) × Nat => c.1) ((q.models.map fun m =>
    ((List.range m.parts.length).filterMap fun i => (m.place? i slab).bind fun y =>
      if y.hot && !y.pinned && y.loading.isEmpty && !pass.contains (m.handle, i, slab) then
        some (y.lastUse, (m.handle, i), (nth m.parts i).size) else none)).flatten)
  match (List.range (cand.length + 1)).find? fun n => decide (used - sumNat ((cand.take n).map fun c => c.2.2) + need ≤ cap) with
  | none => none
  | some n => some ((cand.take n).foldl (fun s c => s.modPlace p c.2.1.1 c.2.1.2 slab fun y => { y with hot := false }) s)

/-- Make parts hot for a command: those neither hot nor loading start loading, with room made for all of them (R307 to
R309, R315). The codes refuse the command without effect. -/
def State.startLoads (s : State) (p seq : Nat) (need : List (Nat × Nat × Nat)) : Except St State :=
  let place : Nat × Nat × Nat → PlaceState := fun x => ((((s.part p).model? x.1).bind fun m => m.place? x.2.1 x.2.2)).getD default
  let size : Nat × Nat × Nat → Nat := fun x => ((((s.part p).model? x.1).map fun m => (nth m.parts x.2.1).size)).getD 0
  let need := need.eraseDups
  let cold := need.filter fun x => !(place x).hot && (place x).loading.isEmpty
  if need.any fun x => !(place x).hot && (place x).damaged then .error .modelDamaged else
  let room := (List.range 8).foldl (fun (o : Option State) k => o.bind fun s =>
    let here := cold.filter fun x => x.2.2 == k
    if here = [] then some s else s.makeRoom p k (sumNat (here.map size)) need) (some s)
  match room with
  | none => .error .quarryFull
  | some s1 => .ok ((need.filter fun x => !(place x).hot).foldl (fun s x => s.modPlace p x.1 x.2.1 x.2.2 fun y =>
      { y with loading := y.loading ++ [seq] }) s1)

/-- Every part of a list is a hot copy (R307). -/
def State.allHot (s : State) (p : Nat) (l : List (Nat × Nat × Nat)) : Bool :=
  l.all fun x => ((((s.part p).model? x.1).bind fun m => m.place? x.2.1 x.2.2).map fun y => y.hot).getD false

/-! ## Commands -/

/-- A part entry of MODEL_LOAD (R389): source, size in MiB, mask, digest, reserved bytes clear. -/
structure PartArg where
  src : Nat
  size : Nat
  mask : Nat
  digest : List Byte
  clean : Bool

def partArgAt (bs : List Byte) (i : Nat) : PartArg :=
  let e := bytesAt bs (80 * i) 80
  { src := numAt e 0 8, size := numAt e 8 2, mask := numAt e 10 1, digest := bytesAt e 16 64
    clean := (bytesAt e 11 5).all (· == 0) }

/-- Read every part in order, stopping at the first that fails (R303). -/
def State.readParts (s : State) (f : Flight) (digest : Bool) :
    Nat → List PartArg → State × Except St (List (PartArg × List Byte))
  | _, [] => (s, .ok [])
  | i, a :: t =>
    match s.hostIn f f.cmd.code (1 + (i + 1) % 15) a.src (a.size * 2 ^ 20) with
    | (s1, .error e) => (s1, .error e)
    | (s1, .ok bs) =>
      if digest && bytesAt (Config.sha3 bs) 0 64 != a.digest then (s1, .error .modelDigest) else
      match s1.readParts f digest (i + 1) t with
      | (s2, .error e) => (s2, .error e)
      | (s2, .ok l) => (s2, .ok ((a, bs) :: l))

/-- The frames that a list of parts needs on a slab (R303). -/
def partFrames (l : List (Nat × Nat)) (slab : Nat) : Nat :=
  sumNat ((l.filter fun x => bitOf x.2 slab).map fun x => ceilDiv x.1 2)

/-- Make hot copies on the way, where they fit beside those that this load has made (R313): the state, and the mask of
parts left cold. -/
def State.heat (s : State) (p h seq : Nat) (l : List (Nat × Nat × Nat)) : State × Nat :=
  let keep := l.map fun x => (h, x.1, x.2.1)
  l.foldl (fun o x =>
    let (s, cold) := o
    match s.makeRoom p x.2.1 x.2.2 keep with
    | some s1 => (s1.modPlace p h x.1 x.2.1 fun y => { y with hot := true, lastUse := seq }, cold)
    | none => (s, cold ||| 2 ^ x.1)) (s, 0)

/-- MODEL_LOAD (R302, R303, R313, R315, R389). -/
def modelLoad (s : State) (f : Flight) : State :=
  let n := f.arg 0 1
  let p := s.part f.fn
  let h := f.arg 4 4
  if n = 0 || 64 < n then s.failCmd f .argRange
  else if h ≠ 0 && (p.model? h).isNone then s.failCmd f .handleBad else
  match s.hostIn f f.cmd.code 1 (f.arg 8 8) (80 * n) with
  | (s, .error e) => s.failCmd f e
  | (s, .ok bs) =>
    let as := (List.range n).map (partArgAt bs)
    if as.any fun a => !a.clean then s.failCmd f .rsvdSet
    else if as.any (fun a => a.size = 0 || 1024 < a.size || a.mask = 0 || (maskList a.mask 8).any fun k => !bitOf p.q.mask k)
        || (List.range 8).any (fun k => 8 < (as.filter fun a => bitOf a.mask k).length) then s.failCmd f .argRange
    else if h ≠ 0 && (s.modelHeld f.fn h || ((p.model? h).map Model.isLoading).getD false) then s.failCmd f .modelBusy
    else if h = 0 && 256 ≤ p.models.length then s.failCmd f .quota
    else
      let old := (p.model? h).map fun m => m.parts.map fun x => (x.size, x.mask)
      let new := as.map fun a => (a.size, a.mask)
      if (List.range 8).any fun k => s.framesFree f.fn k + partFrames (old.getD []) k < partFrames new k then s.failCmd f .quota else
      match s.readParts f (bitOf (f.arg 1 1) 1) 0 as with
      | (s, .error e) => s.failCmd f e
      | (s, .ok l) =>
        let (g, s1) := if h = 0 then s.newHandle else (h, s)
        let parts := l.map fun x =>
          { size := x.1.size, mask := x.1.mask, bytes := Memory.write [] 0 x.2
            places := (maskList x.1.mask 8).map fun k =>
              { slab := k, hot := false, pinned := false, lastUse := 0, damaged := false, loading := [] } : MPart }
        let s2 := s1.modPart f.fn fun q =>
          { q with models := (q.models.filter fun m => m.handle != g) ++ [{ handle := g, parts := parts }] }
        let spots := ((List.range n).map fun i => (maskList (nth parts i).mask 8).map fun k => (i, k, (nth parts i).size)).flatten
        let (s3, cold) := if bitOf (f.arg 1 1) 0 then s2.heat f.fn g f.seq spots else (s2, 2 ^ n - 1)
        (s3.dropBad fun x => match x with
          | .cold q m _ _ _ | .hot q m _ _ _ => q == f.fn && m == g
          | _ => false).okCmd f cold [] g

/-- MODEL_DROP (R311). -/
def modelDrop (s : State) (f : Flight) : State :=
  let h := f.arg 0 4
  match (s.part f.fn).model? h with
  | none => s.failCmd f .handleBad
  | some m =>
    if s.modelHeld f.fn h || m.isLoading then s.failCmd f .modelBusy else
    (s.modPart f.fn fun q => { q with models := q.models.filter fun m => m.handle != h }).okCmd f

/-- Every part of a model, as (handle, part index, slab). -/
def Model.spots (m : Model) : List (Nat × Nat × Nat) :=
  ((List.range m.parts.length).map fun i => (nth m.parts i).places.map fun y => (m.handle, i, y.slab)).flatten

/-- MODEL_PIN (R310): it completes when every load it waits for has ended. -/
def modelPin (s : State) (f : Flight) : State :=
  match (s.part f.fn).model? (f.arg 0 4) with
  | none => s.failCmd f .handleBad
  | some m =>
    match s.startLoads f.fn f.seq m.spots with
    | .error e => s.failCmd f e
    | .ok s1 =>
      let s2 := m.spots.foldl (fun s x => s.modPlace f.fn x.1 x.2.1 x.2.2 fun y => { y with pinned := y.pinned || y.hot }) s1
      if s2.allHot f.fn m.spots then s2.okCmd f else s2.busyCmd f [m.handle]

/-- MODEL_UNPIN (R310). -/
def modelUnpin (s : State) (f : Flight) : State :=
  match (s.part f.fn).model? (f.arg 0 4) with
  | none => s.failCmd f .handleBad
  | some m => (m.spots.foldl (fun s x => s.modPlace f.fn x.1 x.2.1 x.2.2 fun y => { y with pinned := false }) s).okCmd f

/-- A QUARRY_STAT record (R389). -/
def State.quarryRecord (s : State) (p : Nat) (x : Nat × Nat × Nat) : List Byte :=
  let y := ((((s.part p).model? x.1).bind fun m => m.place? x.2.1 x.2.2)).getD default
  toLe 4 x.1 ++ toLe 1 x.2.1 ++ toLe 1 x.2.2 ++
    toLe 2 (boolNat y.hot + 2 * boolNat y.pinned + 4 * boolNat ((s.heldParts p).contains x) + 8 * boolNat y.damaged) ++ toLe 8 y.lastUse

/-- QUARRY_STAT (R389): one record for each part on each slab; those that do not fit are not written. -/
def quarryStat (s : State) (f : Flight) : State :=
  let a := f.arg 0 8
  let n := f.arg 8 4
  if !bufOk a n then s.failCmd f .argRange else
  let l := ((s.part f.fn).models.map Model.spots).flatten
  s.okCmd f l.length
    [{ addr := a, len := n, bytes := ((l.take (n / 16)).map (s.quarryRecord f.fn)).flatten, index := 1, epoch := true }]

/-! ## The end of a load -/

/-- Loads for commands run in the order of their sequence numbers on each slab (R307). -/
def State.firstLoad (s : State) (slab seq : Nat) : Bool :=
  s.parts.all fun q => q.models.all fun m => m.parts.all fun x => x.places.all fun y =>
    y.slab != slab || y.loading.isEmpty || decide (seq ≤ y.loading.headD 0)

/-- A MODEL_PIN whose loads have all ended completes (R310). -/
def State.finishPins (s : State) (p : Nat) : State :=
  (s.flights.filter fun f => f.fn == p && decide (f.cmd = .modelPin) && decide (f.phase = .busy)).foldl (fun s f =>
    match (s.part p).model? (f.waits.headD 0) with
    | none => s
    | some m => if s.allHot p m.spots then s.okCmd f else s) s

/-- The load of a part's cold copy met an uncorrectable word: the part is damaged, the commands that waited fail
(R289, R315). -/
def State.loadBad (s : State) (p h i slab : Nat) (seqs : List Nat) (inj : Bool) : State :=
  let s1 := s.modPlace p h i slab fun y => { y with damaged := true, loading := [], pinned := false }
  seqs.foldl (fun s q =>
    match s.flight? q with
    | none => s
    | some f =>
      if f.phase = .done then s
      else match f.run with
      | some r => s.contextFault p r.ctx
          { code := .hbmUncorr, slab := slab, unit := 0x9, id := 0, seq := q, line := 0xFFFFFF, op := 0xFF
            detail0 := slab + 0xFFFFFF * 256, detail1 := 0xFFFFFFFF, arg := 0xFFFFFFFF, inj := inj }
      | none => s.failCmd f .modelDamaged) s1

/-- Places of the hot copy of a part on a slab. -/
def hotPlace (p h i slab : Nat) (x : Place) : Bool :=
  match x with | .hot q m j k _ => q == p && m == h && j == i && k == slab | _ => false

/-- QUARRY_LOAD_END (R308, R312, R289, R315): the code words of the hot copy are fresh. -/
def quarryLoadEnd (p h i slab : Nat) (s : State) : State :=
  match ((s.part p).model? h).bind fun m => m.place? i slab with
  | none => s
  | some y =>
    if !s.running || y.loading.isEmpty || !s.firstLoad slab (y.loading.headD 0) then s else
    let hit : Place → Bool := fun x => match x with | .cold q m j k _ => q == p && m == h && j == i && k == slab | _ => false
    let (s1, r) := s.readHbm slab p hit none
    match r with
    | some inj => s1.loadBad p h i slab y.loading inj
    | none =>
      let pin := y.loading.any fun q => (s.flight? q).any fun f => decide (f.cmd = .modelPin)
      ((s1.modPlace p h i slab fun y =>
        { y with hot := true, pinned := y.pinned || pin, lastUse := Nat.max y.lastUse (y.loading.headD 0), loading := [] }).dropBad
          (hotPlace p h i slab)).finishPins p

def execQuarryLoadEnd (part handle idx slab : Nat) (s : State) : Host.Outcome State Fault Refusal :=
  .next (quarryLoadEnd part handle idx slab s)

end Sys2Proof.Machine
end

