-- ==== Sys2Proof/Machine/Regions.lean ====
section
/-! DEFINITION. Regions.lean: sequence regions and their page tables (R202 to R209). -/

namespace Sys2Proof.Machine

def Part.region? (p : Part) (h : Nat) : Option Region := p.regions.find? fun r => r.handle == h

def State.modRegion (s : State) (p h : Nat) (g : Region → Region) : State :=
  s.modPart p fun q => { q with regions := modWhere q.regions (fun r => r.handle == h) g }

/-- The entry of a 64 KiB page of a region: its own, or that of the 2 MiB page it lies in (R205, R211). -/
def Region.entry? (r : Region) (n : Nat) : Option Page :=
  r.pages.find? fun g => if g.big then g.num == n / 32 * 32 else g.num == n

/-- REGION_CREATE (R202, R207). -/
def regionCreate (s : State) (f : Flight) : State :=
  let size := f.arg 0 8
  let home := f.arg 8 1
  let p := s.part f.fn
  if size % 2 ^ 21 ≠ 0 || size = 0 || 2 ^ 36 < size || 8 ≤ home || !bitOf p.q.mask home then s.failCmd f .argRange
  else if 4096 ≤ p.regions.length then s.failCmd f .quota else
  let (h, s1) := s.newHandle
  (s1.modPart f.fn fun q =>
    { q with regions := q.regions ++ [{ handle := h, size := size, home := home, pages := [], lingering := [], bytes := [] }] }).okCmd f h

/-- Places of a region's pages inside [a, a + n). -/
def inPages (part handle a n : Nat) (p : Place) : Bool :=
  match p with | .page q h o => q == part && h == handle && overlaps a n (o / 64 * 64) 64 | _ => false

/-- REGION_MAP (R205, R206, R209): the mapped bytes read +0, their code words fresh (R286). -/
def regionMap (s : State) (f : Flight) : State :=
  let big := bitOf (f.arg 4 1) 0
  let ro := bitOf (f.arg 4 1) 1
  let ofs := f.arg 8 8
  let n := f.arg 16 4
  let unit : Nat := if big then 2 ^ 21 else 2 ^ 16
  match (s.part f.fn).region? (f.arg 0 4) with
  | none => s.failCmd f .handleBad
  | some r =>
    if ofs % unit ≠ 0 || n = 0 || r.size < ofs + n * unit then s.failCmd f .argRange else
    let first := ofs / 2 ^ 16
    let count := n * (unit / 2 ^ 16)
    if (List.range count).any fun i => (r.entry? (first + i)).isSome then s.failCmd f .regionMapped else
    let new := (List.range n).map fun i => { num := first + i * (unit / 2 ^ 16), big := big, ro := ro : Page }
    let r2 := { r with pages := r.pages ++ new }
    if s.framesFree f.fn r.home + r.frames < r2.frames then s.failCmd f .quota else
    ((s.modRegion f.fn r.handle fun _ => { r2 with bytes := Memory.clear r.bytes ofs (n * unit) }).dropBad
      (inPages f.fn r.handle ofs (n * unit))).okCmd f

/-- Remove the pages of a range: they read +0 when mapped again; frames of spans left without pages linger for a
command (R205, R209). -/
def Region.unmap (r : Region) (ofs len seq : Nat) (linger : Bool) : Region :=
  let pages := r.pages.filter fun g => !(ofs ≤ g.num * 2 ^ 16 && g.num * 2 ^ 16 < ofs + len)
  let gone := r.spans.length - ({ r with pages := pages } : Region).spans.length
  { r with
    pages := pages
    bytes := Memory.clear r.bytes ofs len
    lingering := r.lingering ++ (if linger then List.replicate gone seq else []) }

/-- Passages selected on a slab and not ended: a passage that spans several slabs ends when it has ended on every one of
them (R78, R209). -/
def State.selected (s : State) (slab : Nat) : List Nat :=
  (s.slab slab).live.map Live.seq ++
    (s.flights.filter fun f => decide (f.phase ≠ .done) && f.run.any fun r => r.ended.contains slab).map Flight.seq

/-- REGION_UNMAP (R206, R209): the entries change at once; frames and completion wait for the passages selected on the
home slab. -/
def regionUnmap (s : State) (f : Flight) : State :=
  let ofs := f.arg 8 8
  let len := f.arg 16 8
  match (s.part f.fn).region? (f.arg 0 4) with
  | none => if len % 2 ^ 16 ≠ 0 then s.failCmd f .argRange else s.failCmd f .handleBad
  | some r =>
    let cut := r.pages.any fun g => g.big &&
      (let a := g.num * 2 ^ 16
       overlaps a (2 ^ 21) ofs len && !(ofs ≤ a && a + 2 ^ 21 ≤ ofs + len))
    if ofs % 2 ^ 16 ≠ 0 || len % 2 ^ 16 ≠ 0 || r.size < ofs + len || cut then s.failCmd f .argRange else
    let w := s.selected r.home
    let s1 := s.modRegion f.fn r.handle fun r => r.unmap ofs len f.seq (!w.isEmpty)
    if w = [] then s1.okCmd f else s1.busyCmd f w

/-- A region is bound by a passage queued or running, or named by a RUN_PASSAGE in flight (R207). -/
def State.regionBusy (s : State) (p h : Nat) : Bool :=
  s.flights.any fun f => f.fn == p && decide (f.cmd = .runPassage) &&
    (s.meant f).any fun g => (List.range 16).any fun i => g.arg (32 + 4 * i) 4 == h

/-- REGION_DESTROY (R207, R209). -/
def regionDestroy (s : State) (f : Flight) : State :=
  match (s.part f.fn).region? (f.arg 0 4) with
  | none => s.failCmd f .handleBad
  | some r =>
    if s.regionBusy f.fn r.handle then s.failCmd f .regionBusy else
    let w := s.selected r.home
    if w = [] then
      (s.modPart f.fn fun q => { q with regions := q.regions.filter fun x => x.handle != r.handle }).okCmd f
    else (s.modRegion f.fn r.handle fun r => { r.unmap 0 r.size f.seq true with size := r.size }).busyCmd f w

/-- Every passage that a REGION_UNMAP or REGION_DESTROY waits for has ended (R209). -/
def State.unmapReady (s : State) (f : Flight) : Bool :=
  !s.flights.any fun g => f.waits.contains g.seq && g.run.isSome && decide (g.phase ≠ .done)

/-- The frames that a command unmapped return to the quota (R209). -/
def State.unmapEnd (s : State) (f : Flight) : State :=
  if f.cmd = .regionDestroy then
    s.modPart f.fn fun q => { q with regions := q.regions.filter fun x => x.handle != f.arg 0 4 }
  else s.modRegion f.fn (f.arg 0 4) fun r => { r with lingering := r.lingering.filter fun x => x != f.seq }

end Sys2Proof.Machine
end

