-- ==== Sys2Proof/Machine/Share.lean ====
section
/-! DEFINITION. Share.lean: a context's share address space on a slab: the private share and the model windows above it
(R284, R300, R305, R306), with the check codes of the scratchpad (R290). -/

namespace Sys2Proof.Machine

/-- The windows mapped on a slab for the passage of a RUN_PASSAGE: share offset, bytes, model handle, part index (R305). A
slab that the context does not span has none (R63). -/
def State.windows (s : State) (p seq slab : Nat) : List (Nat × Nat × Nat × Nat) :=
  match (s.flight? seq).bind Flight.run with
  | none => []
  | some r =>
    match ((s.ctx? p r.ctx).filter fun c => c.slabs.contains slab).bind Ctx.prog with
    | none => []
    | some g => (g.binds.zip r.models).filterMap fun b =>
        ((s.part p).model? b.2).bind fun m =>
          (m.ordPart slab b.1.ord).map fun i => (b.1.offset * 2 ^ 20, b.1.size * 2 ^ 20, b.2, i)

/-- The private share of a context on a slab. -/
def State.share (s : State) (p c slab : Nat) : Mem := (((s.ctx? p c).bind fun x => x.onSlab? slab).map CtxSlab.share).getD []

/-- P of a context on a slab, in bytes: 0 off its slabs (R300). -/
def State.shareSize (s : State) (p c slab : Nat) : Nat :=
  match s.ctx? p c with
  | none => 0
  | some x => if (x.onSlab? slab).isSome then x.shareBytes else 0

/-- Every byte of [a, a + n) lies in some interval of a list. -/
def coveredBy (l : List (Nat × Nat)) : Nat → Nat → Nat → Bool
  | 0, _, n => n == 0
  | k + 1, a, n =>
    n == 0 || match l.find? fun i => decide (i.1 ≤ a) && decide (a < i.1 + i.2) with
      | none => false
      | some i => coveredBy l k (i.1 + i.2) (a + n - (i.1 + i.2))

/-- The passage may read share addresses [a, a + n) (R300). -/
def State.readable (s : State) (p c seq slab a n : Nat) : Bool :=
  decide (a + n ≤ s.shareSize p c slab) ||
    (let w := (s.windows p seq slab).map fun x => (x.1, x.2.1)
     coveredBy ((0, s.shareSize p c slab) :: w) (w.length + 2) a n)

/-- The context may write share addresses [a, a + n) (R306). -/
def State.writable (s : State) (p c slab a n : Nat) : Bool := n == 0 || decide (a + n ≤ s.shareSize p c slab)

/-- Bytes of the share address space. -/
def State.readShare (s : State) (p c seq slab a n : Nat) : List Byte :=
  if a + n ≤ s.shareSize p c slab then Memory.read (s.share p c slab) a n else
  let w := s.windows p seq slab
  let own := s.share p c slab
  (List.range n).map fun i =>
    if a + i < s.shareSize p c slab then Memory.get own (a + i)
    else match w.find? fun x => decide (x.1 ≤ a + i) && decide (a + i < x.1 + x.2.1) with
      | some x => (((s.part p).model? x.2.2.1).map fun m => Memory.get (nth m.parts x.2.2.2).bytes (a + i - x.1)).getD 0
      | none => 0

/-- Change the private share of a context on a slab. -/
def State.putShare (s : State) (p c slab : Nat) (f : Mem → Mem) : State :=
  s.modCtx p c fun x => x.modSlab slab fun d => { d with share := f d.share }

/-- Write bytes to a private share; the code words written are fresh. -/
def State.writeShare (s : State) (p c slab a : Nat) (bs : List Byte) : State :=
  (s.putShare p c slab fun m => Memory.write m a bs).overwrite slab (inShare p c slab a bs.length)

/-- Change the slots of a context on a slab. -/
def State.modSlot (s : State) (p c slab i : Nat) (f : AccSlot → AccSlot) : State :=
  s.modCtx p c fun x => x.modSlab slab fun d => { d with slots := modAt d.slots i f }

def State.slot (s : State) (p c slab i : Nat) : AccSlot :=
  (((s.ctx? p c).bind fun x => x.onSlab? slab).map fun d => nth d.slots i).getD AccSlot.fresh

/-- Bad words of the hot copies under [a, a + n) of the share address space. -/
def State.inWindows (s : State) (p seq slab a n : Nat) (x : Place) : Bool :=
  match x with
  | .hot q h i k o => q == p && k == slab && (s.windows p seq slab).any fun w =>
      w.2.2.1 == h && w.2.2.2 == i && overlaps a n (w.1 + o / 32 * 32) 32
  | _ => false

/-- The check codes of the share regions that an operation reads (R290): the injected or real uncorrectable word, if
one was met. A hot copy with one is discarded. -/
def State.eccShare (s : State) (p c seq slab : Nat) : List (Nat × Nat) → State × Option Bool
  | [] => (s, none)
  | (a, n) :: t =>
    if n = 0 then s.eccShare p c seq slab t else
    let hot := s.inWindows p seq slab a n
    let (s1, r) := s.readSpad slab p c a n fun x => inShare p c slab a n x || hot x
    match r with
    | none => s1.eccShare p c seq slab t
    | some i =>
      let real := (s.slab slab).bad.filter fun u => decide (2 ≤ u.symbols) && (hot u.place || inShare p c slab a n u.place)
      let named := (s.talus.armed.filter fun x => x.point == 0x0104 && x.onCtx p c).map fun x => fld x.param 29 0
      let lost := (s.windows p seq slab).filter fun w => overlaps a n w.1 w.2.1 &&
        (real.any (fun u => s.inWindows p seq slab w.1 w.2.1 u.place)
          || (i && real.isEmpty && (named.isEmpty || named.any fun o => decide (w.1 ≤ o) && decide (o < w.1 + w.2.1))))
      ((lost.foldl (fun s w => s.modPlace p w.2.2.1 w.2.2.2 slab fun y => { y with hot := false }) s1).dropBad
        fun x => lost.any fun w => hotPlace p w.2.2.1 w.2.2.2 slab x, some i)

end Sys2Proof.Machine
end

