-- ==== Sys2Proof/Machine/Image.lean ====
section
/-! DEFINITION. Image.lean: program images and PROG_LOAD (R319 to R330, R53, R85, R86). -/

namespace Sys2Proof.Machine

/-- Bytes of the signature trailer (R325): key digest and ML-DSA-87 signature. -/
def trailerBytes : Nat := 64 + 4627

/-! ## Fields of an image body -/

/-- The 256-byte header as a number (R319). -/
def imgHeader (b : List Byte) : Nat := numAt b 0 256
def imgLen (b : List Byte) : Nat := numAt b 40 8
def imgGeomWord (b : List Byte) : Nat := fld (imgHeader b) 191 64
def imgGeom (b : List Byte) : Geom := geomOf (imgGeomWord b)
def imgNdim (b : List Byte) : Nat := fld (imgHeader b) 199 192
def imgNbucket (b : List Byte) : Nat := fld (imgHeader b) 207 200
def imgNpass (b : List Byte) : Nat := fld (imgHeader b) 215 208
def imgNfuse (b : List Byte) : Nat := fld (imgHeader b) 223 216
def imgNflint (b : List Byte) : Nat := fld (imgHeader b) 231 224
def imgNmodel (b : List Byte) : Nat := fld (imgHeader b) 239 232
def imgNident (b : List Byte) : Nat := fld (imgHeader b) 255 240
def imgNregion (b : List Byte) : Nat := fld (imgHeader b) 271 256

/-- Offset and length of directory entry i (R320). -/
def imgSection (b : List Byte) (i : Nat) : Nat × Nat := (numAt b (256 + 16 * i) 8, numAt b (264 + 16 * i) 8)

/-- The entries of a section, `size` bytes each, as numbers. -/
def imgEntries (b : List Byte) (i size : Nat) : List Nat :=
  let s := imgSection b i
  (List.range (s.2 / size)).map fun k => numAt b (s.1 + size * k) size

/-- The program text of slab s of the image. -/
def imgText (b : List Byte) (s : Nat) : List Line := imgEntries b (8 + s) 64

def regionOf (d : Nat) : ImgRegion :=
  { offset := fld d 23 0, len := fld d 47 24, kind := fld d 51 48, mask := fld d 63 56, src := fld d 103 64 }

def imgRegions (b : List Byte) : List ImgRegion := (imgEntries b 4 16).map regionOf

def bindOf (d : Nat) : MBind := { offset := fld d 10 0, size := fld d 26 16, ord := fld d 29 27 }

def identOf (d : Nat) : Ident :=
  { passage := fld d 7 0, kind := fld d 11 8, fmt := fld d 14 12, dest := fld d 17 16, slab := fld d 20 18
    buf := fld d 24 21, count := fld d 63 32, addr := fld d 127 64 }

/-- A bucket's extents (R324). -/
def bucketOf (n d : Nat) : List Nat := (List.range n).map fun j => fld d (32 * j + 31) (32 * j)

def passEntryOf (n d : Nat) : PassEntry :=
  { w := fld d 31 0, passage := fld d 39 32, bucket := fld d 43 40
    lines := (List.range n).map fun s => fld d (64 + 24 * s + 23) (64 + 24 * s) }

/-! ## Step 2 of R327: ST_IMAGE_FORM -/

def headerOk (b : List Byte) : Bool :=
  let h := imgHeader b
  fld h 31 0 == 0x4E464231 && fld h 47 32 == 1 && fld h 63 48 == 0 && (imgGeom b).inRange
    && decide (imgNdim b ≤ 4) && decide (1 ≤ imgNbucket b) && decide (imgNbucket b ≤ 16)
    && (imgNdim b != 0 || imgNbucket b == 1) && decide (1 ≤ imgNpass b) && decide (imgNfuse b ≤ 63)
    && decide (imgNflint b ≤ 16) && decide (imgNmodel b ≤ 8) && decide (imgNident b ≤ 4096)
    && decide (1 ≤ imgNregion b) && decide (imgNregion b ≤ 255) && fld h 319 272 == 0 && fld h 2047 384 == 0

/-- The length that each directory entry must have; none for a text, which is any number of lines (R320). -/
def sectionLen (b : List Byte) (i : Nat) : Option Nat :=
  let n := (imgGeom b).slabs
  if i = 0 then some (16 * imgNbucket b)
  else if i = 1 then some (32 * (imgNbucket b * imgNpass b))
  else if i = 2 then some (16 * imgNident b)
  else if i = 3 then some (8 * imgNmodel b)
  else if i = 4 then some (16 * imgNregion b)
  else if i = 5 then some (64 * imgNfuse b)
  else if 8 ≤ i ∧ i < 8 + n then none
  else if 16 ≤ i ∧ i < 16 + n then some (32 * imgNflint b)
  else some 0

/-- The sections that are present. -/
def imgSections (b : List Byte) : List (Nat × Nat) := ((List.range 32).map (imgSection b)).filter fun s => s.2 != 0

/-- No two ranges of a list meet. -/
def disjoint : List (Nat × Nat) → Bool
  | [] => true
  | s :: t => (t.all fun r => !overlaps s.1 s.2 r.1 r.2) && disjoint t

def directoryOk (b : List Byte) : Bool :=
  ((List.range 32).all fun i =>
    match sectionLen b i with
    | some n => (imgSection b i).2 == n
    | none => (imgSection b i).2 != 0 && (imgSection b i).2 % 64 == 0)
  && (imgSections b).all (fun s => s.1 % 64 == 0 && decide (768 ≤ s.1) && decide (s.1 + s.2 ≤ b.length))
  && disjoint (imgSections b)

/-- Every extent of `e` is at least that of `f` (R324). -/
def covers (e f : List Nat) : Bool := (e.zip f).all fun p => decide (p.2 ≤ p.1)

/-- No entry covers a later one (R324). -/
def bucketOrder : List (List Nat) → Bool
  | [] => true
  | e :: t => (t.all fun f => !covers e f) && bucketOrder t

def bucketsOk (b : List Byte) : Bool :=
  let l := imgEntries b 0 16
  l.all (fun d => d >>> (32 * imgNdim b) == 0 && (bucketOf (imgNdim b) d).all fun x => x != 0)
    && bucketOrder (l.map (bucketOf (imgNdim b)))

/-- First lines of the passages of a text: its first line and every line after one whose LAST bit is 1 (R328). -/
def passageStarts (t : List Line) : List Nat :=
  (List.range t.length).filter fun i => i == 0 || lineLast (nth t (i - 1))

/-- The passage table, and that the texts hold only whole passages reached from it (R321, R328). -/
def passagesOk (b : List Byte) : Bool :=
  let n := (imgGeom b).slabs
  let l := imgEntries b 1 32
  (l.zipIdx.all fun d =>
    let e := passEntryOf n d.1
    e.passage == d.2 % imgNpass b && e.bucket == d.2 / imgNpass b && fld d.1 63 44 == 0 && d.1 >>> (64 + 24 * n) == 0)
  && (List.range n).all fun s =>
    let t := imgText b s
    let starts := passageStarts t
    let named := l.map fun d => (passEntryOf n d).lines.getD s 0
    (t.getLast?.map lineLast).getD false && named.all (fun x => starts.contains x) && starts.all fun x => named.contains x

def identOk (b : List Byte) (d : Nat) : Bool :=
  let e := identOf d
  decide (e.passage < imgNpass b) && decide (e.kind ≤ 4) && decide (e.fmt ≤ 1) && (e.kind != 4 || e.fmt == 0)
    && !bitOf d 15 && decide (e.dest ≤ 2) && fld d 31 25 == 0 && e.count != 0 && e.addr % 64 == 0
    && (if e.dest = 2 then e.slab == 0 else decide (e.slab < (imgGeom b).slabs) && e.buf == 0)

def bindOk (d : Nat) : Bool := fld d 15 11 == 0 && fld d 63 30 == 0

def regionOk (b : List Byte) (d : Nat) : Bool :=
  let r := regionOf d
  r.mask != 0 && decide (r.mask < 2 ^ (imgGeom b).slabs) && r.len != 0 && decide (r.kind ≤ 6) && fld d 55 52 == 0
    && fld d 127 104 == 0 && decide ((r.offset + r.len) * 512 ≤ (imgGeom b).spad * 2 ^ 20)
    && (if r.kind = 2 then
          decide (768 ≤ r.src) && decide (r.src + r.len * 512 ≤ b.length)
            && (imgSections b).all fun s => !overlaps r.src (r.len * 512) s.1 s.2
        else r.src == 0)

/-- Regions of one slab (R322). -/
def slabRegionsOk (b : List Byte) (s : Nat) : Bool :=
  let l := (imgRegions b).filter fun r => bitOf r.mask s
  let of : Nat → List ImgRegion := fun k => l.filter fun r => r.kind == k
  (of 0).length == 1 && (of 0).all (fun r => decide (64 * (imgText b s).length ≤ r.len * 512))
    && (of 3).length == 1 && (of 3).all (fun r => r.len == 1)
    && decide ((of 1).length ≤ 1) && (of 1).all (fun r => r.len % 8192 == 0)
    && disjoint (l.map fun r => (r.offset, r.len))

/-- Step 2 of R327. -/
def imageFormOk (b : List Byte) : Bool :=
  headerOk b && directoryOk b && bucketsOk b && passagesOk b && (imgEntries b 2 16).all (identOk b)
    && (imgEntries b 3 8).all bindOk && (imgEntries b 4 16).all (regionOk b)
    && (List.range (imgGeom b).slabs).all (slabRegionsOk b)

/-! ## Steps 3 to 6 -/

/-- Geometry against module and context (R85). -/
def State.geometryOk (s : State) (g : Geom) (c : Ctx) : Bool :=
  g.part == s.partCode && g.stepping == stepping && g.arrLog2 == 9 && g.laneLog2 == 9 && g.slabs == c.slabs.length
    && decide (g.slots ≤ c.slots) && decide (g.spad ≤ c.spad)

/-- Shares against the partition's guarantees (R86). -/
def State.sharesOk (s : State) (p : Nat) (g : Geom) (c : Ctx) : Bool :=
  let q := (s.part p).q
  c.slabs.all (fun k => decide (g.hbm + s.codecReserve p k ≤ q.hbm)) && decide (g.fab ≤ q.fab) && decide (g.host ≤ q.host)

/-- Long-sum entries declared on a slab of the image (R110, R322). -/
def longSumCount (l : List ImgRegion) (s : Nat) : Nat :=
  match l.find? fun r => r.kind == 1 && bitOf r.mask s with
  | some r => r.len / 8192
  | none => 0

/-- Step 5 of R327. -/
def linesOk (b : List Byte) : Bool :=
  let fusion := imgEntries b 5 64
  fusion.all fuseOk && (List.range (imgGeom b).slabs).all fun s =>
    let e : FormEnv := { fusion := fusion, nflint := imgNflint b, groups := (imgGeom b).groups
                         longSums := longSumCount (imgRegions b) s }
    (imgText b s).all (lineForm e) && loopsForm (imgText b s) 0 && (imgEntries b (16 + s) 32).all flintClean

/-- Step 6 of R327. -/
def grainsOk (b : List Byte) : Bool :=
  (List.range (imgGeom b).slabs).all fun s => (imgEntries b (16 + s) 32).all fun d => (flintOf d).whole

/-- The trailer names a registered key and its signature holds (R325). -/
def Part.signed (p : Part) (body trailer : List Byte) : Bool :=
  p.signers.any fun k => k != [] && bytesAt (Config.sha3 k) 0 64 == bytesAt trailer 0 64
    && Config.sigOk k (bytesAt (Config.sha3 body) 0 64) (bytesAt trailer 64 4627)

/-- The checks of R327 in order. -/
def State.imageCheck (s : State) (p : Nat) (c : Ctx) (img : List Byte) (len : Nat) : Except St (List Byte) :=
  let n := imgLen img
  let b := img.take n
  if len ≠ n + trailerBytes || n % 64 ≠ 0 || n < 768 then .error .imageForm
  else if !(s.part p).signed b (img.drop n) then .error .imageSig
  else if !imageFormOk b then .error .imageForm
  else if !s.geometryOk (imgGeom b) c then .error .geometry
  else if !s.sharesOk p (imgGeom b) c then .error .boundShare
  else if !linesOk b then .error .lineForm
  else if !grainsOk b then .error .grainCut
  else .ok b

/-- The program of an image body (R319 to R326). -/
def programOf (b : List Byte) : Program :=
  let n := (imgGeom b).slabs
  { geom := imgGeom b, word := imgGeomWord b, ndim := imgNdim b, npass := imgNpass b
    buckets := (imgEntries b 0 16).map (bucketOf (imgNdim b))
    table := (imgEntries b 1 32).map (passEntryOf n)
    idents := (imgEntries b 2 16).map identOf
    binds := (imgEntries b 3 8).map bindOf
    regions := imgRegions b
    fusion := (imgEntries b 5 64).map (BitVec.ofNat 512)
    flint := (List.range n).map fun s => (imgEntries b (16 + s) 32).map flintOf
    meas := bytesAt (Config.sha3 b) 0 64 }

/-- The region of a kind on slab s of the image, as byte offset and length. -/
def Program.region? (g : Program) (kind s : Nat) : Option (Nat × Nat) :=
  (g.regions.find? fun r => r.kind == kind && bitOf r.mask s).map fun r => (r.offset * 512, r.len * 512)

/-- Copy text and constants into the share of slab `slab`, the s-th of the image (R329). -/
def State.placeImage (s : State) (p : Nat) (c : Ctx) (b : List Byte) (slab i : Nat) : State :=
  let put : State → ImgRegion → State := fun s r =>
    if !bitOf r.mask i then s
    else if r.kind = 0 then s.writeShare p c.num slab (r.offset * 512) ((imgText b i).map (toLe 64)).flatten
    else if r.kind = 2 then s.writeShare p c.num slab (r.offset * 512) (bytesAt b r.src (r.len * 512))
    else s
  (imgRegions b).foldl put s

/-- Bytes of a partition's flat memory, with the check codes met on the way: nothing where a word cannot be corrected. -/
def State.readFlat (s : State) (p slab a n : Nat) : State × Option (List Byte) :=
  let (s1, r) := s.readHbm slab p (inFlat p slab a n) (some (a, n))
  (s1, match r with | some _ => none | none => some (Memory.read (s.flat p slab) a n))

/-- A flat range lies below F on a slab of the partition (R63, R284). -/
def State.inFlatSize (s : State) (p slab a n : Nat) : Bool :=
  decide (slab < 8) && bitOf (s.part p).q.mask slab && decide (a + n ≤ (s.part p).flatSize slab)

/-- The image that PROG_LOAD names (R389). -/
def State.imageBytes (s : State) (f : Flight) : State × Except St (List Byte) :=
  let a := f.arg 8 8
  let n := f.arg 16 8
  if f.arg 2 1 = 0 then s.hostIn f f.cmd.code 1 a n
  else
    let (s1, r) := s.readFlat f.fn (fld a 59 56) (fld a 55 0) n
    (s1, match r with | some b => .ok b | none => .error .hbmUncorr)

/-- PROG_LOAD (R326 to R329, R406). -/
def progLoad (s : State) (f : Flight) : State :=
  let a := f.arg 8 8
  if 1 < f.arg 2 1 || (f.arg 2 1 = 1 && (spaceOf a ≠ 3 || !s.inFlatSize f.fn (fld a 59 56) (fld a 55 0) (f.arg 16 8))) then
    s.failCmd f .argRange
  else match s.needCtx f.fn (f.arg 0 2) with
  | .error e => s.failCmd f e
  | .ok c =>
    if !s.idle f.fn c f.seq then s.failCmd f .ctxBusy else
    match s.imageBytes f with
    | (s1, .error e) => s1.failCmd f e
    | (s1, .ok img) =>
      match s1.imageCheck f.fn c img (f.arg 16 8) with
      | .error e => s1.failCmd f e
      | .ok b =>
        let s2 := c.slabs.zipIdx.foldl (fun s k => s.placeImage f.fn c b k.1 k.2) s1
        (s2.modCtx f.fn c.num fun x => { x with prog := some (programOf b) }).okCmd f

end Sys2Proof.Machine
end

