-- ==== Sys2Proof/Machine/Run.lean ====
section
/-! DEFINITION. Run.lean: RUN_PASSAGE up to its queues, zero shapes, results and held results: FETCH, RESULT_DROP
(R79, R305 to R309, R331 to R335, R387, R392, R407, R409). -/

namespace Sys2Proof.Machine

/-! ## Output entries (R392) -/

def outEntryOf (d : Nat) : OutEntry :=
  { host := fld d 63 0, len := fld d 95 64, space := fld d 99 96, slab := fld d 102 100, ofs := fld d 191 128 }

def outEntryClean (d : Nat) : Bool := fld d 127 103 == 0 && fld d 255 192 == 0

def OutEntry.ok (o : OutEntry) : Bool := o.len % 64 == 0 && o.host % 64 == 0 && o.ofs % 512 == 0 && decide (o.space ≤ 1)

/-- The output entries of a RUN_PASSAGE. -/
def State.outEntries (s : State) (f : Flight) : State × Except St (List OutEntry) :=
  let n := f.arg 3 1
  if n = 0 then (s, .ok []) else
  match s.hostIn f f.cmd.code 1 (f.arg 128 8) (32 * n) with
  | (s1, .error e) => (s1, .error e)
  | (s1, .ok bs) =>
    let ds := (List.range n).map fun i => numAt bs (32 * i) 32
    (s1, if ds.any fun d => !outEntryClean d then .error .rsvdSet
      else if ds.any fun d => !(outEntryOf d).ok then .error .argRange
      else .ok (ds.map outEntryOf))

/-! ## Shape and bindings -/

/-- How the run's extents are classified (R331). -/
inductive ShapeClass where
  | zero
  | bucket (b : Nat)
  | over
  deriving DecidableEq, Repr

/-- R331, for a passage index below NPASS. -/
def Program.classify (g : Program) (shape : List Nat) : ShapeClass :=
  if g.ndim = 0 then .bucket 0
  else if (shape.take g.ndim).any fun x => x == 0 then .zero
  else match (List.range g.buckets.length).find? fun i => covers (nth g.buckets i) (shape.take g.ndim) with
    | some b => .bucket b
    | none => .over

/-- Every logical index the program uses is bound to a group inside the context's slabs (R263). -/
def Ctx.groupsOk (c : Ctx) (g : Program) : Bool :=
  (List.range g.geom.groups).all fun i =>
    (c.groups.find? fun x => x.lidx == i).any fun x => x.members.all fun m => c.slabs.contains m

/-- The window rules of R305. -/
def State.windowsOk (s : State) (p : Nat) (c : Ctx) (g : Program) (models : List Nat) : Bool :=
  let bs := g.binds.zip models
  (bs.all fun b =>
    match (s.part p).model? b.2 with
    | none => false
    | some m =>
      decide (c.spad ≤ b.1.offset) && decide (b.1.offset + b.1.size ≤ 1024) && c.slabs.all fun k =>
        (m.ordPart k b.1.ord).any fun i => (nth m.parts i).size == b.1.size)
  && disjoint (g.binds.map fun b => (b.offset, b.size))

/-- An object of the partition with a handle (R388, R391). -/
def State.holds (s : State) (p h : Nat) : Bool :=
  let q := s.part p
  (q.model? h).isSome || (q.region? h).isSome || q.ctxs.any (fun c => c.cairn == h) || q.session.any (fun k => k.handle == h)
    || s.codec.sessions.any fun c => c.part == p && c.handle == h

/-! ## Queues (R79) -/

/-- A RUN_PASSAGE accepted earlier has not started (R382, R347), and its context spans the slab: its passage is to enter
the slab's queue first. -/
def State.awaited (s : State) (seq slab : Nat) : Bool :=
  s.flights.any fun g => decide (g.seq < seq) && decide (g.cmd = .runPassage)
    && (decide (g.phase = .ordered) || decide (g.phase = .bme))
    && (((s.meant g).bind Flight.ctxNamed).bind (s.ctx? g.fn)).any fun c => c.slabs.contains slab

/-- A passage may enter a slab's queue now: an entry is free and none that came earlier is held for that slab, whatever
its partition. -/
def State.canQueue (s : State) (seq slab : Nat) : Bool :=
  decide ((s.slab slab).passq.length < 64) && !s.awaited seq slab &&
    !s.flights.any fun g => decide (g.seq < seq) && decide (g.phase = .busy) && g.run.any fun r =>
      r.slabs.contains slab && !r.queued.contains slab

/-- Put a passage into the queue of a slab. -/
def State.enqueue (s : State) (seq slab : Nat) : State :=
  (s.modSlab slab fun b => { b with passq := b.passq ++ [seq] }).modFlight seq fun g =>
    { g with run := g.run.map fun r => { r with queued := r.queued ++ [slab] } }

/-- PASSAGE_ENQUEUE (R79): the first passage held for the slab. -/
def passageEnqueue (slab : Nat) (s : State) : State :=
  let held := s.flights.filter fun g => decide (g.phase = .busy) && g.run.any fun r => r.slabs.contains slab && !r.queued.contains slab
  match leastBy Flight.seq held with
  | some g => if s.running && s.canQueue g.seq slab then s.enqueue g.seq slab else s
  | none => s

def execPassageEnqueue (slab : Nat) (s : State) : Host.Outcome State Fault Refusal := .next (passageEnqueue slab s)

/-! ## Zero shapes (R333 to R335) -/

/-- Bytes of one element of an identity entry. -/
def Ident.unit (e : Ident) : List Byte :=
  let neg : Nat := if e.kind = 1 then 1 else 0
  if e.kind = 4 then List.replicate 16 0
  else if e.kind = 0 || e.kind = 3 then List.replicate (if e.fmt = 0 then 4 else 2) 0
  else if e.fmt = 0 then toLe 4 (0x7F800000 + neg * 2 ^ 31) else toLe 2 (0x7F80 + neg * 2 ^ 15)

def Ident.bytes (e : Ident) : List Byte := (List.replicate e.count e.unit).flatten

/-- The region of an identity entry lies in its destination (R334). -/
def State.identFits (s : State) (p : Nat) (c : Ctx) (outs : List OutEntry) (e : Ident) : Bool :=
  let n := e.unit.length * e.count
  if e.dest = 0 then decide (e.addr + n ≤ c.shareBytes)
  else if e.dest = 1 then s.inFlatSize p (nth c.slabs e.slab) e.addr n
  else (outs[e.buf]?).any fun o => o.host != 0 && decide (e.addr + n ≤ o.len)

/-- Write one identity entry in the module; nothing where a frame is missing. -/
def State.writeIdent (s : State) (p : Nat) (c : Ctx) (e : Ident) : Option State :=
  let slab := nth c.slabs e.slab
  if e.dest = 0 then some (s.writeShare p c.num slab e.addr e.bytes)
  else if e.dest = 1 then
    (s.needFlatRange p slab e.addr e.bytes.length).map fun s =>
      (s.writeFlat p slab e.addr e.bytes).overwrite slab (inFlat p slab e.addr e.bytes.length)
  else some s

/-- Overlay bytes on a buffer. -/
def overlay (buf : List Byte) (a : Nat) (bs : List Byte) : List Byte := buf.take a ++ bs ++ buf.drop (a + bs.length)

/-- What a zero-shape run writes of its output buffers: the bytes of the identity entries and each buffer's epoch word,
nothing else (R333). Under a session a buffer is written whole (R461); the spec gives its other bytes no value: free ones
(log 11). -/
def State.identOuts (s : State) (f : Flight) (es : List Ident) (outs : List OutEntry) : List OutBuf :=
  (List.range outs.length).flatMap fun i =>
    let mine := es.filter fun e => e.dest == 2 && e.buf == i
    let o := nth outs i
    if mine = [] then []
    else if f.prot then
      [{ addr := o.host, len := o.len, index := 16 + i, epoch := true
         bytes := mine.foldl (fun b e => overlay b e.addr e.bytes) (freeBytes s.free o.len) }]
    else
      (mine.map fun e => { addr := o.host + e.addr, len := e.bytes.length, bytes := e.bytes, index := 16 + i, epoch := false : OutBuf })
        ++ [{ addr := o.host, len := o.len, bytes := [], index := 16 + i, epoch := true }]

/-- A zero-shape run: only its identity entries are written (R333). -/
def State.zeroRun (s : State) (f : Flight) (c : Ctx) (g : Program) (outs : List OutEntry) : State :=
  let es := g.idents.filter fun e => e.passage == f.arg 2 1
  if es.any fun e => !s.identFits f.fn c outs e then s.failCmd f .xfRange else
  match es.foldl (fun o e => o.bind fun s => s.writeIdent f.fn c e) (some s) with
  | none => s.failCmd f .quota
  | some s1 => (s1.setFree (s1.free + 1)).okCmd f 0 (s1.identOuts f es outs)

/-! ## RUN_PASSAGE -/

/-- Handles named by the REGION or MODEL arguments. -/
def Flight.handles (f : Flight) (off n : Nat) : List Nat := (List.range n).map fun i => f.arg (off + 4 * i) 4

/-- The last use of the copies that a run binds: hot ones, and those being loaded (R308). -/
def State.touch (s : State) (p seq : Nat) (l : List (Nat × Nat × Nat)) : State :=
  l.foldl (fun s x => s.modPlace p x.1 x.2.1 x.2.2 fun y =>
    if y.hot || !y.loading.isEmpty then { y with lastUse := seq } else y) s

/-- The run once every check has passed: its loads, its switch, its queues (R79, R307 to R309, R409). -/
def State.launch (s : State) (f : Flight) (c : Ctx) (g : Program) (b : Nat) (outs : List OutEntry) : State :=
  let models := f.handles 96 8
  let need := s.bound f.fn g.binds models c.slabs
  match s.startLoads f.fn f.seq need with
  | .error e => s.failCmd f e
  | .ok s1 =>
    let switched := if decide (c.st = .out && c.switching = .none) || decide (c.switching = .goingOut) then s1.switchFor f.fn f.seq c
      else some s1
    match switched with
    | none => s.failCmd f .quota
    | some s2 =>
      let r : RunInfo :=
        { ctx := c.num, passage := f.arg 2 1, bucket := b, w := (nth g.table (b * g.npass + f.arg 2 1)).w
          shape := (List.range 4).map fun j => if j < g.ndim then f.arg (4 + 4 * j) 4 else 0
          step := f.arg 20 4, seed := f.arg 24 8, regions := f.handles 32 16, models := models, outs := outs
          slabs := c.slabs, queued := [], ended := [], wrote := [] }
      let s3 := (s2.touch f.fn f.seq need).modFlight f.seq fun x => { x with phase := .busy, value := b, run := some r }
      c.slabs.foldl (fun s k => if s.canQueue f.seq k then s.enqueue f.seq k else s) s3

/-- Results that commands in flight of a partition are still to hold on the module: those of runs and of encodes (R387,
R434). -/
def State.heldDue (s : State) (p : Nat) : Nat :=
  sumNat ((s.flights.filter fun f => f.fn == p && decide (f.phase = .busy)).map fun f =>
    match f.run with
    | some r => (r.outs.filter fun o => o.host == 0).length
    | none => if f.cmd = .codecEncode && f.arg 8 8 = 0 then 1 else 0)

/-- The partition's held results would exceed 1,024 with `n` more (R387). -/
def State.heldFull (s : State) (p n : Nat) : Bool := decide (0 < n) && decide (1024 < (s.part p).held.length + s.heldDue p + n)

/-- RUN_PASSAGE (R331, R387, R389, R391). Its acceptance is a use of its context (R409). -/
def runPassage (s : State) (f : Flight) : State :=
  let s := s.modCtx f.fn (f.arg 0 2) fun x => { x with lastUse := f.seq }
  if 16 < f.arg 3 1 then s.failCmd f .argRange else
  match s.outEntries f with
  | (s, .error e) => s.failCmd f e
  | (s, .ok outs) =>
    match s.needCtx f.fn (f.arg 0 2) with
    | .error e => s.failCmd f e
    | .ok c =>
      let regions := (f.handles 32 16).filter fun h => h != 0
      let models := (f.handles 96 8).filter fun h => h != 0
      if regions.any (fun h => ((s.part f.fn).region? h).isNone) || models.any fun h => !s.holds f.fn h then
        s.failCmd f .handleBad
      else match c.prog with
      | none => s.failCmd f .noProgram
      | some g =>
        if outs.any fun o => c.slabs.length ≤ o.slab then s.failCmd f .argRange
        else if g.npass ≤ f.arg 2 1 then s.failCmd f .imageForm
        else match g.classify (f.handles 4 4) with
        | .over => s.failCmd f .shapeOver
        | .zero => s.zeroRun f c g outs
        | .bucket b =>
          if !c.groupsOk g then s.failCmd f .groupUnbound
          else if !s.windowsOk f.fn c g (f.handles 96 8) then s.failCmd f .modelWindow
          else if s.heldFull f.fn (outs.filter fun o => o.host == 0).length then s.failCmd f .heldFull
          else s.launch f c g b outs

/-! ## The end of a run (R392) -/

/-- A fault met while the Steward copies an output. -/
def copyFault (f : Flight) (slab unit : Nat) (code : St) (inj : Bool) : FaultInfo :=
  { code := code, slab := slab, unit := unit, id := 0, seq := f.seq, line := 0xFFFFFF, op := 0xFF
    detail0 := slab + 0xFFFFFF * 256, detail1 := 0xFFFFFFFF, arg := 0xFFFFFFFF, inj := inj }

/-- The source of an output entry. -/
def State.outSource (s : State) (p : Nat) (c : Ctx) (o : OutEntry) : List Byte :=
  let slab := nth c.slabs o.slab
  if o.space = 0 then Memory.read (s.share p c.num slab) o.ofs o.len else Memory.read (s.flat p slab) o.ofs o.len

/-- The check codes of an output's source: the fault it meets, if any. -/
def State.outEcc (s : State) (f : Flight) (c : Ctx) (seq : Nat) (o : OutEntry) : State × Option FaultInfo :=
  let slab := nth c.slabs o.slab
  if o.space = 0 then
    let (s1, r) := s.eccShare f.fn c.num seq slab [(o.ofs, o.len)]
    (s1, r.map fun i => copyFault f slab 0x8 .spadUncorr i)
  else
    let (s1, r) := s.readHbm slab f.fn (inFlat f.fn slab o.ofs o.len) (some (o.ofs, o.len))
    (s1, r.map fun i => copyFault f slab 0x9 .hbmUncorr i)

def State.outEccs (s : State) (f : Flight) (c : Ctx) : List OutEntry → State × Option FaultInfo
  | [] => (s, none)
  | o :: t =>
    match s.outEcc f c f.seq o with
    | (s1, some i) => (s1, some i)
    | (s1, none) => s1.outEccs f c t

/-- The source of an output lies inside the share or the partition's memory (R392). -/
def State.outFits (s : State) (p : Nat) (c : Ctx) (o : OutEntry) : Bool :=
  if o.space = 0 then decide (o.ofs + o.len ≤ c.shareBytes) else s.inFlatSize p (nth c.slabs o.slab) o.ofs o.len

/-- The results of a run whose passage has ended on every slab (R392): sources checked, held results kept, buffers to
write. -/
def State.finishRun (s : State) (f : Flight) (r : RunInfo) : State :=
  match s.ctx? f.fn r.ctx with
  | none => s.failCmd f .ctxUnknown
  | some c =>
    let idx := (List.range r.outs.length).map fun i => (i, nth r.outs i)
    let held := idx.filter fun x => x.2.host == 0
    let need : Nat → Nat := fun k => sumNat ((held.filter fun x => nth c.slabs x.2.slab == k).map fun x => ceilDiv x.2.len frameBytes)
    if r.outs.any fun o => !s.outFits f.fn c o then s.failCmd f .xfRange
    else if (List.range 8).any fun k => s.framesFree f.fn k < need k then s.failCmd f .quota
    else match s.outEccs f c r.outs with
    | (s1, some i) => s1.contextFault f.fn c.num i
    | (s1, none) =>
      let keep := held.map fun x =>
        { handle := f.seq * 16 + x.1, slab := nth c.slabs x.2.slab, bytes := s1.outSource f.fn c x.2 : Held }
      let bufs := (idx.filter fun x => x.2.host != 0).map fun x =>
        { addr := x.2.host, len := x.2.len, bytes := s1.outSource f.fn c x.2, index := 16 + x.1, epoch := true : OutBuf }
      (s1.modPart f.fn fun q => { q with held := q.held ++ keep }).okCmd f (r.bucket + listMask (held.map Prod.fst) * 256) bufs

/-! ## Held results (R387) -/

def Part.held? (p : Part) (h : Nat) : Option Held := p.held.find? fun x => x.handle == h

/-- Release a held result. -/
def State.release (s : State) (p h : Nat) : State :=
  s.modPart p fun q => { q with held := q.held.filter fun x => x.handle != h }

/-- A FETCH or RESULT_DROP that takes held result `x` once it starts. -/
def Flight.takes (f : Flight) (x : Held) : Bool :=
  f.arg 0 8 == x.handle && (decide (f.cmd = .resultDrop)
    || (decide (f.cmd = .fetch) && bufOk (f.arg 8 8) (f.arg 16 4) && decide (x.bytes.length ≤ f.arg 16 4)))

/-- A command in flight with a lower SEQ takes the result (R387). -/
def State.claimed (s : State) (f : Flight) (x : Held) : Bool :=
  s.flights.any fun g => g.fn == f.fn && decide (g.seq < f.seq) && decide (g.phase ≠ .done) && (s.meant g).any fun m => m.takes x

/-- Places of a held result. -/
def heldPlace (p h : Nat) (x : Place) : Bool := match x with | .held q g _ _ => q == p && g == h | _ => false

/-- FETCH (R387). A held result with a word that cannot be corrected is not given out (R289): the command fails with
ST_HBM_UNCORR, and the result stays (log 51). -/
def fetch (s : State) (f : Flight) : State :=
  let h := f.arg 0 8
  let a := f.arg 8 8
  let n := f.arg 16 4
  if !bufOk a n then s.failCmd f .argRange else
  match (s.part f.fn).held? h with
  | none => s.failCmd f .handleTaken
  | some x =>
    if s.claimed f x then s.failCmd f .handleTaken
    else if n < x.bytes.length then s.failCmd f .argRange
    else match s.readHbm x.slab f.fn (heldPlace f.fn h) none with
    | (s1, some _) => s1.failCmd f .hbmUncorr
    | (s1, none) =>
      ((s1.release f.fn h).okCmd f x.bytes.length
        [{ addr := a, len := n, bytes := x.bytes, index := 1, epoch := true }]).modFlight f.seq fun g => { g with waits := [x.slab] }

/-- RESULT_DROP (R387). -/
def resultDrop (s : State) (f : Flight) : State :=
  match (s.part f.fn).held? (f.arg 0 8) with
  | none => s.failCmd f .handleTaken
  | some x => if s.claimed f x then s.failCmd f .handleTaken else (s.release f.fn (f.arg 0 8)).okCmd f

end Sys2Proof.Machine
end

