-- ==== Sys2Proof/Machine/Fire.lean ====
section
/-! DEFINITION. Fire.lean: how an operation at the head of its unit's queue fires and ends: tokens, interlocks, the
handover of the register file, coupled pairs, flags and reports (R51, R66, R70 to R77, R106, R168 to R170, R193). -/

namespace Sys2Proof.Machine

/-! ## What an operation raises (R130, R193) -/

/-- FLAGS bits, elements that became NaN, and the position of the first: POS with POSK in bit 24 (R475). -/
structure Marks where
  flags : Nat
  births : Nat
  pos : Nat
  deriving DecidableEq, Repr, Inhabited

def Marks.none : Marks := { flags := 0, births := 0, pos := 0 }

/-- One element's flags at its position. -/
def markAt (pos fl : Nat) : Marks := { flags := fl, births := boolNat (bitOf fl 2 || bitOf fl 3 || bitOf fl 4), pos := pos }

def Marks.add (a b : Marks) : Marks :=
  { flags := a.flags ||| b.flags, births := a.births + b.births, pos := if a.births = 0 then b.pos else a.pos }

/-- The marks of a list of elements: position and flags of each. -/
def marksOf (l : List (Nat × Nat)) : Marks := l.foldl (fun m x => m.add (markAt x.1 x.2)) Marks.none

/-- POS of a tile register's element, by its index in the register file (R475). -/
def regPos (i : Nat) : Nat := i % 2 ^ 16

/-- POS of a share address (R475). -/
def sharePos (a : Nat) : Nat := a / 64 % 2 ^ 24 + 2 ^ 24

/-- The passage that an operation belongs to. -/
def State.live? (s : State) (slab seq : Nat) : Option Live := (s.slab slab).live.find? fun l => l.seq == seq

def State.modLive (s : State) (slab seq : Nat) (g : Live → Live) : State :=
  s.modSlab slab fun b => { b with live := modWhere b.live (fun l => l.seq == seq) g }

/-- Its passage was selected in diagnostic mode (R191). -/
def State.diagOf (s : State) (slab seq : Nat) : Bool := (s.live? slab seq).any fun l => l.diag

/-- OP of an operation (R57). -/
def OpE.op (o : OpE) : Nat := slotOp o.unit o.bits.toNat

/-- Record the flags that an operation raises (R130). -/
def State.raiseFlags (s : State) (o : OpE) (fl : Nat) : State :=
  if fl = 0 then s else s.modFlight o.seq fun f => { f with flags := f.flags ||| fl % 16 }

/-- In diagnostic mode, report the NaN that an operation made (R193). -/
def State.reportNan (s : State) (slab : Nat) (o : OpE) (unit : Nat) (m : Marks) (inj : Bool) : State :=
  if m.births = 0 || !s.diagOf slab o.seq then s else s.nanEvent slab o unit m.flags m.births m.pos inj

/-- What an operation that does its work at once has to tell: its flags, and its NaN (R130, R193). -/
def State.mark (s : State) (slab : Nat) (o : OpE) (unit : Nat) (m : Marks) (inj : Bool) : State :=
  (s.raiseFlags o m.flags).reportNan slab o unit m inj

/-- The first element of an operation's output as injection 0x0502 leaves it (R488). -/
def withNan (inj : Bool) (rs : List Res) : List Res :=
  if inj then (match rs with | r :: t => (nan32, r.2 ||| flNan) :: t | [] => []) else rs

/-- Injection 0x0502: the first element of this line's output becomes NaN. -/
def State.nanInjected (s : State) (o : OpE) : Bool × State :=
  match s.opportunity 0x0502 fun a => a.onCtx o.part o.ctx && fld a.param 23 0 == o.line with
  | (some _, s1) => (true, s1)
  | (none, s1) => (false, s1)

/-! ## Queues and tokens -/

def State.queue (s : State) (slab u : Nat) : List OpE := nth (s.slab slab).queues u

/-- Every operation queued or started on a slab. -/
def Slab.ops (b : Slab) : List OpE := b.queues.flatten ++ b.started

def OpE.waits (o : OpE) : List Nat := slotWaits o.unit o.bits.toNat

/-- Every token named has a count at least as large as the times it is named (R71). -/
def Live.hasTokens (l : Live) (ws : List Nat) : Bool := ws.all fun t => decide (ws.count t ≤ nth l.tokens t)

/-- Take the named tokens (R71). -/
def Live.takeTokens (l : Live) (ws : List Nat) : Live :=
  { l with tokens := l.tokens.zipIdx.map fun x => x.1 - ws.count x.2 }

/-! ## Interlocks -/

def OpE.sameCtx (a b : OpE) : Bool := a.part == b.part && a.ctx == b.ctx

/-- The list that an MM_LIST runs. -/
def Slab.listOf (b : Slab) (id : Nat) : Option ListRun := b.lists.find? fun l => l.id == id

/-- An MM_LIST has entries still to read (R544). -/
def Slab.listOpen (b : Slab) (p : OpE) : Bool :=
  p.unit == 0 && p.op == 2 && (match b.listOf p.id with | some l => decide (l.read < l.total) | none => true)

/-- The array operation writes accumulator slot s, as far as its list has been read. -/
def Slab.arrayWrites (b : Slab) (p : OpE) (s : Nat) : Bool :=
  p.unit == 0 && (if p.op = 2 then (b.listOf p.id).any fun l => l.slots.contains s else p.op != 0 && arrSlot p.bits.toNat == s)

/-- R106 for an accumulator operation on slot s: the array has ended every earlier write of it. -/
def Slab.accFree (b : Slab) (o : OpE) (s : Nat) : Bool :=
  !b.ops.any fun p => p.sameCtx o && decide (p.lineId ≤ o.lineId) && (b.arrayWrites p s || b.listOpen p)

/-- R106 for an array write of slot s: every earlier accumulator operation on it has ended. -/
def Slab.slotFree (b : Slab) (o : OpE) (s : Nat) : Bool :=
  !b.ops.any fun p => p.unit == 1 && p.op != 0 && p.sameCtx o && decide (p.lineId < o.lineId) && accSlot p.bits.toNat == s

def OpE.names (o : OpE) : Bool := namesRegs o.unit o.bits.toNat
def OpE.reads (o : OpE) : List (Nat × Nat) := slotReads o.unit o.bits.toNat
def OpE.writes (o : OpE) : List (Nat × Nat) := slotWrites o.unit o.bits.toNat

/-- R168 and R169: earlier passages have done with the register file, and earlier lines with the registers. -/
def Slab.regsFree (b : Slab) (o : OpE) : Bool :=
  !o.names || !b.ops.any fun p => p.names && decide (p.lineId < o.lineId) &&
    (p.seq != o.seq || rangesMeet p.writes (o.reads ++ o.writes) || rangesMeet p.reads o.writes)

/-- Reduction-kind collectives (R66): C_ALLRED_SUM to C_ALL2ALL. -/
def isReduction (op : Nat) : Bool := decide (1 ≤ op) && decide (op ≤ 6)

/-- A reduction-kind collective runs on the slab: from its meeting to its end (R66, R273). One with BYTES 0 acts as
C_BARRIER, which is of the synchronisation kind (R270). -/
def Slab.reducing (b : Slab) : Bool :=
  b.gqs.any fun g => g.entries.any fun e => e.met && isReduction e.op.op && (cdescOf e.desc.toNat).bytes != 0

/-- A transfer has descriptors still to run; `ext` counts those that have ended. -/
def OpE.xfOpen (o : OpE) : Bool :=
  o.unit == 4 && o.op != 0 && decide (o.ext.1 < if o.op = 1 then xfCount o.bits.toNat else 1)

/-- A pair that has fired comes first in its consumer's unit, and in the accumulator memory (R76, R106). -/
def Slab.pairFree (b : Slab) (o : OpE) : Bool :=
  !b.started.any fun p => p.fired && (p.unit == o.unit || o.unit == 1)

/-- The unit may start the operation now (R66, R76, R93, R106, R113, R168, R169). -/
def Slab.unitFree (b : Slab) (o : OpE) : Bool :=
  let x := o.bits.toNat
  b.pairFree o && match o.unit with
  | 0 => !b.reducing && b.lists.all (fun l => l.total ≤ l.read) && (o.op == 0 || o.op == 2 || b.slotFree o (arrSlot x))
  | 1 => o.op == 0 || b.accFree o (accSlot x)
  | 2 => !b.reducing && b.regsFree o
  | 3 => !b.reducing && b.regsFree o
  | 4 => b.started.all fun p => !p.xfOpen
  | 6 => b.regsFree o
  | _ => true

/-! ## Firing -/

/-- R71 for an operation with its waits. -/
def State.canFire (s : State) (slab : Nat) (o : OpE) (ws : List Nat) : Bool :=
  s.running && (s.live? slab o.seq).any (fun l => l.hasTokens ws) && (s.slab slab).unitFree o

/-- The passage takes the register file: every register reads +0 (R168). -/
def Slab.takeFile (b : Slab) (o : OpE) : Slab :=
  if o.names && b.owner != some o.seq then { b with owner := some o.seq, regs := [] } else b

/-- Move the head of a unit's queue among the started operations. An array operation starts with the array ramped up
(R94). -/
def Slab.begin (b : Slab) (o : OpE) : Slab :=
  { b.takeFile o with
    queues := modAt b.queues o.unit List.tail
    started := b.started ++ [o]
    ramp := if o.unit = 0 && o.op != 0 then 8 else b.ramp }

/-- Fire the head of a unit's queue (R71). -/
def State.fire (s : State) (slab : Nat) (o : OpE) : State :=
  (s.modSlab slab fun b => b.begin o).modLive slab o.seq fun l => l.takeTokens o.waits

/-- An operation row: the head of unit `u` has opcode `op` and can fire; `act` is what it does. -/
def fireRow (u op : Nat) (act : State → Nat → OpE → State) (slab : Nat) (s : State) : State :=
  match (s.queue slab u).head? with
  | none => s
  | some o => if o.op == op && !o.coupled && s.canFire slab o o.waits then act (s.fire slab o) slab o else s

/-- The partner of a coupled accumulator operation, at the head of its own queue (R76). -/
def State.partner? (s : State) (slab : Nat) (o : OpE) : Option OpE :=
  [0, 2].findSome? fun u => (s.queue slab u).head?.filter fun q => q.coupled && q.lineId == o.lineId

/-- ACC_DRAIN and ACC_GATE: the pair fires together, both operations leave their queues (R52, R76); the partner's own row
then moves the data. -/
def firePair (op : Nat) (slab : Nat) (s : State) : State :=
  match (s.queue slab 1).head? with
  | none => s
  | some o =>
    if o.op != op || !o.coupled then s else
    match s.partner? slab o with
    | none => s
    | some q =>
      let ws := o.waits ++ q.waits
      if s.canFire slab o ws && (s.slab slab).unitFree q then
        (s.modSlab slab fun b => (b.begin o).begin { q with fired := true }).modLive slab o.seq fun l => l.takeTokens ws
      else s

/-- The consumer of a unit whose pair has fired and whose data has not moved. -/
def State.joined? (s : State) (slab u op : Nat) : Option OpE :=
  (s.slab slab).started.find? fun o => o.unit == u && o.op == op && o.coupled && o.fired

/-- The data of a pair that has fired moves. -/
def State.join (s : State) (slab : Nat) (o : OpE) : State :=
  s.modSlab slab fun b => { b with started := modWhere b.started (fun p => p.id == o.id) fun p => { p with fired := false } }

/-- The row of a coupled consumer: its pair has fired. -/
def partnerRow (u op : Nat) (act : State → Nat → OpE → State) (slab : Nat) (s : State) : State :=
  match s.joined? slab u op with
  | none => s
  | some o => if s.running then act (s.join slab o) slab o else s

/-! ## Ends -/

/-- An operation may end: its pair's data has moved, its list is read, its collective is over. -/
def Slab.canEnd (b : Slab) (o : OpE) : Bool :=
  !(o.coupled && b.started.any fun q => q.lineId == o.lineId && q.fired)
    && !b.listOpen o && !o.xfOpen
    && !(o.unit == 5 && o.op != 0)

/-- Emit a token (R72, R73): a count above 15 faults the context. -/
def State.emitToken (s : State) (slab : Nat) (o : OpE) : State :=
  match slotEmit o.unit o.bits.toNat with
  | none => s
  | some t =>
    if (s.live? slab o.seq).any fun l => decide (15 ≤ nth l.tokens t) then
      s.contextFault o.part o.ctx (lineFault .tokenOver slab o o.unit)
    else s.modLive slab o.seq fun l => { l with tokens := modAt l.tokens t (· + 1) }

/-- Take a started operation away; what it wrote in the share is defined from now on, and a VB_COMPRESS writes the count
register (R170). -/
def State.retire (s : State) (slab : Nat) (o : OpE) : State :=
  let s1 := (s.modSlab slab fun b =>
    { b with started := b.started.filter (fun p => p.id != o.id), lists := b.lists.filter fun l => l.id != o.id }).modLive slab o.seq
      fun l => { l with wrote := l.wrote.filter fun w => !(w.op == o.id && w.kind == 4) }
  if o.unit = 3 && o.op == 0x10 then s1.modLive slab o.seq fun l => { l with count := o.ext.1 } else s1

/-- Change the record of a started operation. -/
def State.modStarted (s : State) (slab id : Nat) (g : OpE → OpE) : State :=
  s.modSlab slab fun b => { b with started := modWhere b.started (fun o => o.id == id) g }

/-- A context fault of an operation, reported by its unit. -/
def State.opFault (s : State) (slab : Nat) (o : OpE) (code : St) (d1 : Nat := 0xFFFFFFFF) (inj : Bool := false) : State :=
  s.contextFault o.part o.ctx (lineFault code slab o o.unit d1 inj)

/-- Go on when the share regions that an operation reads can be corrected (R290). -/
def State.withShare (s : State) (slab : Nat) (o : OpE) (areas : List (Nat × Nat)) (k : State → State) : State :=
  match s.eccShare o.part o.ctx o.seq slab areas with
  | (s1, some inj) => s1.contextFault o.part o.ctx (lineFault .spadUncorr slab o o.unit 0xFFFFFFFF inj)
  | (s1, none) => k s1

/-- First physical slot of a context on a slab (R102). -/
def State.slotBase (s : State) (p c slab : Nat) : Nat :=
  (((s.ctx? p c).bind fun x => x.onSlab? slab).map CtxSlab.base).getD 0

/-- Note bytes that an operation has written, newest first (R75, R82). -/
def State.noteWrite (s : State) (slab : Nat) (o : OpE) (kind key addr len : Nat) : State :=
  s.modLive slab o.seq fun l => { l with wrote := { op := o.id, kind := kind, key := key, addr := addr, len := len } :: l.wrote }

/-- An operation writes its context's share on its own slab. -/
def State.opWrite (s : State) (slab : Nat) (o : OpE) (a : Nat) (bs : List Byte) : State :=
  (s.writeShare o.part o.ctx slab a bs).noteWrite slab o 4 slab a bs.length

/-- Go on when the values [a, a + n) of the accumulator slot that an operation reads can be corrected (R108). -/
def State.withAcc (s : State) (slab : Nat) (o : OpE) (slot a n : Nat) (k : State → State) : State :=
  match s.readAcc slab o.part o.ctx slot (s.slotBase o.part o.ctx slab + slot) a n with
  | (s1, some inj) => s1.contextFault o.part o.ctx (lineFault .accUncorr slab o o.unit 0xFFFFFFFF inj)
  | (s1, none) => k s1

/-- Bytes of the share as an operation reads them. -/
def State.opBytes (s : State) (slab : Nat) (o : OpE) (a n : Nat) : List Byte := s.readShare o.part o.ctx o.seq slab a n

/-- Service mode of the operation's passage (R191). -/
def State.serviceOf (s : State) (slab : Nat) (o : OpE) : Bool := !s.diagOf slab o.seq

/-- The program of an operation's context. -/
def State.progOf (s : State) (o : OpE) : Option Program := (s.ctx? o.part o.ctx).bind Ctx.prog

/-! ## The register file (R166, R167) -/

/-- Index in the file of element (i, c) of a band at register g, by R167's band view. -/
def bandIdx (g i c : Nat) : Nat := (g + c / 32) * 1024 + i * 32 + c % 32

def Slab.reg (b : Slab) (k : Nat) : Word := Memory.get b.regs k

/-- The registers g to g + n - 1 take these values, register by register and row by row. -/
def State.putRegs (s : State) (slab g : Nat) (vs : List Word) : State :=
  s.modSlab slab fun b => { b with regs := Memory.write b.regs (g * 1024) vs }

/-- The elements of n registers in the order e = 1024 t + 32 i + j, as (t, i, j). -/
def bandElems (n : Nat) : List (Nat × Nat × Nat) :=
  (List.range (1024 * n)).map fun e => (e / 1024, e / 32 % 32, e % 32)

/-- Write a band result with its flags, under injection 0x0502; the report names the register and element. -/
def State.putBand (s : State) (slab : Nat) (o : OpE) (g : Nat) (rs : List Res) : State :=
  let (inj, s1) := s.nanInjected o
  let rs := withNan inj rs
  (s1.putRegs slab g (rs.map Prod.fst)).mark slab o o.unit (marksOf (rs.zipIdx.map fun x => (regPos (g * 1024 + x.2), x.1.2))) inj

end Sys2Proof.Machine
end

