-- ==== Sys2Proof/Machine/Touch.lean ====
section
/-! DEFINITION. Touch.lean: the share regions that the operations of a line read and write, as the issue checks of R145
and R174 compute them. -/

namespace Sys2Proof.Machine

/-- A region of the share: what it holds, its first byte, its bytes. Regions of the same `tag` are one in-place use:
1 the output, 2 the statistic records, 3 the running output; 0 anything else (R145). -/
structure Area where
  tag : Nat
  lo : Nat
  len : Nat
  deriving DecidableEq, Repr, Inhabited

/-- What one slot touches, and whether it is a fused operation of R145. -/
structure Touch where
  unit : Nat
  fused : Bool
  reads : List Area
  writes : List Area
  deriving DecidableEq, Repr, Inhabited

/-- Bytes of an element of a vector in VFMT (R141). -/
def vfmtBytes (v : Nat) : Nat := if v = 0 then 4 else 2

/-- Bytes of an element in SFMT (R141). -/
def sfmtBytes (v : Nat) : Nat := if v = 0 then 4 else 2

/-- A vector of a descriptor: `n` elements from index `i` (R143). -/
def vecArea (on : Bool) (addr vfmt i n : Nat) : List Area :=
  if on then [{ tag := 0, lo := addr * 64 + i * vfmtBytes vfmt, len := n * vfmtBytes vfmt }] else []

/-- The statistic records of `rows` rows (R144). -/
def statArea (addr rows : Nat) : Area := { tag := 2, lo := addr * 64, len := 16 * rows }

/-- Bytes between the rows of an output tile of N columns (R150). -/
def outPitch (x n : Nat) : Nat := if mStride x = 0 then n * fmtBytes (mFmt x) else mStride x * 64

/-- The output of a V_EPI or V_OSM over `rows` rows of `n` columns (R150). -/
def outAreas (x n rows : Nat) : List Area :=
  if isBlock (mFmt x) then [{ tag := 1, lo := mAddr x * 64, len := scaledBytes (mAddr x * 64) (rows * n) (rows * (n / 32)) }]
  else if mStride x = 0 then [{ tag := 1, lo := mAddr x * 64, len := rows * n * fmtBytes (mFmt x) }]
  else (List.range rows).map fun r => { tag := 1, lo := mAddr x * 64 + r * outPitch x n, len := n * fmtBytes (mFmt x) }

/-- What V_EPI touches on a tile of `n` columns and `rows` rows (R149, R155, R159). -/
def epiTouch (x n rows : Nat) (d : Option Fuse) : Touch :=
  let out := outAreas x n rows
  match d with
  | none => { unit := 2, fused := true, reads := [], writes := out }
  | some f =>
    let j := mCnt x * n
    let bias := vecArea f.biasEn f.bias f.vfmt j n
    if f.kind = 3 then
      { unit := 2, fused := true, reads := statArea f.stat rows :: bias, writes := [statArea f.stat rows] }
    else
      let norm := if f.kind = 4 then
          statArea f.stat rows :: vecArea f.gammaEn f.gamma f.vfmt j n ++ vecArea f.betaEn f.beta f.vfmt j n
        else []
      { unit := 2, fused := true
        reads := bias ++ vecArea f.scaleEn f.scale f.vfmt j n ++ norm ++ (if f.resEn then out else [])
        writes := out }

/-- What V_OSM touches (R160, R161). -/
def osmTouch (x n rows : Nat) (f : Fuse) : Touch :=
  let out := outAreas x n rows
  if f.kind = 6 then
    { unit := 2, fused := true, reads := [statArea f.stat rows], writes := statArea f.stat rows :: out }
  else
    let o : Area := { tag := 3, lo := f.oacc * 64, len := rows * n * 4 }
    { unit := 2, fused := true, reads := [statArea f.stat rows, o], writes := o :: (if f.final then out else []) }

/-- What a prologue touches beside its source (R146). -/
def proAreas (f : Fuse) (m k : Nat) : List Area :=
  if f.norm = 0 then [] else
  statArea f.stat m :: vecArea f.gammaEn f.gamma f.vfmt 0 k ++ vecArea f.betaEn f.beta f.vfmt 0 k

/-- The streamed operand in the share of an MM at `a`, in 512-byte units (R121, R146). -/
def streamArea (x a : Nat) (d : Option Fuse) : Area :=
  let k := shapeK (arrShape x)
  match d with
  | none => { tag := 0, lo := a * 512, len := streamBytes (arrAfmt x) (arrM x) k }
  | some f => { tag := 0, lo := a * 512, len := arrM x * k * sfmtBytes f.sfmt }

/-- The weight tile at `w` with WFMT 0 to 5 (R121). -/
def weightArea (x w : Nat) : List Area :=
  if arrWfmt x = 7 then [] else
  [{ tag := 0, lo := w * 512, len := weightBytes (arrWfmt x) (shapeK (arrShape x)) (shapeN (arrShape x)) }]

/-- The physical queue of a logical group of a context on a slab (R261). -/
def State.groupQueue? (s : State) (p c lidx slab : Nat) : Option (Group × Nat) :=
  match (s.ctx? p c).bind fun x => x.groups.find? fun g => g.lidx == lidx with
  | none => none
  | some g => if g.members.contains slab then some (g, nth g.queues (g.members.idxOf slab)) else none

/-- The C_GATHER_ARRIVE in progress on a queue. -/
def State.gatherAt? (s : State) (slab q : Nat) : Option Gather := (nth (s.slab slab).gqs q).gather

/-- Ring chunk of unit k: q chunks each, C in the ring (R277). -/
def Group.unitAddr (g : Group) (q k : Nat) : Nat := g.ring + q * (k % (g.chunks / q)) * 2 ^ 18

/-- The source of an MM_ARRIVE with a prologue: the ring chunks of its unit (R145, R146, R277). How many chunks a unit takes
is in the descriptor of the C_GATHER_ARRIVE that feeds it: DEDUCED, log 52, the last of its group to issue on the slab. -/
def State.ringSource (s : State) (p c seq slab x : Nat) (d : Option Fuse) : List Area :=
  match d, s.groupQueue? p c (arrGroup x) slab with
  | some f, some (g, q) =>
    let mine : List OpE := (((s.queue slab 5).filter fun o =>
        o.part == p && o.ctx == c && o.op == 8 && colGroup o.bits.toNat == arrGroup x).reverse
      ++ ((nth (s.slab slab).gqs q).entries.reverse.map CollE.op).filter fun o => o.op == 8)
    let chunks : Option Nat := match mine.head? with
      | some o => some ((cdescOf (leNat (s.readShare p c seq slab (colDesc o.bits.toNat * 2048) 64))).unitq + 1)
      | none => (s.gatherAt? slab q).map Gather.chunks
    (chunks.map fun n =>
      { tag := 0, lo := g.unitAddr n (arrChunk x), len := arrM x * shapeK (arrShape x) * sfmtBytes f.sfmt : Area }).toList
  | _, _ => []

/-- What an array operation touches, as far as R145 and R174 check it: the fused part, then the plain part. `ring` is the
source of an MM_ARRIVE. DESIGN CHOICE, log 52: a slot of which both parts fail reports ST_FUSE_RANGE; the spec orders only
between slots. -/
def arrayTouch (x : Nat) (d : Option Fuse) (ring : List Area) : List Touch :=
  let k := shapeK (arrShape x)
  let op := slotOp 0 x
  let plain : List Area → Touch := fun l => { unit := 0, fused := false, reads := l, writes := [] }
  let fused : List Area → Touch := fun l => { unit := 0, fused := true, reads := l, writes := [] }
  match op with
  | 1 =>
    (match d with
      | some f => [fused (streamArea x (arrA x) d :: proAreas f (arrM x) k), plain (weightArea x (arrW x))]
      | none => [plain (streamArea x (arrA x) none :: weightArea x (arrW x))])
  | 3 =>
    (match d with
      | some f => [fused (vecArea f.biasEn f.bias f.vfmt 0 k ++ vecArea f.scaleEn f.scale f.vfmt 0 k)]
      | none => []) ++ [plain (weightArea x (arrW x))]
  | 4 =>
    (match d with
      | some f => [fused (ring ++ proAreas f (arrM x) k)]
      | none => []) ++ [plain (weightArea x (arrW x))]
  | _ => []

/-- Bytes between the rows of a V_LD or V_ST band of n registers (R171). -/
def bandPitch (x : Nat) : Nat :=
  if mStride x = 0 then 32 * (mCnt x + 1) * fmtBytes (mFmt x) else mStride x * 64

/-- The band of V_LD and V_ST (R171, R173). -/
def bandAreas (x : Nat) : List Area :=
  let n := mCnt x + 1
  if isBlock (mFmt x) then [{ tag := 0, lo := mAddr x * 64, len := scaledBytes (mAddr x * 64) (1024 * n) (32 * n) }]
  else if mStride x = 0 then [{ tag := 0, lo := mAddr x * 64, len := 1024 * n * fmtBytes (mFmt x) }]
  else (List.range 32).map fun i =>
    { tag := 0, lo := mAddr x * 64 + i * bandPitch x, len := 32 * n * fmtBytes (mFmt x) }

/-- Boxes of a VB_CROP (R229). -/
def cropBoxes (x : Nat) : Nat := mCnt x + 1

/-- What a slot touches; `ext` is E's extent at issue, `d` the fusion descriptor that it names, `ring` an MM_ARRIVE's source. -/
def slotTouch (u x : Nat) (ext : Nat × Nat) (d : Option Fuse) (ring : List Area) : List Touch :=
  let op := slotOp u x
  let plain : List Area → List Area → List Touch := fun r w => [{ unit := u, fused := false, reads := r, writes := w }]
  if op = 0 then [] else
  if u = 0 then arrayTouch x d ring
  else if isVector u then
    if op = 0x40 then plain (bandAreas x) []
    else if op = 0x41 then plain [] (bandAreas x)
    else if u = 2 && op == 0x20 then [epiTouch x ext.1 ext.2 d]
    else if u = 2 && op == 0x21 then (match d with | some f => [osmTouch x ext.1 ext.2 f] | none => [])
    else if u = 3 && op == 0x30 then plain [{ tag := 0, lo := mAddr x * 64, len := 64 * cropBoxes x }] []
    else []
  else if u = 4 then plain [{ tag := 0, lo := xfAddr x * 64, len := 64 * xfCount x }] []
  else if u = 5 then plain [{ tag := 0, lo := colDesc x * 2048, len := 64 }] []
  else []

/-- The code of a region outside the share (R145, R174). -/
def Touch.code (t : Touch) : St :=
  if t.fused then .fuseRange else if t.unit = 4 then .xfRange else if t.unit = 5 then .collDesc else .vecRange

/-- A written and a read area share a byte and are not one in-place use of one operation. -/
def Area.clash (w r : Area) (same : Bool) : Bool :=
  !(same && w.tag != 0 && w.tag == r.tag) && overlaps w.lo w.len r.lo r.len

/-- A region of the slot reaches outside what the passage may read or write. -/
def State.outside (s : State) (p c seq slab : Nat) (t : Touch) : Bool :=
  (t.reads.any fun a => !s.readable p c seq slab a.lo a.len) || t.writes.any fun a => !s.writable p c slab a.lo a.len

/-- The first slot of a line whose regions fail, with its code (R145, R174). The overlap of what fused operations write
with what they read counts at the slot that writes. -/
def State.touchFails (s : State) (p c seq slab : Nat) (ts : List Touch) : Option (Nat × St) :=
  let fusedReads := (ts.filter fun t => t.fused).flatMap fun t => t.reads.map fun r => (t.unit, r)
  ts.findSome? fun t =>
    if s.outside p c seq slab t then some (t.unit, t.code)
    else if t.fused && t.writes.any fun w => fusedReads.any fun r => w.clash r.2 (r.1 == t.unit) then some (t.unit, .fuseRange)
    else none

end Sys2Proof.Machine
end

