-- ==== Sys2Proof/Machine/Sequencer.lean ====
section
/-! DEFINITION. Sequencer.lean: selection of passages, issue of lines, the control unit, and the ends of operations and
passages (R52, R60, R68 to R83, R104 to R109, R156, R157, R174, R332, R544, R545). -/

namespace Sys2Proof.Machine

/-! ## Selection (R79, R80) -/

/-- The shape record of a passage (R332). -/
def shapeRecord (r : RunInfo) : List Byte :=
  (r.shape.map (toLe 4)).flatten ++ toLe 1 r.bucket ++ List.replicate 47 0

/-- A passage as it stands when it is selected (R70, R170, R191, R243). -/
def Live.fresh (f : Flight) (r : RunInfo) (img first : Nat) (diag : Bool) : Live :=
  { seq := f.seq, part := f.fn, ctx := r.ctx, img := img, first := first, pc := 0, loops := [], looprWait := 0
    looprCount := none, allIssued := false, tokens := List.replicate 64 0, count := 0, cursors := List.replicate 16 0
    diag := diag, wrote := [] }

/-- The passage at the head of a slab's queue may be selected: its context is in and hot, its earlier passage has ended,
and every line of the passage before has issued (R80, R307, R410). -/
def State.selectable (s : State) (slab : Nat) (f : Flight) (r : RunInfo) (c : Ctx) (g : Program) : Bool :=
  decide (c.st = .resident) && decide (c.switching = .none) && s.allHot f.fn (s.bound f.fn g.binds r.models [slab])
    && (s.slab slab).live.all fun l => l.allIssued && !(l.part == f.fn && l.ctx == c.num)

/-- Injection 0x0501 raises its flags in the next passage: at its selection on the first slab. -/
def State.flagsInjected (s : State) (f : Flight) (ctx img : Nat) : State :=
  if img ≠ 0 then s else
  match s.opportunity 0x0501 fun a => a.onCtx f.fn ctx with
  | (some a, s1) => s1.modFlight f.seq fun g => { g with flags := g.flags ||| fld a.param 3 0 }
  | (none, s1) => s1

/-- PASSAGE_SELECT (R80, R332). -/
def passageSelect (slab : Nat) (s : State) : State :=
  match (s.slab slab).passq with
  | [] => s
  | seq :: rest =>
    match s.flight? seq with
    | none => s
    | some f =>
      match f.run with
      | none => s
      | some r =>
        match s.ctx? f.fn r.ctx with
        | none => s
        | some c =>
          match c.prog with
          | none => s
          | some g =>
            if !(s.running && s.selectable slab f r c g) then s else
            let img := c.slabs.idxOf slab
            let first := nth (nth g.table (r.bucket * g.npass + r.passage)).lines img
            let l := Live.fresh f r img first (!s.hub.service)
            let s1 := s.modSlab slab fun b => { b with passq := rest, live := b.live ++ [l] }
            let s2 := match g.region? 3 img with
              | some (a, _) => s1.writeShare f.fn c.num slab a (shapeRecord r)
              | none => s1
            s2.flagsInjected f c.num img

/-! ## Issue checks -/

/-- What an array write of the line does: slot, ACC, columns, rows up to r0 + M, chunks. -/
structure ArrWrite where
  slot : Nat
  acc : Bool
  cols : Nat
  rows : Nat
  chunks : Nat
  deriving DecidableEq, Repr, Inhabited

/-- The array write of an MM, MM_CHAIN or MM_ARRIVE (R97, R104, R109). -/
def arrWriteOf (x : Nat) : ArrWrite :=
  { slot := arrSlot x, acc := arrAcc x, cols := shapeN (arrShape x), rows := arrM x, chunks := shapeChunks (arrShape x) }

/-- R104: the write does not go with the slot's extent. -/
def AccSlot.misfit (a : AccSlot) (w : ArrWrite) : Bool :=
  w.acc && (match a.ext with | none => true | some (n, m) => n != w.cols || decide (m < w.rows))

/-- The extent and chunk-update count that a write leaves (R104, R109). -/
def AccSlot.after (a : AccSlot) (w : ArrWrite) : AccSlot :=
  { a with
    ext := if w.acc then a.ext else some (w.cols, w.rows)
    count := (if w.acc then a.count else 0) + w.chunks }

/-- A line as it is about to issue: its slots, and those of its units that issue. -/
structure Issue where
  line : Line
  units : List Nat
  deriving DecidableEq, Repr, Inhabited

/-- The slot of a unit that issues with an opcode other than NOP. -/
def Issue.slot? (i : Issue) (u : Nat) : Option Nat :=
  if i.units.contains u && slotOp u (lineSlot i.line u) != 0 then some (lineSlot i.line u) else none

/-- The array write that is known at issue: an MM_LIST's entries are not (R544). -/
def Issue.write? (i : Issue) : Option ArrWrite :=
  (i.slot? 0).bind fun x => if slotOp 0 x = 2 then none else some (arrWriteOf x)

/-- The context's slots after the array write of the line (R105). -/
def Issue.written (i : Issue) (slots : List AccSlot) : List AccSlot :=
  match i.write? with
  | some w => modAt slots w.slot fun a => a.after w
  | none => slots

/-- R105, first check. -/
def Issue.rangeFails (i : Issue) (grant : Nat) : Option Nat :=
  if (i.slot? 0).any fun x => grant ≤ arrSlot x then some 0
  else if (i.slot? 1).any fun x => grant ≤ accSlot x then some 1
  else none

/-- R104 and R152. -/
def Issue.extentFails (i : Issue) (slots : List AccSlot) : Option Nat :=
  let after := i.written slots
  let a : Nat → AccSlot := fun x => nth after (accSlot x)
  if i.write?.any fun w => (nth slots w.slot).misfit w then some 0
  else match i.slot? 0, i.slot? 1 with
  | some x, some y =>
    if (slotOp 1 y = 4 || slotOp 1 y = 5) && (a y).ext.isNone then some 1
    else if slotOp 0 x = 3 && (a y).ext != some (shapeK (arrShape x), arrM x) then some 0
    else none
  | _, some y => if (slotOp 1 y = 4 || slotOp 1 y = 5) && (a y).ext.isNone then some 1 else none
  | _, _ => none

/-- R109. -/
def Issue.spillFails (i : Issue) (slots : List AccSlot) : Option Nat :=
  if i.write?.any fun w => 256 < (nth (i.written slots) w.slot).count then some 0 else none

/-- The fusion descriptor that a slot names. -/
def fuseAt (g : Program) (u x : Nat) : Option Fuse :=
  let k := if u = 0 then arrFuse x else mReg x
  if k = 0 then none else (g.fusion[k - 1]?).map fun d => fuseOf d.toNat

/-- The descriptor of the V_EPI coupled on the line. -/
def Issue.epi? (i : Issue) (g : Program) : Option Fuse :=
  (i.slot? 2).bind fun x => if slotOp 2 x = 0x20 then fuseAt g 2 x else none

/-- The row-gate checks of R156: ST_ACC_ROW_OVER before ST_GATE_ORDER. -/
def Issue.gateFails (i : Issue) (g : Program) (slots : List AccSlot) (grant : Nat) : Option (Nat × St) :=
  let gated : Nat → Bool := fun k => (nth slots k).gated
  let accOp := (i.slot? 1).map fun y => (slotOp 1 y, accSlot y)
  let stat := (i.epi? g).filter fun f => f.kind == 3
  if i.write?.any fun w => gated w.slot then some (0, .accRowOver)
  else match accOp with
  | none => none
  | some (op, k) =>
    if gated k && (op == 1 || op == 2 || op == 3) then some (1, .accRowOver)
    else if op = 4 && stat.any fun f => grant < f.gcnt + 1 then some (1, .accRowOver)
    else if (gated k && op == 4) || (!gated k && op == 5) then some (1, .gateOrder)
    else none

/-- The slots as the line leaves them: the array write, counts, gated marks (R104, R109, R156). DESIGN CHOICE, log 48: where
the line holds an MM_LIST beside an accumulator operation on a slot that the list writes, the operation's effect on the
count and its E are taken at issue, before the entries are read; R544 speaks of later lines only. -/
def Issue.effect (i : Issue) (g : Program) (slots : List AccSlot) : List AccSlot :=
  let s1 := i.written slots
  match (i.slot? 1).map fun y => (slotOp 1 y, accSlot y) with
  | none => s1
  | some (op, k) =>
    modAt s1 k fun a =>
      { a with
        count := if op = 1 || op = 2 || op = 3 then 0 else a.count
        gated := if op = 5 then false else a.gated || (op == 4 && (i.epi? g).any fun f => f.kind == 3) }

/-- E of the line's drain and of its consumer: the extent after the array write (R104). -/
def Issue.extent (i : Issue) (slots : List AccSlot) : Nat × Nat :=
  match i.slot? 1 with
  | some y => ((nth (i.written slots) (accSlot y)).ext).getD (0, 0)
  | none => (0, 0)

/-- The group that an MM_ARRIVE or a collective of the line names has a member on this slab (R263). -/
def Issue.groupFails (i : Issue) (c : Ctx) (slab : Nat) : Option Nat :=
  let in' : Nat → Bool := fun k => c.groups.any fun g => g.lidx == k && g.members.contains slab
  if (i.slot? 0).any fun x => slotOp 0 x == 4 && !in' (arrGroup x) then some 0
  else if (i.slot? 5).any fun x => !in' (colGroup x) then some 5
  else none

/-- Everything that the slots of the line touch, in line order. -/
def Issue.touches (i : Issue) (g : Program) (ext : Nat × Nat) (ring : List Area) : List Touch :=
  i.units.flatMap fun u =>
    slotTouch u (lineSlot i.line u) ext (if u = 0 || u = 2 then fuseAt g u (lineSlot i.line u) else none) ring

/-- The source of an MM_ARRIVE on the line. -/
def State.issueRing (s : State) (p c seq slab : Nat) (g : Program) (i : Issue) : List Area :=
  match i.slot? 0 with
  | some x => if slotOp 0 x = 4 then s.ringSource p c seq slab x (fuseAt g 0 x) else []
  | none => []

/-- The first issue check that the line fails, in the order of R105, R156, R145 and R174, with the unit of its slot.
DESIGN CHOICE, log 52: the check of R263 comes after the row-gate checks and before those of regions; the spec places it
nowhere among them. -/
def State.issueFails (s : State) (p : Nat) (c : Ctx) (g : Program) (seq slab : Nat) (i : Issue) (slots : List AccSlot) :
    Option (Nat × St) :=
  match i.rangeFails c.slots with
  | some u => some (u, .accRange)
  | none =>
    match i.extentFails slots with
    | some u => some (u, .accExtent)
    | none =>
      match i.spillFails slots with
      | some u => some (u, .spillDue)
      | none =>
        match i.gateFails g slots c.slots with
        | some e => some e
        | none =>
          match i.groupFails c slab with
          | some u => some (u, .groupUnbound)
          | none => s.touchFails p c.num seq slab (i.touches g (i.extent slots) (s.issueRing p c.num seq slab g i))

/-! ## Issue -/

/-- The operation that a slot of the line becomes; a transfer starts with no descriptor run. -/
def opOf (l : Live) (ln : Line) (u id lineId : Nat) (ext : Nat × Nat) : OpE :=
  { id := id, lineId := lineId, unit := u, part := l.part, ctx := l.ctx, seq := l.seq, line := l.pc
    bits := BitVec.ofNat 96 (lineSlot ln u)
    coupled := (match partnerUnit ln with | some q => u == 1 || u == q | none => false)
    fired := false, ext := if u = 4 then (0, 0) else ext }

/-- Place operations in their queues (R52). -/
def Slab.enqueueOps (b : Slab) (os : List OpE) : Slab :=
  os.foldl (fun b o => { b with queues := modAt b.queues o.unit fun q => q ++ [o] }) b

/-- Where issue goes after a line: loops and ENDLOOP (R67, R545). -/
def Live.advance (l : Live) (ln : Line) (left : Option Nat) : Live :=
  let next : Live → Live := fun l => if lineLast ln then { l with allIssued := true } else { l with pc := l.pc + 1 }
  let l1 := match left with
    | some n => { l with loops := { line := l.pc, left := n } :: l.loops, looprCount := none }
    | none => l
  if lineOp ln 7 = some 2 then
    match l1.loops with
    | f :: t => if f.left = 0 then next { l1 with loops := t } else { l1 with loops := { f with left := f.left - 1 } :: t, pc := f.line }
    | [] => next l1
  else next l1

/-- A step of issue: the units of the line that issue, and the passage after it. -/
inductive Plan where
  /-- the LOOPR slot alone (R545) -/
  | loopr
  /-- a body that is not run at all -/
  | skip
  /-- the slots of these units; a loop opens with this many passes left -/
  | slots (units : List Nat) (left : Option Nat)
  deriving DecidableEq, Repr

/-- What issues of a line (R545). -/
def Live.plan (l : Live) (ln : Line) : Plan :=
  let valid := (List.range 8).filter (lineValid ln)
  let again := l.loops.head?.any fun f => f.line == l.pc
  match lineOp ln 7 with
  | some 1 => if again then .slots (valid.filter fun u => u != 7) none else .slots valid (some (ctlArg (lineSlot ln 7)))
  | some 3 =>
    if again then .slots (valid.filter fun u => u != 7) none
    else match l.looprCount with
    | none => .loopr
    | some 0 => .skip
    | some (n + 1) => .slots (valid.filter fun u => u != 7) (some n)
  | _ => .slots valid none

/-- Lines of a loop's body up to its ENDLOOP: how many follow `depth` open loops, and whether the last is LAST. -/
def bodyEnd : List Line → Nat → Nat × Bool
  | [], _ => (0, true)
  | ln :: t, depth =>
    let d := match lineOp ln 7 with
      | some 1 => depth + 1
      | some 3 => depth + 1
      | some 2 => depth - 1
      | _ => depth
    if d = 0 then (1, lineLast ln) else
    let r := bodyEnd t d
    (r.1 + 1, r.2)

/-- The address in the share of a line of the passage. -/
def Live.lineAddr (l : Live) (g : Program) : Nat :=
  ((g.region? 0 l.img).map Prod.fst).getD 0 + 64 * (l.first + l.pc)

/-- The lines of the text from the present one on. -/
def State.textFrom (s : State) (l : Live) (g : Program) (slab : Nat) : List Line :=
  match g.region? 0 l.img with
  | none => []
  | some (a, n) =>
    let k := l.first + l.pc
    (List.range (n / 64 - k)).map fun i => leNat (Memory.read (s.share l.part l.ctx slab) (a + 64 * (k + i)) 64)

/-- The line issues: its operations enter their queues and its slots' record is brought up to date (R52, R60). -/
def State.issue (s : State) (slab : Nat) (l : Live) (c : Ctx) (g : Program) (ln : Line) (us : List Nat) (left : Option Nat) : State :=
  let b := s.slab slab
  let i : Issue := { line := ln, units := us }
  let slots := ((c.onSlab? slab).map CtxSlab.slots).getD []
  let held := us.any (fun u => u < 2 && slotOp u (lineSlot ln u) != 0) && b.ops.any fun p => p.part == l.part && p.ctx == l.ctx && b.listOpen p
  if us.any (fun u => 16 ≤ (nth b.queues u).length) || held then s else
  match s.issueFails l.part c g l.seq slab i slots with
  | some (u, code) => s.contextFault l.part l.ctx (lineFault code slab (opOf l ln u 0 0 (0, 0)) 0x7)
  | none =>
    let os := us.zipIdx.map fun x => opOf l ln x.1 (b.nextId + x.2) b.nextId (i.extent slots)
    let s1 := (s.modSlab slab fun b => { b.enqueueOps os with nextId := b.nextId + us.length + 1 }).modCtx l.part l.ctx fun c =>
      c.modSlab slab fun d => { d with slots := i.effect g d.slots }
    s1.modLive slab l.seq fun l => l.advance ln left

/-- LINE_ISSUE (R52, R544, R545). A word of the text that cannot be corrected faults the context (R290). -/
def lineIssue (slab : Nat) (s : State) : State :=
  match (s.slab slab).live.find? fun l => !l.allIssued with
  | none => s
  | some l =>
    if !s.running || l.looprWait != 0 then s else
    match s.ctx? l.part l.ctx with
    | none => s
    | some c =>
      match c.prog with
      | none => s
      | some g =>
        let a := l.lineAddr g
        let ln := leNat (Memory.read (s.share l.part l.ctx slab) a 64)
        match s.eccShare l.part l.ctx l.seq slab [(a, 64)] with
        | (s1, some inj) =>
          s1.contextFault l.part l.ctx (lineFault .spadUncorr slab (opOf l ln 7 0 0 (0, 0)) 0x7 0xFFFFFFFF inj)
        | (s1, none) =>
          match l.plan ln with
          | .slots us left => s1.issue slab l c g ln us left
          | .skip =>
            let (n, last) := bodyEnd (s1.textFrom l g slab) 0
            s1.modLive slab l.seq fun l =>
              { l with pc := l.pc + (if last then 0 else n), allIssued := last, looprCount := none }
          | .loopr =>
            if 16 ≤ (s1.queue slab 7).length then s1 else
            let k := (s1.slab slab).nextId
            (s1.modSlab slab fun b => { b.enqueueOps [opOf l ln 7 k k (0, 0)] with nextId := k + 1 }).modLive slab l.seq fun l =>
              { l with looprWait := k }

/-! ## The control unit (R67 to R69) -/

/-- NOP of any unit: it fires when its tokens are present (R55). -/
def nop (slab unit : Nat) (s : State) : State := fireRow unit 0 (fun s _ _ => s) slab s

/-- LOOP, ENDLOOP and TWAIT have no effect beyond their tokens. -/
def loopBegin (slab : Nat) (s : State) : State := fireRow 7 1 (fun s _ _ => s) slab s
def loopEnd (slab : Nat) (s : State) : State := fireRow 7 2 (fun s _ _ => s) slab s
def twait (slab : Nat) (s : State) : State := fireRow 7 4 (fun s _ _ => s) slab s

/-- LOOPR reads the count register as it fires (R69). -/
def looprAct (s : State) (slab : Nat) (o : OpE) : State :=
  let n := ((s.live? slab o.seq).map Live.count).getD 0
  if ctlArg o.bits.toNat < n then s.opFault slab o .loopOver
  else s.modLive slab o.seq fun l => { l with looprWait := 0, looprCount := some n }

def loopr (slab : Nat) (s : State) : State := fireRow 7 3 looprAct slab s

/-- FENCE: every earlier operation of the context on the slab has ended. -/
def fence (slab : Nat) (s : State) : State :=
  match (s.queue slab 7).head? with
  | none => s
  | some o =>
    if (s.slab slab).ops.any fun p => p.sameCtx o && decide (p.lineId < o.lineId) then s
    else fireRow 7 5 (fun s _ _ => s) slab s

/-! ## Ends -/

/-- What a passage has written, on every slab, is not defined after ST_TOKEN_LEFT (R75). -/
def State.spoil (s : State) (l : Live) : State :=
  let here := s.slabs.flatMap fun b => (b.live.filter fun x => x.seq == l.seq).flatMap Live.wrote
  let ended := (((s.flight? l.seq).bind Flight.run).map RunInfo.wrote).getD []
  (here ++ ended).foldl (fun s w => s.blur l.part l.ctx w) s

/-- A fault of a passage that concerns no line (R75, R83, R157). -/
def passageFault (code : St) (slab : Nat) (l : Live) (inj : Bool) : FaultInfo :=
  { code := code, slab := slab, unit := 0x7, id := 0, seq := l.seq, line := 0xFFFFFF, op := 0xFF
    detail0 := slab + 0xFFFFFF * 256, detail1 := 0xFFFFFFFF, arg := 0xFFFFFFFF, inj := inj }

/-- The inbound writes of a slab that satisfy a test become visible there, in their order (R74). -/
def State.land (s : State) (slab : Nat) (p : Inbound → Bool) : State :=
  let ws := (s.slab slab).inbound.filter p
  let s1 := s.modSlab slab fun b => { b with inbound := b.inbound.filter fun w => !p w }
  ws.foldl (fun s w => s.writeShare w.part w.ctx slab w.addr w.bytes) s1

/-- Everything that a passage has written is visible once it has ended on every slab (R78). -/
def State.landAll (s : State) (seq : Nat) : State :=
  (List.range 8).foldl (fun s k => s.land k fun w => w.seq == seq) s

/-- The passage has ended on a slab; on the last one the run finishes (R78, R392). -/
def State.passageEnded (s : State) (slab : Nat) (l : Live) : State :=
  let s1 := (s.modSlab slab fun b =>
    { b with
      live := b.live.filter fun x => x.seq != l.seq
      owner := if b.owner = some l.seq then none else b.owner }).modFlight l.seq fun f =>
        { f with run := f.run.map fun r => { r with ended := r.ended ++ [slab], wrote := l.wrote.filter (fun w => w.kind != 4) ++ r.wrote } }
  match s1.flight? l.seq with
  | none => s1
  | some f =>
    match f.run with
    | none => s1
    | some r => if r.slabs.all fun k => r.ended.contains k then (s1.landAll l.seq).finishRun f r else s1

/-- Injection 0x0401 withholds the end of a passage of the context. -/
def State.endWithheld (s : State) (l : Live) : Bool := s.talus.armed.any fun a => a.point == 0x0401 && a.onCtx l.part l.ctx

/-- PASSAGE_END (R75, R78, R157). -/
def passageEnd (slab seq : Nat) (s : State) : State :=
  match s.live? slab seq with
  | none => s
  | some l =>
    if !(s.running && l.allIssued) || (s.slab slab).ops.any (fun o => o.seq == seq) || s.endWithheld l then s
    else if l.tokens.any fun t => t != 0 then (s.spoil l).contextFault l.part l.ctx (passageFault .tokenLeft slab l false)
    else if ((s.ctx? l.part l.ctx).bind fun c => c.onSlab? slab).any fun d => d.slots.any fun a => a.gated then
      s.contextFault l.part l.ctx (passageFault .gateOrder slab l false)
    else s.passageEnded slab l

/-- The watchdog of a passage runs (R83): every passage selected before it on the slab has ended, and no collective of it
waits there for other members. -/
def Slab.watched (b : Slab) (seq : Nat) : Bool :=
  (b.live.head?.any fun l => l.seq == seq) && !b.gqs.any fun g => g.entries.any fun e => e.op.seq == seq && e.started && !e.met

/-- PASSAGE_STALL: the passage watchdog fires (R83). -/
def passageStall (slab seq : Nat) (s : State) : State :=
  match s.live? slab seq with
  | none => s
  | some l =>
    if !s.running || !(s.slab slab).watched seq then s else
    let (o, s1) := s.opportunity 0x0401 fun a => a.onCtx l.part l.ctx
    s1.contextFault l.part l.ctx (passageFault .passageStall slab l o.isSome)

def execPassageSelect (slab : Nat) (s : State) : Host.Outcome State Fault Refusal := .next (passageSelect slab s)
def execLineIssue (slab : Nat) (s : State) : Host.Outcome State Fault Refusal := .next (lineIssue slab s)
def execPassageEnd (slab seq : Nat) (s : State) : Host.Outcome State Fault Refusal := .next (passageEnd slab seq s)
def execPassageStall (slab seq : Nat) (s : State) : Host.Outcome State Fault Refusal := .next (passageStall slab seq s)
def execNop (slab unit : Nat) (s : State) : Host.Outcome State Fault Refusal := .next (nop slab unit s)
def execLoopBegin (slab : Nat) (s : State) : Host.Outcome State Fault Refusal := .next (loopBegin slab s)
def execLoopEnd (slab : Nat) (s : State) : Host.Outcome State Fault Refusal := .next (loopEnd slab s)
def execLoopr (slab : Nat) (s : State) : Host.Outcome State Fault Refusal := .next (loopr slab s)
def execTwait (slab : Nat) (s : State) : Host.Outcome State Fault Refusal := .next (twait slab s)
def execFence (slab : Nat) (s : State) : Host.Outcome State Fault Refusal := .next (fence slab s)

end Sys2Proof.Machine
end

