-- ==== Sys2Proof/Machine/Special.lean ====
section
/-! DEFINITION. Special.lean: the special functions of R188 to R192 and the Gumbel map of R249, R250. The stepping's
maps are not given (R190): each is a free map of Config, kept inside the bound of its rule by comparing it with an
evaluation in fixed point, whose own error is far below every bound (logs 7, 8). -/

namespace Sys2Proof.Machine

/-- Fixed point has 512 fraction bits. -/
def fxP : Nat := 512

/-- pi, ln 2, 1/sqrt 2 and 2/sqrt pi in fixed point, each rounded down. -/
def fxPi : Int :=
  0x3243F6A8885A308D313198A2E03707344A4093822299F31D0082EFA98EC4E6C89452821E638D01377BE5466CF34E90C6CC0AC29B7C97C50DD3F84D5B5B5470917
def fxLn2 : Int :=
  0xB17217F7D1CF79ABC9E3B39803F2F6AF40F343267298B62D8A0D175B8BAAFA2BE7B876206DEBAC98559552FB4AFA1B10ED2EAE35C138214427573B291169B825
def fxRs2 : Int :=
  0xB504F333F9DE6484597D89B3754ABE9F1D6F60BA893BA84CED17AC85833399154AFC83043AB8A2C3A8B1FE6FDC83DB390F74A85E439C7B4A780487363DFA2768
def fxErfC : Int :=
  0x120DD750429B6D11AE3A914FED7FD8688281341D7587CEA2E7342B06199CC416180EB39F0B24E1E2281806C12D98F35D77A3E9DDC91C394F0E9EEDF0EFFFD84A3

def fxMul (a b : Int) : Int := (a * b).ediv (2 ^ fxP)
def fxOne : Int := 2 ^ fxP

/-- A finite value in fixed point, rounded down. -/
def fxOf : Val → Int
  | .fin s m e =>
    let k := e + (fxP : Int)
    let x : Int := if 0 ≤ k then ((m <<< k.toNat : Nat) : Int) else ((m >>> (-k).toNat : Nat) : Int)
    if s then -x else x
  | _ => 0

/-- A fixed-point number times 2^k, as a value. -/
def fxVal (x : Int) (k : Int) : Val := .fin (decide (x < 0)) x.natAbs (k - (fxP : Int))

/-- Σ t_i where t_0 = t and t_i = t_(i-1) * r / d i, for i up to n. -/
def fxSeries (r : Int) (d : Nat → Int) : Nat → Nat → Int → Int → Int
  | 0, _, _, acc => acc
  | n + 1, i, t, acc =>
    let t := (fxMul t r).ediv (d i)
    fxSeries r d n (i + 1) t (acc + t)

/-- e^x for |x| below 2^16: mantissa in fixed point and power of two. -/
def fxExp (x : Int) : Int × Int :=
  let k := (2 * x + fxLn2).ediv (2 * fxLn2)
  (fxSeries (x - k * fxLn2) (fun i => (i : Int)) 100 1 fxOne fxOne, k)

/-- Σ z^(2i+1)/(2i+1), for atanh. -/
def fxAtanh (z2 : Int) : Nat → Nat → Int → Int → Int
  | 0, _, _, acc => acc
  | n + 1, i, t, acc =>
    let t := fxMul t z2
    fxAtanh z2 n (i + 1) t (acc + t.ediv ((2 * i + 1 : Nat) : Int))

/-- ln of a positive m * 2^e in fixed point. -/
def fxLn (m : Nat) (e : Int) : Int :=
  let l := Nat.log2 m
  let y : Int := (m : Int) * 2 ^ fxP / 2 ^ l
  let z := ((y - fxOne) * 2 ^ fxP).ediv (y + fxOne)
  2 * fxAtanh (fxMul z z) 200 1 z z + ((l : Int) + e) * fxLn2

/-- erf z in fixed point for |z| at most 12. -/
def fxErf (z : Int) : Int :=
  let z2 := -fxMul z z
  let rec go : Nat → Nat → Int → Int → Int
    | 0, _, _, acc => acc
    | n + 1, i, t, acc =>
      let t := (fxMul t z2).ediv (i : Int)
      go n (i + 1) t (acc + t.ediv ((2 * i + 1 : Nat) : Int))
  fxMul fxErfC (go 600 1 z z)

/-- sin and cos of a fixed-point angle in [0, 2 pi). -/
def fxSin (r : Int) : Int := fxSeries (-fxMul r r) (fun i => ((2 * i * (2 * i + 1) : Nat) : Int)) 100 1 r r
def fxCos (r : Int) : Int := fxSeries (-fxMul r r) (fun i => (((2 * i - 1) * (2 * i) : Nat) : Int)) 100 1 fxOne fxOne

/-- The angle of a value in [0, 2 pi): every finite argument is reduced (R188). -/
def fxAngle (v : Val) : Int :=
  match v with
  | .fin s m e =>
    let x : Int := signedMag s (m <<< (e + 512).toNat)
    if e + 512 < 0 then 0 else x.emod (2 * fxPi)
  | _ => 0

/-- a / b as a value with 160 significant bits, for b not zero. -/
def quoVal (a b : Val) : Val :=
  match a, b with
  | .fin s m e, .fin t n g =>
    let k := 160 + Nat.log2 n
    .fin (s != t) ((m <<< k) / n) (e - g - (k : Int))
  | _, _ => Val.zero

/-- The special functions in the order of their opcodes (R188). -/
inductive SFn where
  | exp | log | rsqrt | rcp | sigmoid | tanh | gelu | silu | sin | cos
  deriving DecidableEq, Repr, Inhabited

def SFn.num : SFn → Nat
  | .exp => 1 | .log => 2 | .rsqrt => 3 | .rcp => 4 | .sigmoid => 5 | .tanh => 6 | .gelu => 7 | .silu => 8
  | .sin => 9 | .cos => 10

/-- 1 / (1 + e^-x). -/
def sigVal (v : Val) : Val :=
  let x := fxExp (-fxOf v)
  quoVal (.fin false 1 0) (Val.add (.fin false 1 0) (fxVal x.1 x.2))

/-- Is |v| at least 2^k? -/
def atLeast (v : Val) (k : Int) : Bool :=
  match v with
  | .fin _ m e => m != 0 && k ≤ floorLog2 m e
  | .inf _ => true
  | .nan => false

/-- f(x) to far more precision than its bound needs, for finite nonzero x inside its domain. -/
def approx (f : SFn) (v : Val) : Val :=
  match v with
  | .fin s m e =>
    match f with
    | .exp =>
      if atLeast v 10 then (if s then .fin false 1 (-2000) else .fin false 1 2000)
      else let r := fxExp (fxOf v); fxVal r.1 r.2
    | .log => fxVal (fxLn m e) 0
    | .rsqrt =>
      let g := if e % 2 = 0 then e else e - 1
      let n := if e % 2 = 0 then m else 2 * m
      quoVal (.fin false 1 0) (.fin false (Nat.sqrt (n <<< 400)) (g / 2 - 200))
    | .rcp => quoVal (.fin false 1 0) v
    | .sigmoid =>
      if atLeast v 10 then (if s then .fin false 1 (-2000) else .fin false 1 0) else sigVal v
    | .tanh =>
      if atLeast v 10 then .fin s 1 0
      else if !atLeast v (-12) then
        let x2 := Val.mul v v
        Val.add v (Val.mul v (Val.add (quoVal (Val.mul x2 (.fin true 1 0)) (.fin false 3 0))
          (quoVal (Val.mul (Val.mul x2 x2) (.fin false 2 0)) (.fin false 15 0))))
      else
        let t := fxExp (-2 * fxOf (.fin false m e))
        let y := fxVal t.1 t.2
        Val.mul (.fin s 1 0) (quoVal (Val.add (.fin false 1 0) y.negate) (Val.add (.fin false 1 0) y))
    | .gelu =>
      if atLeast v 4 then (if s then Val.zero else v)
      else Val.mul v (fxVal (fxOne + fxErf (fxMul (fxOf v) fxRs2)) (-1))
    | .silu =>
      if atLeast v 10 then (if s then Val.zero else v) else Val.mul v (sigVal v)
    | .sin => fxVal (fxSin (fxAngle v)) 0
    | .cos => fxVal (fxCos (fxAngle v)) 0
  | x => x

/-- The bound of R188 on |result - f(x)|, where `a` approximates f(x): 2^-148 where f(x) is subnormal in diagnostic mode. In
service mode R188 gives none there, and the map is kept to the wider of the two (log 7). -/
def bound (f : SFn) (service : Bool) (a : Val) : Val :=
  let mag := if a.neg? then a.negate else a
  let rel (k : Int) := Val.scale mag k
  let b := match f with
    | .exp | .sigmoid | .tanh => rel (-22)
    | .log => if atLeast a 0 then rel (-22) else .fin false 1 (-23)
    | .rsqrt => rel (-23)
    | .rcp => Val.zero
    | .gelu | .silu => Val.add (rel (-21)) (.fin false 1 (-30))
    | .sin | .cos => .fin false 1 (-22)
  let sub : Val := .fin false 1 (-148)
  if atLeast a (-126) then b else if service && magLt sub b then b else sub

/-- Does a finite word lie within a bound of an approximated value? -/
def inBound (w : Word) (a b : Val) : Bool :=
  let v := valOf w
  v.isFin && !magLt b (Val.sub v a)

/-- The exact cases of R189 for an argument that is zero or infinite, or in the invalid column: result and flag. -/
def specialCase (f : SFn) (v : Val) : Option Res :=
  let one : Word := 0x3F800000#32
  let pinf : Word := 0x7F800000#32
  let ninf : Word := 0xFF800000#32
  let nz : Word := 0x80000000#32
  let bad : Res := (nan32, flNan)
  match f, v with
  | .exp, .inf s => some (if s then 0 else pinf, 0)
  | .exp, .fin _ 0 _ => some (one, 0)
  | .log, .inf s => some (if s then bad else (pinf, 0))
  | .log, .fin _ 0 _ => some (ninf, 0)
  | .log, .fin true _ _ => some bad
  | .rsqrt, .inf s => some (if s then bad else (0, 0))
  | .rsqrt, .fin s 0 _ => some (if s then ninf else pinf, 0)
  | .rsqrt, .fin true _ _ => some bad
  | .rcp, .inf s => some (if s then nz else 0, 0)
  | .rcp, .fin s 0 _ => some (if s then ninf else pinf, 0)
  | .sigmoid, .inf s => some (if s then 0 else one, 0)
  | .sigmoid, .fin _ 0 _ => some (0x3F000000#32, 0)
  | .tanh, .inf s => some (if s then 0xBF800000#32 else one, 0)
  | .tanh, .fin s 0 _ => some (if s then nz else 0, 0)
  | .gelu, .inf s => some (if s then nz else pinf, 0)
  | .gelu, .fin s 0 _ => some (if s then nz else 0, 0)
  | .silu, .inf s => some (if s then nz else pinf, 0)
  | .silu, .fin s 0 _ => some (if s then nz else 0, 0)
  | .sin, .inf _ => some bad
  | .sin, .fin s 0 _ => some (if s then nz else 0, 0)
  | .cos, .inf _ => some bad
  | .cos, .fin _ 0 _ => some (one, 0)
  | _, _ => none

/-- Service mode replaces a value of magnitude below 2^-126 by zero of the same sign (R192). -/
def flush (w : Word) : Word :=
  if (w.toNat % 2 ^ 31) < 0x00800000 then BitVec.ofNat 32 (w.toNat / 2 ^ 31 * 2 ^ 31) else w

/-- A special function on a finite nonzero argument inside its domain: the free map kept in its bound; ln 1 is +0; an
overflow gives an infinity with its flag (R188, R189, R190). -/
def specialFinite (f : SFn) (service : Bool) (x : Word) : Res :=
  let v := valOf x
  let a := approx f v
  if f = .rcp then fDiv 0x3F800000#32 x
  else if f = .log && x == 0x3F800000#32 then (0, 0)
  else
    let r := fp32.round a
    if r.2 then (BitVec.ofNat 32 r.1, flOvf)
    else
      let c := Config.specialMap f.num service x
      (if inBound c a (bound f service a) then c else BitVec.ofNat 32 r.1, 0)

/-- One special function on one element, with its flags (R188 to R192). `service` is the mode of the passage (R191). -/
def special (f : SFn) (service : Bool) (x : Word) : Res :=
  if (valOf x).isNan then (nan32, 0)
  else
    let x := if service then flush x else x
    let r := match specialCase f (valOf x) with
      | some r => r
      | none => specialFinite f service x
    (if service then flush r.1 else r.1, r.2)

/-- The activation of a fusion descriptor's ACT field (R141, R146): ReLU is V_MAX with +0. -/
def activation (act : Nat) (service : Bool) (x : Word) : Res :=
  match act with
  | 1 => (fMax false x 0, 0)
  | 2 => special .gelu service x
  | 3 => special .silu service x
  | 4 => special .sigmoid service x
  | 5 => special .tanh service x
  | _ => (x, 0)

/-- VB_GUMBEL on one word (R249, R250): the free map kept within 2^-21 * (|G| + 1) of the exact G. -/
def gumbel (f : Word) : Word :=
  let u := 2 * (f.toNat >>> 8) + 1
  let inner := -fxLn u (-25)
  let g := -fxLn inner.toNat (-(fxP : Int))
  let a := fxVal g 0
  let b := Val.scale (fxVal ((g.natAbs : Int) + fxOne) 0) (-21)
  let c := Config.gumbelMap f
  if inBound c a b then c else BitVec.ofNat 32 (fp32.round a).1

end Sys2Proof.Machine
end

