-- ==== Sys2Proof/Machine/Stages.lean ====
section
/-! DEFINITION. Stages.lean: the stages that prologues, epilogues, chained products and gates share (R143, R146, R149,
R151, R152, R159), and conversions of rows of values to element formats (R121, R123 to R126). -/

namespace Sys2Proof.Machine

/-- One step after another, flags together. -/
def Res.andThen (r : Res) (g : Word → Res) : Res :=
  let t := g r.1
  (t.1, r.2 ||| t.2)

/-- A step that is taken only under its enable. -/
def Res.andIf (r : Res) (on : Bool) (g : Word → Res) : Res := if on then r.andThen g else r

/-- Widening to FP32 is exact (R128). -/
def widen (f : Fmt) (x : Nat) : Word := if f = fp32 then BitVec.ofNat 32 x else BitVec.ofNat 32 (fp32.round (f.decode x)).1

/-- Format of VFMT (R141) and of SFMT. -/
def vfmtOf (v : Nat) : Fmt := if v = 0 then fp32 else bf16
def sfmtOf (v : Nat) : Fmt := if v = 0 then fp32 else if v = 1 then bf16 else fp16

/-- `n` elements of `w` bytes as numbers. -/
def elements (bs : List Byte) (w n : Nat) : Array Nat :=
  let b := bs.toArray
  (Array.range n).map fun e => leNat ((List.range w).map fun i => b.getD (w * e + i) 0)

/-- Elements of a descriptor's vector from index `i`, widened; nothing where the vector is off (R143). -/
def State.vecWords (s : State) (slab : Nat) (o : OpE) (on : Bool) (addr vfmt i n : Nat) : Array Word :=
  if on then
    (elements (s.opBytes slab o (addr * 64 + i * vfmtBytes vfmt) (n * vfmtBytes vfmt)) (vfmtBytes vfmt) n).map (widen (vfmtOf vfmt))
  else #[]

/-- A normalisation record of R144. -/
structure StatRec where
  cnt : Word
  mean : Word
  m2 : Word
  deriving DecidableEq, Repr, Inhabited

def statRecOf (bs : List Byte) (i : Nat) : StatRec :=
  { cnt := BitVec.ofNat 32 (numAt bs (16 * i) 4), mean := BitVec.ofNat 32 (numAt bs (16 * i + 4) 4)
    m2 := BitVec.ofNat 32 (numAt bs (16 * i + 8) 4) }

/-- The bytes of a record: three words and zero (R144). -/
def StatRec.bytes (r : StatRec) : List Byte := toLe 4 r.cnt.toNat ++ toLe 4 r.mean.toNat ++ toLe 4 r.m2.toNat ++ toLe 4 0

/-- Mean to subtract and reciprocal deviation of a row (R146, R159), with their flags. -/
structure Normal where
  mu : Word
  rstd : Word
  flags : Nat
  deriving DecidableEq, Repr, Inhabited

def StatRec.normal (r : StatRec) (norm eps : Nat) (service : Bool) : Normal :=
  let var : Res := (special .rcp service r.cnt).andThen fun q => fMul r.m2 q
  let var := if norm = 2 then
      (let sq := fMul r.mean r.mean
       var.andThen fun v => let t := fAdd v sq.1; (t.1, t.2 ||| sq.2))
    else var
  let rstd := (var.andThen fun v => fAdd v (widen bf16 eps)).andThen (special .rsqrt service)
  { mu := if norm = 2 then 0 else r.mean, rstd := rstd.1, flags := rstd.2 }

/-- (x - mu) * rstd, then gamma and beta (R146, R159). -/
def normalise (f : Fuse) (k : Normal) (gamma beta : Word) (x : Res) : Res :=
  let y := (x.andThen fun v => fSub v k.mu).andThen fun v => fMul v k.rstd
  let y := (y.andIf f.gammaEn fun v => fMul v gamma).andIf f.betaEn fun v => fAdd v beta
  (y.1, y.2 ||| k.flags)

/-- Bias and activation (R149, R155, R159). -/
def biasAct (f : Fuse) (service : Bool) (bias d : Word) : Res :=
  (Res.andIf (d, 0) f.biasEn fun v => fAdd v bias).andIf (f.act != 0) (activation f.act service)

/-- Scale vector and scalar multiplier (R149, R159). -/
def scaling (f : Fuse) (scale : Word) (r : Res) : Res :=
  (r.andIf f.scaleEn fun v => fMul v scale).andIf (f.scal != 0) fun v => fMul v (widen bf16 f.scal)

/-- Elements of a row in an FMT code, its scale bytes (none for a plain format), and each element's flags. -/
structure Coded where
  codes : List Nat
  scales : List Nat
  flags : List Nat
  deriving DecidableEq, Repr, Inhabited

def chunksOf {α : Type} (n : Nat) : Nat → List α → List (List α)
  | 0, _ => []
  | k + 1, l => l.take n :: chunksOf n k (l.drop n)

/-- Conversion of a row of FP32 results to an FMT code (R124 to R126); blocks are 32 consecutive columns (R123). -/
def codeRow (fmt : Nat) (vs : List Res) : Coded :=
  let f := fmtOf fmt
  if isBlock fmt then
    let bs := (chunksOf 32 (ceilDiv vs.length 32) vs).map fun b =>
      let vals := b.map fun r => valOf r.1
      let e := blockExp f.noInf vals
      ((e + 127).toNat, b.map fun r => let t := f.round (Val.scale (valOf r.1) (-e)); (t.1, r.2 ||| f.overflowed t.2))
    { codes := bs.flatMap fun b => b.2.map Prod.fst, scales := bs.map Prod.fst, flags := bs.flatMap fun b => b.2.map Prod.snd }
  else if fmt = 0 then
    { codes := vs.map fun r => (if (valOf r.1).isNan then nan32 else r.1).toNat, scales := [], flags := vs.map Prod.snd }
  else
    let ts := vs.map fun r => let t := f.round (valOf r.1); (t.1, r.2 ||| f.overflowed t.2)
    { codes := ts.map Prod.fst, scales := [], flags := ts.map Prod.snd }

end Sys2Proof.Machine
end

