-- ==== Sys2Proof/Machine/Array.lean ====
section
/-! DEFINITION. Array.lean: the matrix array: operands, expansion, prologues, exact chunk sums, slot updates, lists,
chained and arrival-triggered products (R97 to R100, R112, R113, R116 to R121, R131 to R135, R146, R152, R154, R279,
R544). -/

namespace Sys2Proof.Machine

/-! ## Operands -/

/-- An element as the array takes it: its value, and whether its block has scale byte 0xFF (R120). -/
structure Cell where
  v : Val
  bad : Bool
  deriving DecidableEq, Repr, Inhabited

/-- The `n` elements of an operand in an AFMT or WFMT code; `sc e` is the index of element e's scale byte (R121). -/
def cellsOf (code : Nat) (bs : List Byte) (n : Nat) (sc : Nat → Nat) : Array Cell :=
  let f := fmtOf (fmtOfAfmt code)
  let b := bs.toArray
  let byte := fun i => (b.getD i 0).toNat
  let base := roundUp n 512
  (Array.range n).map fun e =>
    if afmtBlock code then { v := blockVal f (byte e) (byte (base + sc e)), bad := byte (base + sc e) == 0xFF }
    else if afmtBytes code = 2 then { v := f.decode (byte (2 * e) + 256 * byte (2 * e + 1)), bad := false }
    else { v := f.decode (byte e), bad := false }

/-- Index of the scale of weight element e of a tile of N columns (R121). -/
def weightScale (n e : Nat) : Nat := e / n / 32 * n + e % n

/-- A row that a conversion has coded for the array (R146, R152). -/
def Coded.cells (c : Coded) (fmt : Nat) : List Cell :=
  let f := fmtOf fmt
  c.codes.zipIdx.map fun x =>
    if isBlock fmt then { v := blockVal f x.1 (nth c.scales (x.2 / 32)), bad := false } else { v := f.decode x.1, bad := false }

/-- An operand with what reading it raised. -/
structure Operand where
  cells : Array Cell
  marks : Marks
  deriving DecidableEq, Repr, Inhabited

/-! ## Expansion (R131 to R135) -/

/-- An expansion header (R131). -/
structure Expand where
  ifmt : Nat
  mode : Nat
  gtab : Nat
  lut : Nat
  rsvd : Bool
  deriving DecidableEq, Repr, Inhabited

def expandOf (h : Nat) : Expand :=
  { ifmt := fld h 3 0, mode := fld h 7 4, gtab := fld h 28 8, lut := fld h 511 256
    rsvd := fld h 255 29 != 0 || fld h 4095 512 != 0 }

/-- Integer weight e of a tile stored from `bs` (R132), as its unsigned code. -/
def intCode (ifmt : Nat) (b : Array Byte) (e : Nat) : Nat :=
  if ifmt = 0 then (b.getD e 0).toNat
  else if e % 2 = 0 then (b.getD (e / 2) 0).toNat % 16 else (b.getD (e / 2) 0).toNat / 16

/-- Value of an integer weight (R132). -/
def intVal (ifmt code : Nat) : Int := if ifmt = 0 then signedOf 8 code else if ifmt = 1 then signedOf 4 code else (code : Int)

/-- Zero point of a group table entry (R133). -/
def zeroPoint (ifmt entry : Nat) : Int := if ifmt = 2 then (fld entry 23 16 : Int) else signedOf 8 (fld entry 23 16)

def zeroOk (ifmt entry : Nat) : Bool :=
  let z := zeroPoint ifmt entry
  fld entry 31 24 == 0 && (ifmt == 0 || (if ifmt = 1 then decide (-8 ≤ z ∧ z ≤ 7) else decide (z ≤ 15)))

/-- Bytes of the integer weights of a tile (R132). -/
def intBytes (ifmt n : Nat) : Nat := if ifmt = 0 then n else n / 2

/-- The regions an expansion at byte `w` reads for a K × N tile: header, weights, group table. -/
def Expand.areas (x : Expand) (w k n : Nat) : List (Nat × Nat) :=
  [(w, 512), (w + 512, intBytes x.ifmt (k * n))] ++ (if x.mode = 0 then [(x.gtab * 512, 4 * (k / 32 * n))] else [])

/-- The integer as an exact value. -/
def valOfInt (i : Int) : Val := .fin (decide (i < 0)) i.natAbs 0

/-- Exact value of a weight, and whether it is a NaN made here (R134). -/
def Expand.value (x : Expand) (entry code : Nat) : Val × Bool :=
  if x.mode = 1 then (bf16.decode (fld x.lut (16 * code + 15) (16 * code)), false)
  else
    let s := bf16.decode (fld entry 15 0)
    let v := Val.mul (valOfInt (intVal x.ifmt code - zeroPoint x.ifmt entry)) s
    (v, v.isNan && !s.isNan)

/-- Convert the expanded tile to AFMT: plain elements one by one, block-scaled ones in the groups of 32 weights of a
column (R134). -/
def expandCells (a n : Nat) (vs : Array (Val × Bool)) : Array (Cell × Nat) :=
  let f := fmtOf (fmtOfAfmt a)
  let one : Int → Nat → Cell × Nat := fun b e =>
    let x := vs.getD e (Val.zero, false)
    let t := f.round (Val.scale x.1 (-b))
    ({ v := Val.scale (f.decode t.1) b, bad := false }, f.overflowed t.2 ||| (if x.2 then flNan else 0))
  if afmtBlock a then
    let exps := (Array.range (vs.size / 32)).map fun g =>
      blockExp f.noInf ((List.range 32).map fun i => (vs.getD ((g / n * 32 + i) * n + g % n) (Val.zero, false)).1)
    (Array.range vs.size).map fun e => one (exps.getD (weightScale n e) 0) e
  else (Array.range vs.size).map (one 0)

/-! ## Reading operands -/

/-- The header of an expansion at byte `w`. -/
def State.expandAt (s : State) (slab : Nat) (o : OpE) (w : Nat) : Expand := expandOf (leNat (s.opBytes slab o w 512))

/-- R135. -/
def State.expandFails (s : State) (slab : Nat) (o : OpE) (w k n : Nat) : Bool :=
  let can := fun a l => s.readable o.part o.ctx o.seq slab a l
  let x := s.expandAt slab o w
  !can w 512 || decide (2 < x.ifmt) || decide (1 < x.mode) || (x.mode == 1 && x.ifmt == 0) || x.rsvd
    || (if x.mode = 1 then x.gtab != 0 else x.lut != 0)
    || !((x.areas w k n).all fun r => can r.1 r.2)
    || (x.mode == 0 &&
      (let t := elements (s.opBytes slab o (x.gtab * 512) (4 * (k / 32 * n))) 4 (k / 32 * n)
       t.any fun e => !zeroOk x.ifmt e))

/-- The weights of a K × N tile at byte `w` (R121, R134). The report of a NaN made by expansion names the weight's
place in the share. -/
def State.weights (s : State) (slab : Nat) (o : OpE) (wfmt afmt w k n : Nat) : Operand :=
  if wfmt = 7 then
    let x := s.expandAt slab o w
    let b := (s.opBytes slab o (w + 512) (intBytes x.ifmt (k * n))).toArray
    let t := if x.mode = 0 then elements (s.opBytes slab o (x.gtab * 512) (4 * (k / 32 * n))) 4 (k / 32 * n) else #[]
    let cs := expandCells afmt n ((Array.range (k * n)).map fun e => x.value (t.getD (weightScale n e) 0) (intCode x.ifmt b e))
    { cells := cs.map Prod.fst
      marks := marksOf (cs.toList.zipIdx.map fun c => (sharePos (w + 512 + (if x.ifmt = 0 then c.2 else c.2 / 2)), c.1.2)) }
  else { cells := cellsOf wfmt (s.opBytes slab o w (weightBytes wfmt k n)) (k * n) (weightScale n), marks := Marks.none }

/-- Regions of the weights that an operation reads. -/
def State.weightAreas (s : State) (slab : Nat) (o : OpE) (wfmt w k n : Nat) : List (Nat × Nat) :=
  if wfmt = 7 then (s.expandAt slab o w).areas w k n else [(w, weightBytes wfmt k n)]

/-- The streamed operand of M rows at byte `a` (R121), through a prologue (R146). -/
def State.streamed (s : State) (slab : Nat) (o : OpE) (d : Option Fuse) (a : Nat) : Operand :=
  let x := o.bits.toNat
  let m := arrM x
  let k := shapeK (arrShape x)
  match d with
  | none =>
    { cells := cellsOf (arrAfmt x) (s.opBytes slab o a (streamBytes (arrAfmt x) m k)) (m * k) fun e => e / 32
      marks := Marks.none }
  | some f =>
    let service := s.serviceOf slab o
    let w := sfmtBytes f.sfmt
    let src := elements (s.opBytes slab o a (m * k * w)) w (m * k)
    let recs := if f.norm = 0 then [] else s.opBytes slab o (f.stat * 64) (16 * m)
    let gamma := s.vecWords slab o (f.norm != 0 && f.gammaEn) f.gamma f.vfmt 0 k
    let beta := s.vecWords slab o (f.norm != 0 && f.betaEn) f.beta f.vfmt 0 k
    let fmt := fmtOfAfmt (arrAfmt x)
    let rows := (List.range m).map fun r =>
      let nrm := (statRecOf recs r).normal f.norm f.eps service
      codeRow fmt ((List.range k).map fun j =>
        let y : Res := (widen (sfmtOf f.sfmt) (src.getD (r * k + j) 0), 0)
        let y := if f.norm = 0 then y else normalise f nrm (gamma.getD j 0) (beta.getD j 0) y
        y.andIf (f.act != 0) (activation f.act service))
    { cells := (rows.flatMap fun c => c.cells fmt).toArray
      marks := marksOf ((rows.flatMap fun c => c.flags).zipIdx.map fun y => (sharePos (a + y.2 * w), y.1)) }

/-- Regions of the share that the streamed operand and its prologue read. -/
def streamAreas (x a : Nat) (d : Option Fuse) : List (Nat × Nat) :=
  let k := shapeK (arrShape x)
  match d with
  | none => [(a, streamBytes (arrAfmt x) (arrM x) k)]
  | some f => (a, arrM x * k * sfmtBytes f.sfmt) :: (proAreas f (arrM x) k).map fun r => (r.lo, r.len)

/-! ## Chunk sums and slot updates (R97 to R100) -/

/-- The exact sum of products k0 to k1 - 1 of an element, and the flags it raises (R97, R99, R120, R129). -/
def chunkSum (a w : Array Cell) (k n r c k0 k1 : Nat) : Val × Nat :=
  let zero : Cell := { v := Val.zero, bad := false }
  let t := (List.range (k1 - k0)).foldl (fun (t : Val × Bool × Bool) i =>
    let x := a.getD (r * k + k0 + i) zero
    let y := w.getD ((k0 + i) * n + c) zero
    (Val.add t.1 (Val.mul x.v y.v), t.2.1 || x.v.isNan || y.v.isNan, t.2.2 || x.bad || y.bad)) (Val.fin true 0 0, false, false)
  (t.1, (if t.1.isNan && !t.2.1 then flNan else 0) ||| (if t.2.2 then flScale else 0))

/-- saturate of R100: the value, and whether it saturated. -/
def saturate (v : Word) (d old : Val) : Word × Bool :=
  if !(valOf v).isNan && !(valOf v).isFin && d.isFin && old.isFin then
    (BitVec.ofNat 32 (signBit fp32 (valOf v).neg? + fp32.maxBits), true)
  else (v, false)

/-- One chunk update of a slot element (R97): the new value and its flags. -/
def slotUpdate (overwrite : Bool) (old : Word) (d : Val) : Res :=
  let e := if overwrite then d else Val.add (valOf old) d
  let t := saturate (BitVec.ofNat 32 (fp32.round e).1) d (valOf old)
  (t.1, (if e.isNan && !overwrite && !d.isNan && !(valOf old).isNan then flNan else 0) ||| (if t.2 then flSat else 0))

/-- One output element: its chunks in order. -/
def outElement (a w : Array Cell) (shape : Nat) (acc : Bool) (old : Word) (r c : Nat) : Res :=
  let kc := shapeChunk shape
  (List.range (shapeChunks shape)).foldl (fun (v : Res) i =>
    let d := chunkSum a w (shapeK shape) (shapeN shape) r c (i * kc) (i * kc + kc)
    let u := slotUpdate (i == 0 && !acc) v.1 d.1
    (u.1, v.2 ||| d.2 ||| u.2)) (old, 0)

/-- Where an array write goes. -/
structure Target where
  slot : Nat
  acc : Bool
  r0 : Nat
  deriving DecidableEq, Repr, Inhabited

/-- POS of an accumulator value, for the array (R475). -/
def accPos (slot idx : Nat) : Nat := slot * 2 ^ 19 + idx

/-- What the problem of a list entry has to tell: its flags at once, and its NaN with those of the operation, which sends one
event after its last entry (R193, log 48). -/
def State.tellEntry (s : State) (slab : Nat) (o : OpE) (m : Marks) (inj : Bool) : State :=
  let s1 := (s.raiseFlags o m.flags).modSlab slab fun b =>
    { b with lists := modWhere b.lists (fun l => l.id == o.id) fun l =>
        { l with
          flags := l.flags ||| m.flags
          births := l.births + m.births
          pos := if l.births = 0 then m.pos else l.pos
          inj := l.inj || inj } }
  match (s1.slab slab).listOf o.id with
  | some r =>
    if r.total ≤ r.read then s1.reportNan slab o 0 { flags := r.flags, births := r.births, pos := r.pos } r.inj else s1
  | none => s1

/-- What a product has to tell. -/
def State.tell (s : State) (slab : Nat) (o : OpE) (m : Marks) (inj : Bool) : State :=
  if o.op = 2 then s.tellEntry slab o m inj else s.mark slab o 0 m inj

/-- Injection 0x0502 at a product: a list meets it at its first entry (R488). -/
def State.productInjected (s : State) (slab : Nat) (o : OpE) : Bool × State :=
  if o.op = 2 && ((s.slab slab).listOf o.id).any fun l => decide (1 < l.read) then (false, s) else s.nanInjected o

/-- The products of M rows and a tile go into a slot (R97), with the flags and reports of the operation. -/
def State.multiply (s : State) (slab : Nat) (o : OpE) (a w : Operand) (t : Target) : State :=
  let x := o.bits.toNat
  let n := shapeN (arrShape x)
  let (inj, s1) := s.productInjected slab o
  let vals := (s1.slot o.part o.ctx slab t.slot).vals
  let old := (Memory.read vals (t.r0 * n) (arrM x * n)).toArray
  let rs := (List.range (arrM x * n)).map fun e => outElement a.cells w.cells (arrShape x) t.acc (old.getD e 0) (e / n) (e % n)
  let rs := withNan inj rs
  let m := marksOf (rs.zipIdx.map fun r => (accPos t.slot (t.r0 * n + r.2), r.1.2))
  let s2 := s1.modSlot o.part o.ctx slab t.slot fun b =>
    { b with
      vals := Memory.write b.vals (t.r0 * n) (rs.map Prod.fst)
      sat := b.sat || bitOf m.flags 0 }
  (s2.overwrite slab (inSlot o.part o.ctx slab t.slot (t.r0 * n) (arrM x * n))).tell slab o ((a.marks.add w.marks).add m) inj

/-- Go on after the checks of an array operation that reads memory: the expansion header (R135), the check codes of the
regions it reads (R290) and of the values of a slot it adds to (R108). DESIGN CHOICE, log 48: a header or table with both a
fault of form and an uncorrectable word reports ST_EXP_HEADER; the spec gives no order. -/
def State.arrayReads (s : State) (slab : Nat) (o : OpE) (w d1 : Nat) (areas : List (Nat × Nat)) (t : Target) (k : State → State) : State :=
  let x := o.bits.toNat
  let kk := shapeK (arrShape x)
  let n := shapeN (arrShape x)
  if arrWfmt x = 7 && s.expandFails slab o w kk n then s.opFault slab o .expHeader d1 else
  s.withShare slab o (areas ++ s.weightAreas slab o (arrWfmt x) w kk n) fun s =>
    if t.acc then s.withAcc slab o t.slot (t.r0 * n) (arrM x * n) k else k s

/-- The weights of an operation. -/
def State.opWeights (s : State) (slab : Nat) (o : OpE) (w : Nat) : Operand :=
  let x := o.bits.toNat
  s.weights slab o (arrWfmt x) (arrAfmt x) w (shapeK (arrShape x)) (shapeN (arrShape x))

/-- A product of the rows at byte `a` and the tile at byte `w`. -/
def State.product (s : State) (slab : Nat) (o : OpE) (a w d1 : Nat) (t : Target) : State :=
  let d := (s.progOf o).bind fun g => fuseAt g 0 o.bits.toNat
  s.arrayReads slab o w d1 (streamAreas o.bits.toNat a d) t fun s =>
    s.multiply slab o (s.streamed slab o d a) (s.opWeights slab o w) t

/-- MM (R97). -/
def mmAct (s : State) (slab : Nat) (o : OpE) : State :=
  let x := o.bits.toNat
  s.product slab o (arrA x * 512) (arrW x * 512) 0xFFFFFFFF { slot := arrSlot x, acc := arrAcc x, r0 := 0 }

/-- MM_LIST reads its header as it starts (R113). -/
def mmListAct (s : State) (slab : Nat) (o : OpE) : State :=
  let a := arrA o.bits.toNat * 512
  let can := fun n => s.readable o.part o.ctx o.seq slab a n
  if !can 16 then s.opFault slab o .listEntry else
  s.withShare slab o [(a, 16)] fun s =>
    let h := leNat (s.opBytes slab o a 16)
    let p := fld h 7 0 + 1
    if fld h 127 8 ≠ 0 || !can (16 + 16 * p) then s.opFault slab o .listEntry else
    s.modSlab slab fun b => { b with lists := b.lists ++ [{ id := o.id, total := p, read := 0, slots := [], flags := 0, births := 0, pos := 0, inj := false }] }

/-- The first check that a list entry fails (R113). -/
def State.entryFails (s : State) (slab : Nat) (o : OpE) (d : Option Fuse) (e : ListEntry) : Option St :=
  let x := o.bits.toNat
  let k := shapeK (arrShape x)
  let n := shapeN (arrShape x)
  let can := fun a l => s.readable o.part o.ctx o.seq slab a l
  let c := (s.ctx? o.part o.ctx).getD default
  let b := s.slot o.part o.ctx slab e.slot
  let w : ArrWrite := { slot := e.slot, acc := e.acc, cols := n, rows := e.row0 + arrM x, chunks := shapeChunks (arrShape x) }
  let operands := (streamAreas x (e.a * 512) d) ++ [(e.w * 512, if arrWfmt x = 7 then 512 else weightBytes (arrWfmt x) k n)]
  if e.rsvd ≠ 0 || !(operands.all fun r => can r.1 r.2) || decide (524288 / n < e.row0 + arrM x) then some .listEntry
  else if c.slots ≤ e.slot then some .accRange
  else if b.misfit w then some .accExtent
  else if 256 < (b.after w).count then some .spillDue
  else if b.gated then some .accRowOver
  else none

/-- The entry's problem runs; the list has read one entry more. -/
def State.runEntry (s : State) (slab : Nat) (o : OpE) (r : ListRun) (e : ListEntry) : State :=
  let x := o.bits.toNat
  let w : ArrWrite :=
    { slot := e.slot, acc := e.acc, cols := shapeN (arrShape x), rows := e.row0 + arrM x, chunks := shapeChunks (arrShape x) }
  let s1 := (s.modSlot o.part o.ctx slab e.slot fun b => b.after w).modSlab slab fun b =>
    { b with lists := modWhere b.lists (fun l => l.id == r.id) fun l => { l with read := l.read + 1, slots := e.slot :: l.slots } }
  s1.product slab o (e.a * 512) (e.w * 512) r.read { slot := e.slot, acc := e.acc, r0 := e.row0 }

/-- MM_LIST_ENTRY_READ (R106, R113, R544): the next entry of the list in progress. -/
def mmListEntryRead (slab : Nat) (s : State) : State :=
  let b := s.slab slab
  match b.lists.find? fun l => decide (l.read < l.total) with
  | none => s
  | some r =>
    match b.started.find? fun o => o.id == r.id with
    | none => s
    | some o =>
      let a := arrA o.bits.toNat * 512 + 16 + 16 * r.read
      let entry : State → ListEntry := fun s => listEntryOf (leNat (s.opBytes slab o a 16))
      if !s.running || !b.slotFree o (entry s).slot then s else
      s.withShare slab o [(a, 16)] fun s =>
        match s.entryFails slab o ((s.progOf o).bind fun g => fuseAt g 0 o.bits.toNat) (entry s) with
        | some code => s.opFault slab o code r.read
        | none =>
          if arrWfmt o.bits.toNat = 7 &&
              s.expandFails slab o ((entry s).w * 512) (shapeK (arrShape o.bits.toNat)) (shapeN (arrShape o.bits.toNat)) then
            s.opFault slab o .expHeader r.read
          else s.runEntry slab o r (entry s)

/-- The accumulator operation of a started pair (R76). -/
def State.drainOf (s : State) (slab : Nat) (o : OpE) : Option OpE :=
  (s.slab slab).started.find? fun p => p.unit == 1 && p.lineId == o.lineId && p.sameCtx o

/-- Row r of the drained slot through a CHAIN descriptor, in AFMT (R152). -/
def chainRow (fmt : Nat) (service : Bool) (d : Option Fuse) (bias scale : Array Word) (row : List Word) : Coded :=
  codeRow fmt (row.zipIdx.map fun x =>
    match d with
    | none => (x.1, 0)
    | some f => scaling f (scale.getD x.2 0) (biasAct f service (bias.getD x.2 0) x.1))

/-- The streamed operand of an MM_CHAIN: the drain of slot `a` (R152). DESIGN CHOICE, log 48: a NaN born in a stage names the
drained slot and the slot index; R193 lists no place for it. -/
def State.chained (s : State) (slab : Nat) (o : OpE) (d : Option Fuse) (a : Nat) : Operand :=
  let x := o.bits.toNat
  let k := shapeK (arrShape x)
  let vals := Memory.read (s.slot o.part o.ctx slab a).vals 0 (arrM x * k)
  let f := d.getD default
  let bias := s.vecWords slab o f.biasEn f.bias f.vfmt 0 k
  let scale := s.vecWords slab o f.scaleEn f.scale f.vfmt 0 k
  let fmt := fmtOfAfmt (arrAfmt x)
  let rows := (chunksOf k (arrM x) vals).map (chainRow fmt (s.serviceOf slab o) d bias scale)
  { cells := (rows.flatMap fun c => c.cells fmt).toArray
    marks := marksOf ((rows.flatMap fun c => c.flags).zipIdx.map fun y => (accPos a y.2, y.1)) }

/-- The vectors of a CHAIN descriptor (R149). -/
def chainAreas (d : Option Fuse) (k : Nat) : List (Nat × Nat) :=
  match d with
  | none => []
  | some f => (vecArea f.biasEn f.bias f.vfmt 0 k ++ vecArea f.scaleEn f.scale f.vfmt 0 k).map fun r => (r.lo, r.len)

/-- MM_CHAIN, its pair having fired (R152). -/
def mmChainAct (s : State) (slab : Nat) (o : OpE) : State :=
  let x := o.bits.toNat
  match s.drainOf slab o with
  | none => s
  | some q =>
    let a := accSlot q.bits.toNat
    let d := (s.progOf o).bind fun g => fuseAt g 0 x
    let t : Target := { slot := arrSlot x, acc := arrAcc x, r0 := 0 }
    s.withAcc slab q a 0 (arrM x * shapeK (arrShape x)) fun s =>
      s.arrayReads slab o (arrW x * 512) 0xFFFFFFFF (chainAreas d (shapeK (arrShape x))) t fun s =>
        s.multiply slab o (s.chained slab o d a) (s.opWeights slab o (arrW x * 512)) t

/-- MM_ARRIVE (R154, R279). -/
def mmArriveAct (s : State) (slab : Nat) (o : OpE) : State :=
  let x := o.bits.toNat
  match s.groupQueue? o.part o.ctx (arrGroup x) slab with
  | none => s.opFault slab o .collDesc
  | some (g, q) =>
    match s.gatherAt? slab q with
    | none => s.opFault slab o .collDesc
    | some t =>
      if t.total ≤ arrChunk x then s.opFault slab o .collDesc else
      s.product slab o (g.unitAddr t.chunks (arrChunk x)) (arrW x * 512) 0xFFFFFFFF
        { slot := arrSlot x, acc := arrAcc x, r0 := 0 }

def execMm (slab : Nat) (s : State) : Host.Outcome State Fault Refusal := .next (fireRow 0 1 mmAct slab s)
def execMmList (slab : Nat) (s : State) : Host.Outcome State Fault Refusal := .next (fireRow 0 2 mmListAct slab s)
def execMmListEntryRead (slab : Nat) (s : State) : Host.Outcome State Fault Refusal := .next (mmListEntryRead slab s)
def execMmChain (slab : Nat) (s : State) : Host.Outcome State Fault Refusal := .next (partnerRow 0 3 mmChainAct slab s)
def execMmArrive (slab : Nat) (s : State) : Host.Outcome State Fault Refusal := .next (fireRow 0 4 mmArriveAct slab s)

end Sys2Proof.Machine
end

