-- ==== Sys2Proof/Machine/Accum.lean ====
section
/-! DEFINITION. Accum.lean: the accumulator unit's own operations and the firing of coupled pairs (R76, R100, R104,
R109 to R111, R158). Counts and gated marks change at issue (R105, R156). -/

namespace Sys2Proof.Machine

/-- Values of a slot (R101). -/
def slotValues : Nat := 524288

/-- Change the slot of an accumulator operation; every value of it is written. -/
def State.rewriteSlot (s : State) (slab : Nat) (o : OpE) (f : AccSlot → AccSlot) : State :=
  let k := accSlot o.bits.toNat
  (s.modSlot o.part o.ctx slab k f).overwrite slab (inSlot o.part o.ctx slab k 0 slotValues)

/-- ACC_CLEAR (R104): every value +0, SAT clear. -/
def accClearAct (s : State) (slab : Nat) (o : OpE) : State :=
  s.rewriteSlot slab o fun b => { b with vals := [], sat := false }

/-- ACC_SATCLR. -/
def accSatclrAct (s : State) (slab : Nat) (o : OpE) : State :=
  s.modSlot o.part o.ctx slab (accSlot o.bits.toNat) fun b => { b with sat := false }

/-- Byte in the share of the hi values of the operation's long-sum entry (R110). -/
def State.entryAddr (s : State) (slab : Nat) (o : OpE) : Nat :=
  (((s.progOf o).bind fun g => g.region? 1 ((s.live? slab o.seq).map Live.img |>.getD 0)).map Prod.fst).getD 0
    + accArg o.bits.toNat * 2 ^ 22

/-- The FP32 words of a run of bytes. -/
def rowWordsOf (bs : List Byte) (n : Nat) : List Word := (elements bs 4 n).toList.map (BitVec.ofNat 32)

/-- The bytes of FP32 words. -/
def wordBytes (ws : List Word) : List Byte := ws.flatMap fun w => toLe 4 w.toNat

/-- hi, lo and the flags of an entry element after a value is added to it. -/
structure Pair where
  hi : Word
  lo : Word
  flags : Nat
  deriving DecidableEq, Repr, Inhabited

/-- A sum that is not finite (R111): saturated where its inputs are finite, else as it is; lo becomes +0. -/
def notFinite (e : Val) (t : Word) (nanIn : Bool) : Pair :=
  if e.isFin then { hi := BitVec.ofNat 32 (signBit fp32 e.neg? + fp32.maxBits), lo := 0, flags := flSat }
  else { hi := t, lo := 0, flags := if e.isNan && !nanIn then flNan else 0 }

/-- One element of ACC_SPILL (R111). -/
def spillOne (hi lo v : Word) : Pair :=
  let e := Val.add (valOf hi) (valOf v)
  let t : Word := BitVec.ofNat 32 (fp32.round e).1
  if !fin32 t then notFinite e t ((valOf hi).isNan || (valOf v).isNan) else
  let u := BitVec.ofNat 32 (fp32.round (Val.add (valOf lo) (Val.sub e (valOf t)))).1
  let e2 := Val.add (valOf t) (valOf u)
  let h : Word := BitVec.ofNat 32 (fp32.round e2).1
  if !fin32 h then notFinite e2 h ((valOf u).isNan) else
  { hi := h, lo := BitVec.ofNat 32 (fp32.round (Val.sub e2 (valOf h))).1, flags := 0 }

/-- ACC_SPILL (R111): the slot is added into the entry and becomes +0; extent and SAT stay, but for a saturation. -/
def accSpillAct (s : State) (slab : Nat) (o : OpE) : State :=
  let a := s.entryAddr slab o
  let k := accSlot o.bits.toNat
  s.withAcc slab o k 0 slotValues fun s =>
    s.withShare slab o [(a, 2 ^ 22)] fun s =>
      let hi := rowWordsOf (s.opBytes slab o a (2 ^ 21)) slotValues
      let lo := rowWordsOf (s.opBytes slab o (a + 2 ^ 21) (2 ^ 21)) slotValues
      let vs := Memory.read (s.slot o.part o.ctx slab k).vals 0 slotValues
      let ps := (hi.zip (lo.zip vs)).map fun x => spillOne x.1 x.2.1 x.2.2
      let m := marksOf (ps.zipIdx.map fun p => (sharePos (a + 4 * p.2), p.1.flags))
      let s1 := (s.opWrite slab o a (wordBytes (ps.map Pair.hi))).opWrite slab o (a + 2 ^ 21) (wordBytes (ps.map Pair.lo))
      (s1.rewriteSlot slab o fun b => { b with vals := [], sat := b.sat || bitOf m.flags 0 }).mark slab o 1 m false

/-- ACC_RESUME (R111): hi goes to the slot and becomes +0; lo stays. -/
def accResumeAct (s : State) (slab : Nat) (o : OpE) : State :=
  let a := s.entryAddr slab o
  s.withShare slab o [(a, 2 ^ 21)] fun s =>
    let hi := rowWordsOf (s.opBytes slab o a (2 ^ 21)) slotValues
    (s.opWrite slab o a (wordBytes (List.replicate slotValues 0))).rewriteSlot slab o fun b =>
      { b with vals := Memory.cells 0 hi }

def execAccClear (slab : Nat) (s : State) : Host.Outcome State Fault Refusal := .next (fireRow 1 1 accClearAct slab s)
def execAccSpill (slab : Nat) (s : State) : Host.Outcome State Fault Refusal := .next (fireRow 1 2 accSpillAct slab s)
def execAccResume (slab : Nat) (s : State) : Host.Outcome State Fault Refusal := .next (fireRow 1 3 accResumeAct slab s)
def execAccDrain (slab : Nat) (s : State) : Host.Outcome State Fault Refusal := .next (firePair 4 slab s)
def execAccGate (slab : Nat) (s : State) : Host.Outcome State Fault Refusal := .next (firePair 5 slab s)
def execAccSatclr (slab : Nat) (s : State) : Host.Outcome State Fault Refusal := .next (fireRow 1 6 accSatclrAct slab s)

end Sys2Proof.Machine
end

