-- ==== Sys2Proof/Machine/Av1.lean ====
section
/-! DEFINITION. Av1.lean: what chapter 16 lays down of the AV1 encoder (R423 to R425, R427 to R432, R434): the temporal
unit, the input frame, the frame header's fields, the references, rate control and motion search. The bits that the AV1
specification defines are Config's (log 10). -/

namespace Sys2Proof.Machine

open Sys2Proof.Config (EncSeq EncPlanes EncBlk EncMv EncRef EncHdr EncRow)

/-! ## The stream's parameters -/

/-- The stream's parameters in an encode parameter block (R424); c is not among them (R432). -/
def encSeq (p : List Byte) : EncSeq :=
  let d := numAt p 0 64
  { width := fld d 15 0, height := fld d 31 16, tenBit := bitOf d 32, mono := bitOf d 33, tcols := fld d 42 40
    trows := fld d 45 43, level := fld d 76 72 }

def encQidx (p : List Byte) : Nat := fld (numAt p 0 64) 55 48
def encCap (p : List Byte) : Nat := fld (numAt p 0 64) 127 96
def encSeqRep (p : List Byte) : Nat := fld (numAt p 0 64) 143 128

/-- The core of a session that encodes tile column j (R424). -/
def CodecSession.coreOf (c : CodecSession) (j : Nat) : Nat := nth c.cores (j % c.cores.length)

/-- The cores that a session's frame keeps at work: each of its tile columns has one (R424, R445). -/
def CodecSession.atWork (c : CodecSession) : List Nat :=
  if c.kind = 0 then (List.range (2 ^ (encSeq c.param).tcols)).map c.coreOf else c.cores

/-! ## The input frame (R425) -/

/-- A sample at a byte offset of an input frame: bits [15:10] of a 10-bit sample are ignored. -/
def encSample (tenBit : Bool) (bs : List Byte) (a : Nat) : Nat :=
  if tenBit then numAt bs a 2 % 2 ^ 10 else numAt bs a 1

/-- The samples of an input frame. -/
def encPlanes (p bs : List Byte) : EncPlanes :=
  let q := encSeq p
  let pitch := encLumaPitch p
  let bpp : Nat := if q.tenBit then 2 else 1
  let chroma : Nat → List Nat := fun part =>
    if q.mono then [] else
    (List.range (q.height / 2)).flatMap fun r => (List.range (q.width / 2)).map fun x =>
      encSample q.tenBit bs (pitch * q.height + r * pitch + (2 * x + part) * bpp)
  { y := (List.range q.height).flatMap fun r => (List.range q.width).map fun x => encSample q.tenBit bs (r * pitch + x * bpp)
    cb := chroma 0
    cr := chroma 1 }

/-- A 16-bit two's complement number. -/
def int16 (n : Nat) : Int := if n % 2 ^ 16 < 2 ^ 15 then n % 2 ^ 16 else (n % 2 ^ 16 : Int) - 2 ^ 16

/-- The hint of the 16 × 16 block that holds a luma sample: MVX and MVY, or nothing for MVX -32,768. -/
def encHint (p bs : List Byte) (x y : Nat) : Option (Int × Int) :=
  let pitch := roundUp (4 * ceilDiv (encSeq p).width 16) 512
  let e := numAt bs (encHintOfs p + y / 16 * pitch + 4 * (x / 16)) 4
  if int16 e = -32768 then none else some (int16 e, int16 (e / 2 ^ 16))

/-! ## The commit record and the header (R427, R428) -/

def recOf (d : List Byte) : Nat := numAt d 0 512
def recKey (r : Nat) : Bool := bitOf r 0
def recHint (r : Nat) : Bool := bitOf r 1
def recGm (r : Nat) : Bool := bitOf r 3
def recRefresh (r : Nat) : Nat := fld r 15 8
def recRefs (r : Nat) : Nat := fld r 23 16
def recHref (r : Nat) : Nat := fld r 34 32

/-- The quantiser at which a frame starts: QOV under QOVR, else QIDX (R429). -/
def recQ0 (p : List Byte) (r : Nat) : Nat := if bitOf r 2 then fld r 31 24 else encQidx p

/-- The slots that a set names, in ascending order. -/
def slotList (mask : Nat) : List Nat := (List.range 8).filter fun i => bitOf mask i

/-- The slots of LAST to ALTREF: those of REFS in ascending order, the last one repeated (R428). -/
def refSlots (refs : Nat) : List Nat :=
  let l := slotList refs
  (List.range 7).map fun i => l.getD i (l.getLastD 0)

/-- The slots that motion search uses (R428). -/
def searchSlots (refs : Nat) : List Nat := (slotList refs).take 3

/-- An encoder between frames: the reference slots and the frames coded (R428). -/
structure EncState where
  slots : List (Option EncRef)
  count : Nat
  deriving DecidableEq, Repr, Inhabited

def EncState.start : EncState := { slots := List.replicate 8 none, count := 0 }

/-- A frame is coded as a key frame: KEY is 1, it is the first, or REFS names no slot that holds a frame (R427). -/
def keyCoded (r count : Nat) (holds : Nat → Bool) : Bool := recKey r || count == 0 || !(slotList (recRefs r)).any holds

def EncState.keyFrame (e : EncState) (r : Nat) : Bool := keyCoded r e.count fun i => (nth e.slots i).isSome

/-- The frame's header (R423, R427 to R429). -/
def EncState.header (e : EncState) (p : List Byte) (r cap : Nat) : EncHdr :=
  let key := e.keyFrame r
  { key := key, refresh := if key then 0xFF else recRefresh r, slots := if key then [] else refSlots (recRefs r)
    order := e.count % 2 ^ 7, q0 := recQ0 p r, deltaQ := cap != 0 }

/-! ## Motion search (R431) -/

/-- A sample of a plane, its edges repeated outwards. -/
def planeAt (y : List Nat) (w h : Nat) (i j : Int) : Nat :=
  y.getD ((min (max j 0) ((h : Int) - 1)).toNat * w + (min (max i 0) ((w : Int) - 1)).toNat) 0

/-- A reference's luma at a position in eighths of a sample: a full sample is the frame's, any other is interpolated. -/
def refLuma (q : EncSeq) (f : EncRef) (x y : Int) : Nat :=
  if x % 8 = 0 && y % 8 = 0 then planeAt f.planes.y q.width q.height (x / 8) (y / 8) else Config.av1Sample q f x y

/-- The luma SAD of a block against a reference under a vector. -/
def lumaSad (q : EncSeq) (cur : EncPlanes) (f : EncRef) (b : EncBlk) (v : Int × Int) : Nat :=
  sumNat ((List.range b.h).map fun j => sumNat ((List.range b.w).map fun i =>
    let x : Int := b.x + i
    let y : Int := b.y + j
    ((planeAt cur.y q.width q.height x y : Int) - refLuma q f (8 * x + v.1) (8 * y + v.2)).natAbs))

/-- What decides between vectors: the SAD plus the estimated rate. -/
def mvCost (q : EncSeq) (cur : EncPlanes) (f : EncRef) (b : EncBlk) (coded : List EncMv) (v : Int × Int) : Nat :=
  lumaSad q cur f b v + Config.av1Rate coded v.1 v.2

/-- The vector of lowest cost, the first of them where costs are equal. -/
def cheapest (cost : Int × Int → Nat) : List (Int × Int) → Option (Int × Int)
  | [] => none
  | v :: t =>
    match cheapest cost t with
    | none => some v
    | some u => if cost v ≤ cost u then some v else some u

/-- The vector of the block that holds a sample. -/
def mvAt (l : List EncMv) (x y : Int) : Option (Int × Int) :=
  (l.find? fun m => decide ((m.blk.x : Int) ≤ x) && decide (x < m.blk.x + m.blk.w) && decide ((m.blk.y : Int) ≤ y)
    && decide (y < m.blk.y + m.blk.h)).map fun m => (m.mvx, m.mvy)

/-- A hint's component, clamped. -/
def clampHint (v : Int) : Int := min (max v (-16383)) 16383

/-- The candidates of a block toward a slot, in the order of R431: left, above and above-right neighbours already coded,
the vector stored with LAST's buffer at its place, the global translation, the hint. -/
def mvCandidates (p bs : List Byte) (r slot : Nat) (last : Option EncRef) (coded : List EncMv) (b : EncBlk) : List (Int × Int) :=
  ([mvAt coded ((b.x : Int) - 1) b.y, mvAt coded b.x ((b.y : Int) - 1), mvAt coded ((b.x : Int) + b.w) ((b.y : Int) - 1)
    , last.bind fun f => mvAt f.mvs b.x b.y
    , some (if recGm r then (int16 (fld r 79 64), int16 (fld r 95 80)) else (0, 0))
    , if recHint r && recHref r == slot then (encHint p bs b.x b.y).map fun h => (clampHint h.1, clampHint h.2) else none]).filterMap id

/-- The full-sample positions within ±16 samples of a vector, in raster order. -/
def fullAround (v : Int × Int) : List (Int × Int) :=
  let axis : Int → List Int := fun c => ((List.range 34).map fun (i : Nat) => (c / 8 + (i : Int) - 16) * 8).filter fun x =>
    decide (c - 128 ≤ x) && decide (x ≤ c + 128)
  (axis v.2).flatMap fun y => (axis v.1).map fun x => (x, y)

/-- The positions one step around a vector, itself among them, in raster order. -/
def stepAround (d : Int) (v : Int × Int) : List (Int × Int) :=
  [-d, 0, d].flatMap fun y => [-d, 0, d].map fun x => (v.1 + x, v.2 + y)

/-- The vector of a block toward a slot (R431): the cheapest candidate, refined to full, half, quarter and eighth samples.
DESIGN CHOICE, log 57: the candidate itself stands before the full-sample positions. -/
def searchSlot (cost : Int × Int → Nat) (cands : List (Int × Int)) : Int × Int :=
  let v0 := (cheapest cost cands).getD (0, 0)
  let v1 := (cheapest cost (v0 :: fullAround v0)).getD v0
  let v2 := (cheapest cost (stepAround 4 v1)).getD v1
  let v3 := (cheapest cost (stepAround 2 v2)).getD v2
  (cheapest cost (stepAround 1 v3)).getD v3

/-- The slot and vector of a block: the cheapest over the slots of the search, the lowest slot where costs are equal
(log 57). -/
def searchBlock (q : EncSeq) (p bs : List Byte) (r : Nat) (cur : EncPlanes) (refs : List (Option EncRef)) (coded : List EncMv)
    (b : EncBlk) : EncMv :=
  let tries := (searchSlots (recRefs r)).filterMap fun k => (nth refs k).map fun f =>
    let cost := mvCost q cur f b coded
    let v := searchSlot cost (mvCandidates p bs r k (nth refs (nth (refSlots (recRefs r)) 0)) coded b)
    (k, v, cost v)
  let best := tries.foldl (fun o t => match o with
    | some u => if t.2.2 < u.2.2 then some t else some u
    | none => some t) (none : Option (Nat × (Int × Int) × Nat))
  match best with
  | some t => { blk := b, slot := t.1, mvx := t.2.1.1, mvy := t.2.1.2 }
  | none => { blk := b, slot := 0, mvx := 0, mvy := 0 }

/-! ## Rate control (R429) -/

/-- R: superblock rows. -/
def sbRows (height : Nat) : Nat := ceilDiv height 64

def qMax (q0 : Nat) : Nat := 255 - (255 - q0) % 4

/-- The rise of the quantiser after a row whose projected size is p. -/
def qRise (cap p : Nat) : Nat :=
  if cap = 0 || p ≤ cap then 0 else if p ≤ cap + cap / 4 then 8 else if p ≤ cap + cap / 2 then 16 else 32

/-- The quantiser of row r + 1 from that of row r and B(r). -/
def qNext (q0 cap rows r b q : Nat) : Nat := Nat.min (q + qRise cap (b * rows / (r + 1))) (qMax q0)

/-- Bytes of a row's entropy coder output over all tiles. -/
def EncRow.bytes (x : EncRow) : Nat := sumNat (x.out.map List.length)

/-- What coding a frame needs. -/
structure EncJob where
  seq : EncSeq
  param : List Byte
  frame : List Byte
  record : Nat
  cap : Nat
  hdr : EncHdr
  cur : EncPlanes
  refs : List (Option EncRef)

/-- One row: its vectors, then its output at the row's quantiser (R429, R431). -/
def EncJob.row (j : EncJob) (done : List EncRow) (r : Nat) : EncRow :=
  let q := match done.getLast? with
    | none => j.hdr.q0
    | some x =>
      qNext j.hdr.q0 j.cap (sbRows j.seq.height) (r - 1)
        ((Config.av1Header j.seq j.hdr).length + sumNat (done.map EncRow.bytes)) x.q
  let before := (done.map fun x => x.mvs).flatten
  let mvs := if j.hdr.key then [] else
    (Config.av1Blocks j.seq j.hdr j.cur j.refs done r).foldl (fun l b =>
      l ++ [searchBlock j.seq j.param j.frame j.record j.cur j.refs (before ++ l) b]) []
  { q := q, mvs := mvs, out := Config.av1Row j.seq j.hdr j.cur j.refs done mvs q }

def EncJob.rows (j : EncJob) : List EncRow := (List.range (sbRows j.seq.height)).foldl (fun done r => done ++ [j.row done r]) []

/-! ## The temporal unit (R423) -/

/-- A number in the bitstream's little-endian base 128 form; `fuel` bounds its bytes. -/
def leb128 : Nat → Nat → List Byte
  | 0, _ => []
  | fuel + 1, n => if n < 128 then [BitVec.ofNat 8 n] else BitVec.ofNat 8 (n % 128 + 128) :: leb128 fuel (n / 128)

/-- An OBU with obu_has_size_field 1: types 1 sequence header, 2 temporal delimiter, 6 frame. -/
def obu (type : Nat) (payload : List Byte) : List Byte := BitVec.ofNat 8 (type * 8 + 2) :: leb128 8 payload.length ++ payload

/-- A sequence header comes before a frame: every key frame, every SEQREP-th frame, and the first frame of a command that
asks for one (R424, R434). -/
def EncState.wantsHeader (e : EncState) (p : List Byte) (key asked : Bool) : Bool :=
  key || asked || (encSeqRep p != 0 && e.count % encSeqRep p == 0)

/-- What coding a frame gives: the temporal unit, the frame's size. -/
structure EncOut where
  unit : List Byte
  size : Nat
  deriving DecidableEq, Repr, Inhabited

/-- Code one frame: (bytes, commit record, cap, header asked), from one state of the encoder to the next. The size of R430
is that of the OBU_FRAME's payload: DESIGN CHOICE, log 57. -/
def EncState.frame (e : EncState) (p : List Byte) (i : List Byte × List Byte × Nat × Bool) : EncState × EncOut :=
  let q := encSeq p
  let r := recOf i.2.1
  let h := e.header p r i.2.2.1
  let cur := encPlanes p i.1
  let rows := ({ seq := q, param := p, frame := i.1, record := r, cap := i.2.2.1, hdr := h, cur := cur, refs := e.slots : EncJob }).rows
  let payload := Config.av1Assemble q h rows
  let ref : EncRef := { planes := Config.av1Recon q h cur e.slots rows, mvs := (rows.map fun x => x.mvs).flatten, order := h.order }
  ({ slots := e.slots.zipIdx.map fun s => if bitOf h.refresh s.2 then some ref else s.1, count := e.count + 1 },
   { unit := obu 2 [] ++ (if e.wantsHeader p h.key i.2.2.2 then obu 1 (Config.av1SeqBits q) else []) ++ obu 6 payload
     size := payload.length })

/-- The encoder after the frames of a history, and what the last of them gave (R432). -/
def encodeAll (p : List Byte) (hist : List (List Byte × List Byte × Nat × Bool)) : EncState × EncOut :=
  hist.foldl (fun x i => x.1.frame p i) (EncState.start, { unit := [], size := 0 })

end Sys2Proof.Machine
end

