-- ==== Sys2Proof/Machine/Codec.lean ====
section
/-! DEFINITION. Codec.lean: the video codec cluster: CODEC_OPEN, CODEC_CLOSE, CODEC_ENCODE, CODEC_DECODE, the frame sink
and the frame events (R418 to R445). What the cores compute from a stream is Config's (log 10). -/

namespace Sys2Proof.Machine

/-! ## Parameter blocks -/

/-- The encode parameter block keeps the ranges of R424. -/
def encParamOk (p : List Byte) : Bool :=
  let d := numAt p 0 64
  let w := fld d 15 0
  let h := fld d 31 16
  let c := fld d 37 36 + 1
  let tc := fld d 42 40
  let tr := fld d 45 43
  let tileW := Nat.min w (64 * ceilDiv (ceilDiv w 64) (2 ^ tc))
  let tileH := Nat.min h (64 * ceilDiv (ceilDiv h 64) (2 ^ tr))
  let level := fld d 76 72
  let cap := fld d 127 96
  decide (16 ≤ w) && decide (w ≤ 8192) && w % 2 == 0 && decide (16 ≤ h) && decide (h ≤ 4352) && h % 2 == 0
    && fld d 35 34 == 0 && fld d 39 38 == 0 && decide (tc ≤ 4) && decide (tr ≤ 4) && fld d 47 46 == 0
    && fld d 55 48 != 0 && decide (2 ≤ fld d 59 56) && decide (fld d 59 56 ≤ 4) && fld d 63 60 == 0
    && fld d 71 67 == 0 && (decide (level ≤ 23) || level == 31) && fld d 95 77 == 0
    && (cap == 0 || decide (4096 ≤ cap)) && fld d 511 144 == 0
    && 2 ^ tc % c == 0 && decide (tileW ≤ 4096) && decide (tileW * tileH ≤ 4096 * 2304)

/-- The decode parameter block keeps the ranges of R437. -/
def decParamOk (p : List Byte) : Bool :=
  let d := numAt p 0 64
  decide (16 ≤ fld d 15 0) && decide (fld d 15 0 ≤ 16384) && decide (16 ≤ fld d 31 16) && decide (fld d 31 16 ≤ 16384)
    && fld d 39 33 == 0 && fld d 47 43 == 0 && decide (1 ≤ fld d 55 48) && decide (fld d 55 48 ≤ 64) && fld d 511 56 == 0

/-- Home slab of a parameter block (R424, R437). -/
def codecHome (kind : Nat) (p : List Byte) : Nat := if kind = 0 then fld (numAt p 0 64) 66 64 else fld (numAt p 0 64) 42 40

/-- Cores that a session binds (R418). -/
def codecCores (kind : Nat) (p : List Byte) : Nat := if kind = 0 then fld (numAt p 0 64) 37 36 + 1 else 1

def State.session? (s : State) (h : Nat) : Option CodecSession := s.codec.sessions.find? fun c => c.handle == h

def State.modSession (s : State) (h : Nat) (g : CodecSession → CodecSession) : State :=
  s.setCodec { s.codec with sessions := modWhere s.codec.sessions (fun c => c.handle == h) g }

/-- Change some of the cores. -/
def State.modCores (s : State) (on : List Nat) (g : Core → Core) : State :=
  s.setCodec { s.codec with cores := s.codec.cores.zipIdx.map fun k => if on.contains k.2 then g k.1 else k.1 }

/-- The free cores of a kind in an order that is a free choice (log 16). -/
def State.freeCores (s : State) (encode : Bool) : List Nat :=
  sortBy (fun i => Config.freeNat (s.free + i))
    (([0, 1, 2, 3].map fun i => if encode then i else i + 4).filter fun i => (nth s.codec.cores i).holder == 0)

/-- The largest HBM_SHARE declared by a program in a context of the partition that spans a slab (R420). -/
def Part.declaredOn (p : Part) (slab : Nat) : Nat :=
  maxNat ((p.ctxs.filter fun c => c.slabs.contains slab).map fun c => (c.prog.map fun g => g.geom.hbm).getD 0)

/-- CODEC_OPEN (R418 to R422). -/
def codecOpen (s : State) (f : Flight) : State :=
  let kind := f.arg 0 1
  if 2 < kind then s.failCmd f .argRange
  else if f.arg 16 4 ≠ 64 then s.failCmd f .codecParam else
  match s.hostIn f f.cmd.code 1 (f.arg 8 8) 64 with
  | (s, .error e) => s.failCmd f e
  | (s, .ok p) =>
    let home := codecHome kind p
    let n := codecCores kind p
    let q := s.part f.fn
    if !(if kind = 0 then encParamOk p else decParamOk p) then s.failCmd f .codecParam
    else if (if kind = 0 then q.q.enc else q.q.dec) < s.coresHeld f.fn (kind == 0) + n then s.failCmd f .codecBusy
    else if s.framesFree f.fn home < codecFrames kind p then s.failCmd f .quota
    else if q.quotaOn home Quota.hbm - s.codecReserve f.fn home < 8 + q.declaredOn home then s.failCmd f .quota
    else
      let cores := (s.freeCores (kind == 0)).take n
      let (h, s1) := (s.setFree (s.free + 8)).newHandle
      let c : CodecSession :=
        { handle := h, part := f.fn, kind := kind, param := p, cores := cores, home := home, filling := [], committed := []
          marks := List.replicate 9 0, history := [], running := false, output := [], capped := [], done := 0
          input := [], consumed := 0, index := 0, damaged := []
          slots := List.replicate 16 none, waiting := [], ready := [], good := none }
      let held : List Core := s1.codec.cores.zipIdx.map fun k =>
        if cores.contains k.2 then { k.1 with holder := h, part := f.fn, running := false } else k.1
      (s1.setCodec { cores := held, sessions := s1.codec.sessions ++ [c] }).okCmd f h

/-- The open session of the partition that a handle names. -/
def State.ownSession (s : State) (p h : Nat) : Option CodecSession := (s.session? h).filter fun c => c.part == p

/-- The commands of a session in flight (R421). -/
def State.codecCmds (s : State) (p h : Nat) : List Flight :=
  s.flights.filter fun g => g.fn == p && (decide (g.cmd = .codecEncode) || decide (g.cmd = .codecDecode))
    && (s.meant g).any fun m => m.arg 0 4 == h

def State.codecInFlight (s : State) (p h : Nat) : Bool := !(s.codecCmds p h).isEmpty

/-- The command that a session works on, or is to work on: its first, by SEQ, that has not ended, once it has started
(R421). -/
def State.codecTurn (s : State) (c : CodecSession) : Option Flight :=
  (leastBy Flight.seq ((s.codecCmds c.part c.handle).filter fun g => decide (g.phase ≠ .done))).filter fun g => decide (g.phase = .busy)

/-- CODEC_CLOSE (R421). -/
def codecClose (s : State) (f : Flight) : State :=
  match s.ownSession f.fn (f.arg 0 4) with
  | none => s.failCmd f .handleBad
  | some c =>
    if s.codecInFlight f.fn c.handle then s.failCmd f .codecBusy else
    let s1 := s.modCores c.cores fun k => { k with holder := 0, part := 0, running := false }
    (s1.setCodec { s1.codec with sessions := s1.codec.sessions.filter fun x => x.handle != c.handle }).okCmd f

/-! ## The frame sink (R425, R426) -/

/-- The open encode session of a partition that a SPACE 0x4 address names (R426). -/
def State.sink? (s : State) (p h : Nat) : Option CodecSession := (s.ownSession p h).filter fun c => c.kind == 0

/-- Bytes [a, a + n) lie in the input frame or are the commit record (R426). -/
def CodecSession.sinkFits (c : CodecSession) (a n : Nat) : Bool :=
  decide (a + n ≤ encFrameBytes c.param) || (a == commitOfs && n == 512)

/-- Every input buffer is committed and not yet consumed (R426). -/
def CodecSession.sinkFull (c : CodecSession) : Bool := decide (fld (numAt c.param 0 64) 59 56 ≤ c.committed.length)

/-- Write bytes to the sink: the commit record commits the fill buffer (R426). -/
def CodecSession.sinkWrite (c : CodecSession) (a : Nat) (bs : List Byte) : CodecSession :=
  if a = commitOfs then { c with filling := [], committed := c.committed ++ [(c.filling, bs)] }
  else { c with filling := Memory.write c.filling a bs }

/-! ## Encoding -/

/-- CODEC_ENCODE up to the wait for its frames (R433, R434). -/
def codecEncode (s : State) (f : Flight) : State :=
  let n := f.arg 4 2
  let out := f.arg 8 8
  let ctl := f.arg 24 8
  let cap := fld ctl 31 0
  if n = 0 || 256 < n || !bufOk out (f.arg 16 4) then s.failCmd f .argRange else
  match s.sink? f.fn (f.arg 0 4) with
  | none => s.failCmd f .handleBad
  | some c =>
    if (cap != 0 && decide (cap < 4096)) || fld ctl 63 33 != 0 then s.failCmd f .codecParam
    else if out = 0 && s.heldFull f.fn 1 then s.failCmd f .heldFull
    else s.busyCmd f [c.handle]

/-- Keep an output on the home slab under handle SEQ × 16 (R387, R433): the code where it cannot be held. -/
def State.holdOutput (s : State) (f : Flight) (c : CodecSession) (bs : List Byte) : Except St State :=
  if 1024 ≤ (s.part f.fn).held.length then .error .heldFull
  else if s.framesFree f.fn c.home < ceilDiv bs.length frameBytes then .error .quota
  else .ok (s.modPart f.fn fun q => { q with held := q.held ++ [{ handle := f.seq * 16, slab := c.home, bytes := bs }] })

/-- End a CODEC_ENCODE: its output is written or held (R433), with the code of R430, R427 or R433. `bad` is the index of
a frame whose commit record is refused. -/
def State.finishEncode (s : State) (f : Flight) (c : CodecSession) (bad : Option Nat) : State :=
  let bs := c.output
  let out := f.arg 8 8
  let len := f.arg 16 4
  let code : St × Nat × Nat :=
    match bad with
    | some i => (.codecParam, i % 65536, 0xFFFFFFFF)
    | none =>
      if out ≠ 0 && decide (len < bs.length) then (.outShort, f.seq * 16 % 2 ^ 32, len)
      else match c.capped with
      | [] => (.ok, 0, 0)
      | (i, n) :: t => (.frameCap, i % 65536 + Nat.min 65535 (t.length + 1) * 65536, n % 2 ^ 32)
  let s1 := s.modSession c.handle fun x => { x with running := false, output := [], capped := [], done := 0 }
  let hold := out = 0 || decide (len < bs.length)
  let fin : State → List OutBuf → State := fun s outs =>
    s.modFlight f.seq fun g =>
      { g with
        status := code.1
        phase := .done
        value := bs.length
        detail0 := code.2.1
        detail1 := code.2.2
        outs := outs }
  if hold then
    (if bs = [] then fin s1 []
     else match s1.holdOutput f c bs with
      | .error e => s1.failCmd f e
      | .ok s2 => fin s2 [])
  else fin s1 [{ addr := out, len := len, bytes := bs, index := 1, epoch := bad.isNone }]

/-- The commit record of R427 is legal. -/
def commitOk (d : List Byte) : Bool :=
  let r := numAt d 0 512
  fld r 7 4 == 0 && fld r 63 35 == 0 && fld r 4095 96 == 0 && (!bitOf r 2 || fld r 31 24 != 0)

/-- ENCODE_FRAME_START (R427, R433, R435). -/
def encodeFrameStart (h : Nat) (s : State) : State :=
  match s.session? h with
  | none => s
  | some c =>
    match s.codecTurn c, c.committed with
    | some f, (_, rec) :: _ =>
      if !s.running || c.running then s
      else if !commitOk rec then s.finishEncode f c (some c.done)
      else (s.modSession h fun x => { x with running := true }).modCores c.atWork fun k => { k with running := true }
    | _, _ => s

/-- The reference slots that hold a frame (R428). -/
def CodecSession.slotsHeld (c : CodecSession) : Nat := c.marks.foldl (· ||| ·) 0

/-- REFRESH of a frame: 0xFF for a key frame (R427). -/
def CodecSession.refresh (c : CodecSession) (rec : List Byte) : Nat :=
  if keyCoded (recOf rec) c.history.length (bitOf c.slotsHeld) then 0xFF else recRefresh (recOf rec)

/-- The marks after a frame that refreshes `m`: its slots leave their buffers and join the first free one (R428). -/
def moveMarks (marks : List Nat) (m : Nat) : List Nat :=
  let free := ((List.range marks.length).find? fun i => nth marks i == 0).getD 0
  modAt (marks.map fun x => x - (x &&& m)) free fun _ => m

/-- ENCODE_FRAME_END (R428 to R430, R433). -/
def encodeFrameEnd (h : Nat) (s : State) : State :=
  match s.session? h with
  | none => s
  | some c =>
    match s.codecTurn c, c.committed with
    | some f, (mem, rec) :: rest =>
      if !s.running || !c.running then s else
      let ctl := f.arg 24 8
      let cap := if fld ctl 31 0 = 0 then fld (numAt c.param 0 64) 127 96 else fld ctl 31 0
      let hist := c.history ++ [(Memory.read mem 0 (encFrameBytes c.param), rec, cap, bitOf ctl 32 && c.done == 0)]
      let x := (encodeAll c.param hist).2
      let capHit : Bool := cap != 0 && decide (cap < x.size)
      let c2 : CodecSession :=
        { c with
          committed := rest
          marks := moveMarks c.marks (c.refresh rec)
          history := hist
          running := false
          output := c.output ++ x.unit
          capped := if capHit then c.capped ++ [(c.done, x.size)] else c.capped
          done := c.done + 1 }
      let s1 := s.modSession h fun _ => c2
      let s2 := s1.modCores c.atWork fun k =>
        { k with running := false, frames := satInc k.frames (2 ^ 32 - 1) 1, marked := satInc k.marked 65535 (boolNat capHit) }
      if c2.done = f.arg 4 2 then s2.finishEncode f c2 none else s2
    | _, _ => s

/-! ## Decoding -/

/-- Bytes of one decoded frame's place: F of R438. -/
def decFrameBytes (p : List Byte) : Nat :=
  let d := numAt p 0 64
  let w := fld d 15 0
  let h := fld d 31 16
  512 + roundUp (w * h * 2) 512 + 2 * roundUp (ceilDiv w 2 * ceilDiv h 2 * 2) 512

def frMax (p : List Byte) : Nat := fld (numAt p 0 64) 55 48

/-- A CODEC_DECODE becomes its session's command: its input is read (R439), with injection 0x0801. `waits` then holds the
session, the bytes consumed before, and 1 + the offset of an inverted byte. -/
def State.startDecode (s : State) (f : Flight) (c : CodecSession) : State :=
  let n := f.arg 16 4
  match (if n = 0 then (s, .ok []) else s.hostIn f f.cmd.code 1 (f.arg 8 8) n) with
  | (s, .error e) => s.failCmd f e
  | (s, .ok bs) =>
    let (o, s1) := s.opportunity 0x0801 fun a => a.onPart c.part && fld a.param 31 0 == c.handle && decide (fld a.param 63 32 < bs.length)
    let at0 := (o.map fun a => fld a.param 63 32)
    let bs1 := match at0 with | some i => modAt bs i fun b => ~~~b | none => bs
    let s2 := s1.modSession c.handle fun x =>
      { x with running := true, done := 0, damaged := [], input := x.input.take x.consumed ++ bs1 }
    (s2.modCores c.cores fun k => { k with running := true }).busyCmd f
      [c.handle, c.consumed, (at0.map fun i => i + 1).getD 0]

/-- Give the session to its next command: one whose input cannot be read fails, and the one after it comes; one that needs
host memory waits while its function sends no request (R347). `fuel` bounds the commands. -/
def State.nextDecode (s : State) (h : Nat) : Nat → State
  | 0 => s
  | fuel + 1 =>
    match s.session? h with
    | none => s
    | some c =>
      match s.codecTurn c with
      | none => s
      | some f =>
        if c.running || (f.arg 16 4 != 0 && !(s.fn f.fn).masters) then s else (s.startDecode f c).nextDecode h fuel

/-- Give every decode session of a function that is not at work to its next command. -/
def State.nextDecodes (s : State) (fn : Nat) : State :=
  (s.codec.sessions.filter fun c => c.part == fn && c.kind != 0).foldl (fun s c => s.nextDecode c.handle s.flights.length) s

/-- CODEC_DECODE up to its frames (R436 to R439). -/
def codecDecode (s : State) (f : Flight) : State :=
  let slab := f.arg 6 1
  if s.slabCount ≤ slab then s.failCmd f .argRange else
  match s.needCtx f.fn (f.arg 4 2) with
  | .error e => s.failCmd f e
  | .ok x =>
    match (s.ownSession f.fn (f.arg 0 4)).filter fun c => c.kind != 0 with
    | none => s.failCmd f .handleBad
    | some c =>
      if (x.onSlab? slab).isNone || decide (x.shareBytes < f.arg 20 4 * 512 + frMax c.param * decFrameBytes c.param) then
        s.failCmd f .xfRange
      else if x.st ≠ .resident || x.switching ≠ .none then s.failCmd f .ctxBusy
      else
        let s1 := s.busyCmd f [c.handle]
        s1.nextDecode c.handle s1.flights.length

/-- A sample as it lies in the share (R438): FMT 0 is v / (2^depth - 1) in BF16, FMT 1 the value. -/
def sampleBytes (fmt1 ten : Bool) (v : Nat) : List Byte :=
  if fmt1 then toLe 2 v else
  let q := Val.div (.fin false v 0) (.fin false ((if ten then 1024 else 256) - 1) 0)
  toLe 2 (bf16.round q.1 q.2).1

/-- Width and height of a plane: the luma plane, or a chroma plane of 4:2:0. -/
def planeSize (w h : Nat) (chroma : Bool) : Nat × Nat := if chroma then (ceilDiv w 2, ceilDiv h 2) else (w, h)

/-- The sample of the most recent good reference at a place, mid-grey with none (R442). DESIGN CHOICE, log 59: mid-grey too
where that reference has another depth, or does not reach the place. -/
def goodSample (good : Option Pic) (ten chroma : Bool) (plane : Pic → List Nat) (x y : Nat) : Nat :=
  let grey := if ten then 512 else 128
  match good with
  | none => grey
  | some g =>
    let (w, h) := planeSize g.width g.height chroma
    if g.tenBit = ten && decide (x < w) && decide (y < h) then (plane g).getD (y * w + x) grey else grey

/-- A plane after concealment (R442): `whole` says of each superblock of the 64 × 64 grid whether it was reconstructed. -/
def concealPlane (w h : Nat) (chroma ten : Bool) (good : Option Pic) (get : Pic → List Nat) (whole : List Bool)
    (plane : List Nat) : List Nat :=
  let (pw, ph) := planeSize w h chroma
  let k := if chroma then 32 else 64
  (List.range (pw * ph)).map fun i =>
    if whole.getD (i / pw / k * ceilDiv w 64 + i % pw / k) false then plane.getD i 0
    else goodSample good ten chroma get (i % pw) (i / pw)

/-- The three planes after concealment. -/
def concealPic (w h : Nat) (ten mono : Bool) (good : Option Pic) (whole : List Bool) (p : Config.EncPlanes) : Config.EncPlanes :=
  let c := fun ch get => concealPlane w h ch ten good get whole
  { y := c false (fun g => g.planes.y) p.y
    cb := if mono then [] else c true (fun g => g.planes.cb) p.cb
    cr := if mono then [] else c true (fun g => g.planes.cr) p.cr }

/-- The bytes of a frame: its record and planes (R438), with film grain where it has any (R436). -/
def frameBytesOf (p : List Byte) (d : Pic) (index : Nat) : List Byte :=
  let fmt1 := bitOf (numAt p 0 64) 32
  let plane : List Nat → List Byte := fun l =>
    let b := (l.map (sampleBytes fmt1 d.tenBit)).flatten
    bytesAt b 0 (roundUp b.length 512)
  let rec0 := d.width % 65536 + d.height % 65536 * 2 ^ 16 + boolNat d.tenBit * 2 ^ 32 + boolNat d.mono * 2 ^ 33
    + boolNat d.hurt * 2 ^ 34 + index % 2 ^ 64 * 2 ^ 64
  let x := if d.grain = [] then d.planes else Config.filmGrain d.grain d.planes
  toLe 512 rec0 ++ plane x.y ++ (if d.mono then [] else plane x.cb ++ plane x.cr)

/-- End the session's command and give the session to the next (R421, R439, R443). -/
def State.finishDecode (s : State) (f : Flight) (c : CodecSession) : State :=
  let start := f.waits.getD 1 0
  let det : St × Nat × Nat :=
    match c.damaged with
    | [] => (.ok, 0, 0)
    | (i, k, a) :: t => (.bitstream, i % 65536 + k % 256 * 2 ^ 16 + Nat.min 255 (t.length + 1) * 2 ^ 24, a % 2 ^ 32)
  let s1 := (s.modSession c.handle fun x => { x with running := false }).modCores c.cores fun k => { k with running := false }
  let s2 := s1.modFlight f.seq fun g =>
    { g with
      status := det.1
      phase := .done
      value := c.done % 65536 + (c.consumed - start) % 2 ^ 32 * 2 ^ 32
      detail0 := det.2.1
      detail1 := det.2.2 }
  s2.nextDecode c.handle s2.flights.length

/-! ### What the core accepts (R436) -/

/-- AV1 Main profile up to level 6.3, 4:0:0 or 4:2:0; HEVC Main and Main 10 up to level 6.2, 4:2:0; 8 or 10 bits (R436). -/
def streamOk (kind : Nat) (d : Config.PicHdr) : Bool :=
  (d.depth == 8 || d.depth == 10) &&
    (if kind = 1 then d.profile == 0 && decide (d.level ≤ 19) && decide (d.chroma ≤ 1)
     else (d.profile == 1 || d.profile == 2) && decide (d.level ≤ 186) && d.chroma == 1)

/-- A frame's size lies within the pool's buffers and the limit of R436. -/
def frameFits (p : List Byte) (d : Config.PicHdr) : Bool :=
  d.sized && decide (d.width ≤ fld (numAt p 0 64) 15 0) && decide (d.height ≤ fld (numAt p 0 64) 31 16)
    && decide (d.width * d.height ≤ 35651584)

/-- Class of a frame's damage, 0 for none (R442, R443). DEDUCED, log 27: the budget first, then what breaks the standard,
the limits, a missing reference. -/
def CodecSession.damageOf (c : CodecSession) (d : Config.PicHdr) (late : Bool) : Nat :=
  if late then 7
  else if d.broken ≠ 0 then Nat.min 8 d.broken
  else if d.existing.isNone && !(streamOk c.kind d && frameFits c.param d) then 6
  else if d.refs.any fun i => (nth c.slots i).isNone then 5
  else 0

/-- Where the next temporal delimiter (AV1) or start code (HEVC) stands from a place on, or the end of the input (R442). -/
def resyncAt (kind : Nat) (bs : List Byte) (a : Nat) : Nat :=
  let mark : List Byte := if kind = 1 then [0x12, 0x00] else [0x00, 0x00, 0x01]
  ((List.range (bs.length - a)).find? fun i => (bs.drop (a + i)).take mark.length == mark).elim bs.length fun i => a + i

/-! ### Frames on their way out (R436) -/

/-- The picture of lowest output order. -/
def lowestPic : List Pic → Option Pic
  | [] => none
  | a :: t =>
    match lowestPic t with
    | none => some a
    | some b => if b.order < a.order then some b else some a

/-- Release pictures in output order until at most `keep` wait. -/
def CodecSession.bump (c : CodecSession) (keep : Nat) : Nat → CodecSession
  | 0 => c
  | fuel + 1 =>
    match lowestPic c.waiting with
    | none => c
    | some p =>
      if c.waiting.length ≤ keep then c
      else ({ c with waiting := c.waiting.erase p, ready := c.ready ++ [p] } : CodecSession).bump keep fuel

/-- Every frame still held for output is released (R436). -/
def CodecSession.flush (c : CodecSession) : CodecSession := c.bump 0 c.waiting.length

/-- A frame takes its place in output order: AV1 frames as shown, HEVC frames as the bumping process releases them
(R436). -/
def CodecSession.queueOut (c : CodecSession) (d : Config.PicHdr) (pic : Option Pic) : CodecSession :=
  if c.kind = 1 then { c with ready := c.ready ++ pic.toList } else
  let c1 := if d.flush then c.flush else c
  let c2 : CodecSession := { c1 with waiting := c1.waiting ++ pic.toList }
  c2.bump d.reorder c2.waiting.length

/-- Write released frames, at most FRMAX in a command (R438, R439). -/
def State.writeReady (s : State) (f : Flight) (h : Nat) : Nat → State
  | 0 => s
  | fuel + 1 =>
    match s.session? h with
    | none => s
    | some c =>
      match c.ready with
      | [] => s
      | pic :: t =>
        if frMax c.param ≤ c.done then s else
        let s1 := s.modSession h fun x =>
          { x with
            ready := t
            done := c.done + 1
            index := c.index + 1 }
        (s1.writeShare c.part (f.arg 4 2) (f.arg 6 1) (f.arg 20 4 * 512 + c.done * decFrameBytes c.param)
          ((frameBytesOf c.param pic c.index).take (decFrameBytes c.param))).writeReady f h fuel

/-- What a frame is once decoded and concealed: nothing where its size could not be parsed or does not fit (R442). -/
def CodecSession.picture (c : CodecSession) (d : Config.PicHdr) (cls : Nat) (late : Bool) : Option Pic :=
  match d.existing with
  | some i => nth c.slots i
  | none =>
    if !frameFits c.param d then none else
    let ten := decide (d.depth = 10)
    let mono := decide (d.chroma = 0)
    let (p, whole) := Config.picRecon c.kind c.input c.consumed (c.slots.map fun o => o.map fun x => x.planes) late
    let whole := if cls = 6 then [] else if cls = 0 then List.replicate (ceilDiv d.width 64 * ceilDiv d.height 64) true else whole
    some { width := d.width, height := d.height, tenBit := ten, mono := mono, grain := d.grain, order := d.order
           planes := concealPic d.width d.height ten mono c.good whole p, hurt := cls != 0 }

/-- The session after one frame (R436, R442): a damaged frame keeps its reference role; one that gives no picture leaves its
slots without a frame (log 59). -/
def CodecSession.decoded (c : CodecSession) (d : Config.PicHdr) (cls at0 upto : Nat) (late : Bool) : CodecSession :=
  let pic := c.picture d cls late
  let c1 : CodecSession :=
    { c with
      consumed := upto
      damaged := if cls = 0 then c.damaged else c.damaged ++ [(c.done, cls, at0)]
      slots := c.slots.zipIdx.map fun x => if d.refresh.contains x.2 then pic else x.1
      good := if cls = 0 && !d.refresh.isEmpty then pic else c.good }
  c1.queueOut d (if d.shown then pic else none)

/-- The next frame of a decode ends (R438 to R443); `late` when it exceeded its budget. A budget may expire anywhere in its
frame: a free place (log 11). -/
def State.nextFrame (s : State) (f : Flight) (c : CodecSession) (d : Config.PicHdr) (late : Bool) : State :=
  let (o, s0) := s.opportunity 0x0802 fun a => a.onPart c.part && fld a.param 31 0 == c.handle
  let late := late || o.isSome
  let start := f.waits.getD 1 0
  let cls := c.damageOf d late
  let unit := if late then d.brokenAt + Config.freeNat s0.free % (d.consumed - d.brokenAt + 1) else d.brokenAt
  let past := if cls = 0 then d.consumed
    else resyncAt c.kind c.input (if cls ≤ 4 || cls = 8 then d.brokenAt + 1 else d.consumed)
  let upto := Nat.min c.input.length (Nat.max (c.consumed + 1) past)
  let at0 := Nat.min (f.arg 16 4) (unit - start)
  let hurt := f.waits.getD 2 0
  let inj := o.isSome || (hurt != 0 && decide (c.consumed < start + hurt) && decide (start + hurt ≤ upto))
  let s1 := (nextFree s0 1).modSession c.handle fun _ => c.decoded d cls at0 upto late
  let s2 := s1.modCores c.cores fun k =>
    { k with frames := satInc k.frames (2 ^ 32 - 1) 1, marked := satInc k.marked 65535 (boolNat (cls != 0)) }
  let s3 := if cls = 0 then s2 else
    s2.emit [c.part] (unitEvent s2 .bitstream c.part 0xF 0xD c.handle (cls + c.index % 2 ^ 24 * 256) at0 inj)
  s3.writeReady f c.handle (frMax c.param)

/-- The next step of a decode: frames that an earlier command released come first; where no whole frame remains, a command
with INLEN 0 flushes, and the command ends; so it does with FRMAX frames written (R436, R439). -/
def State.decodeFrame (s : State) (f : Flight) (h : Nat) (late : Bool) : State :=
  let s := s.writeReady f h 64
  match s.session? h with
  | none => s
  | some c =>
    if frMax c.param ≤ c.done then s.finishDecode f c else
    let last := f.arg 16 4 == 0
    let d := Config.picHeader c.kind c.input c.consumed last
    if d.none || decide (c.input.length ≤ c.consumed) then
      let s1 := (if last then s.modSession h CodecSession.flush else s).writeReady f h 64
      match s1.session? h with
      | some c1 => s1.finishDecode f c1
      | none => s1
    else
      let s1 := s.nextFrame f c d late
      match s1.session? h with
      | some c1 => if frMax c1.param ≤ c1.done then s1.finishDecode f c1 else s1
      | none => s1

/-- A decode frame ends: with no command left, one that a context fault ended, the session stops (R440). -/
def State.decodeStep (s : State) (h : Nat) (late : Bool) : State :=
  match s.session? h with
  | none => s
  | some c =>
    if !s.running || !c.running || c.kind == 0 then s else
    match s.flights.find? fun g => decide (g.cmd = .codecDecode) && decide (g.phase = .busy) && g.waits.headD 0 == h && g.waits.length == 3 with
    | some f => s.decodeFrame f h late
    | none =>
      let s1 := (s.modSession h fun x => { x with running := false }).modCores c.cores fun k => { k with running := false }
      s1.nextDecode h s1.flights.length

/-- DECODE_FRAME_END (R438 to R441). -/
def decodeFrameEnd (h : Nat) (s : State) : State := s.decodeStep h false

/-- DECODE_BUDGET_EXPIRE (R442). -/
def decodeBudgetExpire (h : Nat) (s : State) : State := s.decodeStep h true

/-! ## Loss of the partition's key (R419) -/

/-- Samples of a frame buffer whose key has gone. -/
def freePlanes (d : Nat) (p : Config.EncPlanes) : Config.EncPlanes :=
  let free := fun k (l : List Nat) => (List.range l.length).map fun i => numAt (freeBytes (d + k) (2 * l.length)) (2 * i) 2
  { y := free 0 p.y, cb := free 1 p.cb, cr := free 2 p.cr }

def Pic.scramble (p : Pic) (d : Nat) : Pic := { p with planes := freePlanes d p.planes }

/-- What a session holds in HBM after the partition's key pair has gone: free bytes (R296, R419, log 11). `d` is the first
of its draws. The frames that the reconstruction buffers hold stand as the history that they come from. -/
def CodecSession.scramble (c : CodecSession) (d : Nat) : CodecSession :=
  let size := encFrameBytes c.param
  let frames := d + 512
  let buffers := frames + c.history.length
  { c with
    filling := Memory.write [] 0 (freeBytes d size)
    committed := c.committed.zipIdx.map fun x =>
      (Memory.write [] 0 (freeBytes (buffers + 2 * x.2) size), freeBytes (buffers + 2 * x.2 + 1) 512)
    history := c.history.zipIdx.map fun x => (freeBytes (frames + x.2) x.1.1.length, x.1.2)
    slots := c.slots.zipIdx.map fun x => x.1.map fun p => p.scramble (d + 4 + 3 * x.2)
    waiting := c.waiting.zipIdx.map fun x => x.1.scramble (d + 64 + 3 * x.2)
    ready := c.ready.zipIdx.map fun x => x.1.scramble (d + 256 + 3 * x.2)
    good := c.good.map fun p => p.scramble (d + 1) }

/-- The frame buffers of a partition's sessions after its key pair has gone (R419). -/
def State.scrambleCodec (s : State) (p : Nat) : State :=
  (s.codec.sessions.filter fun c => c.part == p).foldl (fun s c =>
    (s.modSession c.handle fun x => x.scramble s.free).setFree (s.free + 512 + c.history.length + 2 * c.committed.length)) s

def execEncodeFrameStart (session : Nat) (s : State) : Host.Outcome State Fault Refusal := .next (encodeFrameStart session s)
def execEncodeFrameEnd (session : Nat) (s : State) : Host.Outcome State Fault Refusal := .next (encodeFrameEnd session s)
def execDecodeFrameEnd (session : Nat) (s : State) : Host.Outcome State Fault Refusal := .next (decodeFrameEnd session s)
def execDecodeBudgetExpire (session : Nat) (s : State) : Host.Outcome State Fault Refusal := .next (decodeBudgetExpire session s)

end Sys2Proof.Machine
end

