-- ==== Sys2Proof/Machine/VectorA.lean ====
section
/-! DEFINITION. VectorA.lean: the operations of vector A: element-wise operations, conversion, dither, reductions,
convolution, loads and stores, epilogues and online softmax (R136, R137, R149 to R163, R171 to R182, R194 to R197). -/

namespace Sys2Proof.Machine

/-! ## Element-wise operations (R175 to R178) -/

/-- The elements of n registers from register g, in the order e = 1024 t + 32 i + j. -/
def Slab.band (b : Slab) (g n : Nat) : Array Word := (Memory.read b.regs (g * 1024) (1024 * n)).toArray

/-- The second operand of R176 for element e. -/
def secondOperand (x : Nat) (src2 : Array Word) (e : Nat) : Word :=
  match fld (vAux x) 1 0 with
  | 0 => src2.getD e 0
  | 1 => widen bf16 (vImm x)
  | 2 => src2.getD (e / 32 % 32 * 32 + fld (vAux x) 7 3) 0
  | _ => src2.getD (e / 1024 * 1024 + e % 32) 0

/-- An operation of the elements of SRC1, of the second operand and of DST. -/
def State.elementWise (s : State) (slab : Nat) (o : OpE) (f : Word → Word → Word → Res) : State :=
  let x := o.bits.toNat
  let b := s.slab slab
  let a := b.band (vSrc1 x) (vN x)
  let c := b.band (vSrc2 x) (vN x)
  let d := b.band (vDst x) (vN x)
  s.putBand slab o (vDst x) ((List.range (1024 * vN x)).map fun e => f (a.getD e 0) (secondOperand x c e) (d.getD e 0))

/-- NUM of V_MAX and V_MIN (R176). -/
def OpE.num (o : OpE) : Bool := bitOf (vAux o.bits.toNat) 2

def vAddAct (s : State) (slab : Nat) (o : OpE) : State := s.elementWise slab o fun a b _ => fAdd a b
def vSubAct (s : State) (slab : Nat) (o : OpE) : State := s.elementWise slab o fun a b _ => fSub a b
def vMulAct (s : State) (slab : Nat) (o : OpE) : State := s.elementWise slab o fun a b _ => fMul a b
def vFmaAct (s : State) (slab : Nat) (o : OpE) : State := s.elementWise slab o fun a b d => fFma a b d
def vMaxAct (s : State) (slab : Nat) (o : OpE) : State := s.elementWise slab o fun a b _ => (fMax o.num a b, 0)
def vMinAct (s : State) (slab : Nat) (o : OpE) : State := s.elementWise slab o fun a b _ => (fMin o.num a b, 0)
def vAbsAct (s : State) (slab : Nat) (o : OpE) : State := s.elementWise slab o fun a _ _ => (fAbs a, 0)
def vNegAct (s : State) (slab : Nat) (o : OpE) : State := s.elementWise slab o fun a _ _ => (fNeg a, 0)
/-- IMM is a signed exponent (R177). -/
def vScaleAct (s : State) (slab : Nat) (o : OpE) : State :=
  s.elementWise slab o fun a _ _ => fScale a (signedOf 16 (vImm o.bits.toNat))
def vAddiAct (s : State) (slab : Nat) (o : OpE) : State :=
  s.elementWise slab o fun a _ _ => fAdd a (widen bf16 (vImm o.bits.toNat))
/-- V_GADD is V_ADD with BMODE 0 (R177). -/
def vGaddAct (s : State) (slab : Nat) (o : OpE) : State := s.elementWise slab o fun a b _ => fAdd a b

/-! ## Conversion and dither (R136, R137, R179) -/

/-- The value of a register element in an FMT code, and whether its scale byte is 0xFF (R119, R122). -/
def elementVal (fmt : Nat) (x : Word) : Val × Bool :=
  let n := x.toNat
  if isBlock fmt then (blockVal (fmtOf fmt) (n % 256) (n / 256 % 256), n / 256 % 256 == 0xFF)
  else ((fmtOf fmt).decode (n % 2 ^ (8 * fmtBytes fmt)), false)

/-- An element whose source and target formats agree (R179). -/
def keepElement (fmt : Nat) (x : Word) : Word :=
  let n := x.toNat
  let f := fmtOf fmt
  if isBlock fmt then
    let code := if n / 256 % 256 != 0xFF && (f.decode (n % 256)).isNan then f.nanBits else n % 256
    BitVec.ofNat 32 (code + n / 256 % 256 * 256)
  else
    let code := n % 2 ^ (8 * fmtBytes fmt)
    BitVec.ofNat 32 (if (f.decode code).isNan then f.nanBits else code)

/-- V_CVT of one row of a register (R179). -/
def cvtRow (src dst : Nat) (row : List Word) : List Res :=
  let vs := row.map (elementVal src)
  let scale := vs.map fun v => if v.2 then flScale else 0
  let f := fmtOf dst
  if src = dst then (row.zip scale).map fun p => (keepElement dst p.1, p.2)
  else if isBlock dst then
    let b := blockExp f.noInf (vs.map Prod.fst)
    (vs.zip scale).map fun p =>
      let t := f.round (Val.scale p.1.1 (-b))
      (BitVec.ofNat 32 (t.1 + (b + 127).toNat * 256), p.2 ||| f.overflowed t.2)
  else (vs.zip scale).map fun p => let t := f.round p.1.1; (BitVec.ofNat 32 t.1, p.2 ||| f.overflowed t.2)

/-- The rows of a band: 32 elements each, register by register. -/
def bandRows (a : Array Word) (n : Nat) : List (List Word) := chunksOf 32 (32 * n) a.toList

def vCvtAct (s : State) (slab : Nat) (o : OpE) : State :=
  let x := o.bits.toNat
  s.putBand slab o (vDst x) ((bandRows ((s.slab slab).band (vSrc1 x) (vN x)) (vN x)).flatMap (cvtRow (fld (vAux x) 2 0) (vFmt x)))

/-- A dithered magnitude of 2^128, which FP32 does not hold: the spec states no value for it. A free word `c` on the grid
of 2^qe (R138), else |x| cut to that grid (log 58). -/
def ditherOver (neg : Bool) (m : Nat) (e qe : Int) (c : Word) : Word :=
  let lo := min e qe
  let cut := BitVec.ofNat 32 (fp32.round (.fin neg ((m <<< (e - lo).toNat) >>> (qe - lo).toNat) qe)).1
  match valOf c with
  | .fin s n g => if s == neg && (decide (qe ≤ g) || n % 2 ^ (qe - g).toNat == 0) then c else cut
  | _ => cut

/-- V_DITHER of one element with block exponent b, cut c and Flint word w (R137). -/
def ditherOne (f : Fmt) (b c : Int) (x w : Word) : Word :=
  match valOf x with
  | .nan => nan32
  | .inf _ => x
  | .fin neg m e =>
    if m = 0 then x else
    let g := floorLog2 m e
    let qe := max g (f.emin + b) - 23 + c
    let ue := max g (-126) - 23
    let k := min (qe - ue) 32
    if k ≤ 0 then x else
    let lo := min e (qe - k)
    let sum := (m <<< (e - lo).toNat) + ((w.toNat % 2 ^ k.toNat) <<< (qe - k - lo).toNat)
    let y : Val := .fin neg (sum >>> (qe - lo).toNat) qe
    let lim := Val.scale (f.decode f.maxBits) b
    let z : Val := if magLt lim y then (if neg then lim.negate else lim) else y
    let r := fp32.round z
    if r.2 then ditherOver neg m e qe (Config.ditherOver b c x w) else BitVec.ofNat 32 r.1

/-- V_DITHER of one row with its Flint words (R136, R137). -/
def ditherRow (fmt cut : Nat) (row words : List Word) : List Res :=
  let f := fmtOf fmt
  let b := if isBlock fmt then blockExp f.noInf (row.map valOf) else 0
  (row.zip words).map fun p => (ditherOne f b (cut : Int) p.1 p.2, 0)

def vDitherAct (s : State) (slab : Nat) (o : OpE) : State :=
  let x := o.bits.toNat
  let a := bandRows ((s.slab slab).band (vSrc1 x) (vN x)) (vN x)
  let w := bandRows ((s.slab slab).band (vSrc2 x) (vN x)) (vN x)
  s.putBand slab o (vDst x) ((a.zip w).flatMap fun p => ditherRow (vFmt x) (fld (vAux x) 4 0) p.1 p.2)

/-! ## Row reductions (R180 to R182) -/

/-- One level of tree32: element j plus element j + h. -/
def treeLevel (l : List Word) (h : Nat) : List Word × Nat :=
  let rs := ((l.take h).zip (l.drop h)).map fun p => fAdd p.1 p.2
  (rs.map Prod.fst, rs.foldl (fun a r => a ||| r.2) 0)

/-- tree32 of R181. -/
def tree32 (l : List Word) : Res :=
  let t := [16, 8, 4, 2, 1].foldl (fun (t : List Word × Nat) h => let u := treeLevel t.1 h; (u.1, t.2 ||| u.2)) (l, 0)
  (nth t.1 0, t.2)

/-- merge of R181, with the flags of its steps. -/
def merge (a b : StatRec) : StatRec × Nat :=
  if (valOf b.cnt).isZero then (a, 0) else
  if (valOf a.cnt).isZero then (b, 0) else
  let n := fAdd a.cnt b.cnt
  let f := fDiv b.cnt n.1
  let delta := fSub b.mean a.mean
  let mf := fMul delta.1 f.1
  let m := fAdd a.mean mf.1
  let qq := fAdd a.m2 b.m2
  let dd := fMul delta.1 delta.1
  let nf := fMul a.cnt f.1
  let p := fMul dd.1 nf.1
  let q := fAdd qq.1 p.1
  ({ cnt := n.1, mean := m.1, m2 := q.1 },
    [n, f, delta, mf, m, qq, dd, nf, p, q].foldl (fun a r => a ||| r.2) 0)

def StatRec.zero : StatRec := { cnt := 0, mean := 0, m2 := 0 }

/-- The partial record of 32 values (R181). -/
def partial32 (y : List Word) : StatRec × Nat :=
  let t := tree32 y
  let mean := fScale t.1 (-5)
  let d := y.map fun v => fSub v mean.1
  let e := d.map fun v => fMul v.1 v.1
  let m2 := tree32 (e.map Prod.fst)
  ({ cnt := 0x42000000#32, mean := mean.1, m2 := m2.1 },
    t.2 ||| mean.2 ||| m2.2 ||| (d ++ e).foldl (fun a r => a ||| r.2) 0)

/-- V_RWEL over the 32-column tiles of a row, from a record (R181). -/
def welford (start : StatRec) (tiles : List (List Word)) : StatRec × Nat :=
  tiles.foldl (fun r t =>
    let p := partial32 t
    let m := merge r.1 p.1
    (m.1, r.2 ||| p.2 ||| m.2)) (start, 0)

/-- V_RSUM over the tiles of a row (R181). -/
def rowSum (start : Option Word) (tiles : List (List Word)) : Res :=
  let ts := tiles.map tree32
  let first : Res := match start, ts with
    | some d, t :: _ => let r := fAdd d t.1; (r.1, r.2 ||| t.2)
    | none, t :: _ => t
    | _, [] => (0, 0)
  (ts.drop 1).foldl (fun s t => let r := fAdd s.1 t.1; (r.1, s.2 ||| t.2 ||| r.2)) first

/-- V_RMAX over the elements of a row (R181). -/
def rowMax (num : Bool) (start : Option Word) (xs : List Word) : Word :=
  match start with
  | some d => xs.foldl (fMax num) d
  | none => (xs.drop 1).foldl (fMax num) (nth xs 0)

/-- Column c replaces the held pair (R182). -/
def argBetter (num : Bool) (v x : Word) : Bool :=
  if num then !(valOf x).isNan && ((valOf v).isNan || Val.lt (valOf v) (valOf x))
  else !(valOf v).isNan && ((valOf x).isNan || Val.lt (valOf v) (valOf x))

/-- V_ARGMAX over the elements of a row; `base` is IMM × 32 (R182). -/
def rowArgmax (num : Bool) (base : Nat) (start : Option (Word × Word)) (xs : List Word) : Word × Word :=
  let ix := xs.zipIdx.map fun x => (x.1, BitVec.ofNat 32 (base + x.2))
  let better := fun (h : Word × Word) (c : Word × Word) => if argBetter num h.1 c.1 then c else h
  let r := match start with
    | some h => ix.foldl better h
    | none => (ix.drop 1).foldl better (nth ix 0)
  (if (valOf r.1).isNan then nan32 else r.1, r.2)

/-- The results of a row with its flags: the NaN among them carry the flags, else the first. -/
def rowResults (ws : List Word) (fl : Nat) : List Res :=
  let born := bitOf fl 2 || bitOf fl 3
  if born && ws.any fun w => (valOf w).isNan then ws.map fun w => (w, if (valOf w).isNan then fl else 0)
  else ws.zipIdx.map fun w => (w.1, if w.2 = 0 then fl else 0)

/-- A row reduction: `f` gives the results of a row from its tiles and row i of DST. -/
def State.reduceRows (s : State) (slab : Nat) (o : OpE) (f : List (List Word) → List Word → List Res) : State :=
  let x := o.bits.toNat
  let b := s.slab slab
  let a := b.band (vSrc1 x) (vN x)
  let d := b.band (vDst x) 1
  s.putBand slab o (vDst x) ((List.range 32).flatMap fun i =>
    let tiles := (List.range (vN x)).map fun t => (List.range 32).map fun j => a.getD (1024 * t + 32 * i + j) 0
    let r := f tiles ((List.range 3).map fun j => d.getD (32 * i + j) 0)
    r ++ List.replicate (32 - r.length) (0, 0))

/-- ACC and NUM of a reduction (R180). -/
def OpE.redAcc (o : OpE) : Bool := bitOf (vAux o.bits.toNat) 0
def OpE.redNum (o : OpE) : Bool := bitOf (vAux o.bits.toNat) 1

def vRsumAct (s : State) (slab : Nat) (o : OpE) : State :=
  s.reduceRows slab o fun tiles d =>
    let r := rowSum (if o.redAcc then some (nth d 0) else none) tiles
    rowResults [r.1] r.2

def vRmaxAct (s : State) (slab : Nat) (o : OpE) : State :=
  s.reduceRows slab o fun tiles d => [(rowMax o.redNum (if o.redAcc then some (nth d 0) else none) tiles.flatten, 0)]

def vRwelAct (s : State) (slab : Nat) (o : OpE) : State :=
  s.reduceRows slab o fun tiles d =>
    let r := welford (if o.redAcc then { cnt := nth d 0, mean := nth d 1, m2 := nth d 2 } else StatRec.zero) tiles
    rowResults [r.1.cnt, r.1.mean, r.1.m2] r.2

def vArgmaxAct (s : State) (slab : Nat) (o : OpE) : State :=
  s.reduceRows slab o fun tiles d =>
    let r := rowArgmax o.redNum (vImm o.bits.toNat * 32) (if o.redAcc then some (nth d 0, nth d 1) else none) tiles.flatten
    [(r.1, 0), (r.2, 0)]

/-! ## Convolution (R194 to R197) -/

/-- Fused multiply-adds of pairs in order, flags together. -/
def fmaChain (start : Word) (ps : List (Word × Word)) : Res :=
  ps.foldl (fun acc p => let r := fFma p.1 p.2 acc.1; (r.1, acc.2 ||| r.2)) (start, 0)

/-- A convolution: `taps p j` lists (weight element, source element) of output position p, channel j, in order; each is
(row of SRC2, channel) and (position, channel). -/
def State.convolve (s : State) (slab : Nat) (o : OpE) (acc : Bool) (halo : Nat) (taps : Nat → Nat → List (Nat × Nat × Nat)) : State :=
  let x := o.bits.toNat
  let b := s.slab slab
  let src := b.band (vSrc1 x) (vN x + halo)
  let w := b.band (vSrc2 x) 1
  let d := b.band (vDst x) (vN x)
  s.putBand slab o (vDst x) ((List.range (1024 * vN x)).map fun e =>
    fmaChain (if acc then d.getD e 0 else 0) ((taps (e / 32) (e % 32)).map fun t =>
      (w.getD (t.1 * 32 + e % 32) 0, src.getD (t.2.1 * 32 + t.2.2) 0)))

/-- V_DWCONV (R195). -/
def vDwconvAct (s : State) (slab : Nat) (o : OpE) : State :=
  let x := o.bits.toNat
  let t := fld (vAux x) 4 0
  s.convolve slab o (bitOf (vAux x) 5) (if 1 < t then 1 else 0) fun p j => (List.range t).map fun u => (u, p + u, j)

/-- V_GCONV (R196). -/
def vGconvAct (s : State) (slab : Nat) (o : OpE) : State :=
  let x := o.bits.toNat
  let g := gconvG x
  let taps := fld (vAux x) 4 0 / g
  s.convolve slab o (bitOf (vAux x) 7) (if 1 < taps then 1 else 0) fun p j =>
    (List.range taps).flatMap fun u => (List.range g).map fun r => (u * g + r, p + u, g * (j / g) + r)

/-! ## Loads and stores (R171 to R173) -/

/-- Areas as address ranges. -/
def rangesOf (l : List Area) : List (Nat × Nat) := l.map fun a => (a.lo, a.len)

/-- V_LD: encodings, and scale bytes beside them, without conversion (R172, R173). -/
def vLdAct (s : State) (slab : Nat) (o : OpE) : State :=
  let x := o.bits.toNat
  let n := mCnt x + 1
  let w := fmtBytes (mFmt x)
  s.withShare slab o (rangesOf (bandAreas x)) fun s =>
    let base := mAddr x * 64
    let rows := (List.range 32).map fun i => elements (s.opBytes slab o (base + i * bandPitch x) (32 * n * w)) w (32 * n)
    let sc := if isBlock (mFmt x) then elements (s.opBytes slab o (scaleAddr base (1024 * n)) (32 * n)) 1 (32 * n) else #[]
    s.putRegs slab (mReg x) ((bandElems n).map fun e =>
      BitVec.ofNat 32 ((nth rows e.2.1).getD (32 * e.1 + e.2.2) 0 + 256 * sc.getD (e.2.1 * n + e.1) 0))

/-- V_ST: the low bytes of each element, and the scale bytes of elements (i, 0) (R172, R173). -/
def vStAct (s : State) (slab : Nat) (o : OpE) : State :=
  let x := o.bits.toNat
  let n := mCnt x + 1
  let w := fmtBytes (mFmt x)
  let base := mAddr x * 64
  let b := (s.slab slab).band (mReg x) n
  let at' := fun i c => (b.getD (c / 32 * 1024 + i * 32 + c % 32) 0).toNat
  let s1 := (List.range 32).foldl (fun s i =>
    s.opWrite slab o (base + i * bandPitch x) ((List.range (32 * n)).flatMap fun c => toLe w (at' i c))) s
  if isBlock (mFmt x) then
    s1.opWrite slab o (scaleAddr base (1024 * n))
      ((List.range (32 * n)).map fun k => BitVec.ofNat 8 (at' (k / n) (32 * (k % n)) / 256))
  else s1

/-! ## Epilogues (R149, R150, R155, R159) -/

/-- An output tile in the share: ADDR, rows of N elements in FMT (R150). -/
structure Tile where
  base : Nat
  fmt : Nat
  pitch : Nat
  rows : Nat
  cols : Nat
  deriving DecidableEq, Repr, Inhabited

def tileOf (x : Nat) (ext : Nat × Nat) : Tile :=
  { base := mAddr x * 64, fmt := mFmt x, pitch := outPitch x ext.1, rows := ext.2, cols := ext.1 }

/-- Place in the share of the tile's element (r, n). -/
def Tile.elementAt (t : Tile) (r n : Nat) : Nat := t.base + r * t.pitch + n * fmtBytes t.fmt

/-- Place of the scale bytes of row r. -/
def Tile.scalesAt (t : Tile) (r : Nat) : Nat := scaleAddr t.base (t.rows * t.cols) + r * (t.cols / 32)

/-- Write one coded row of the tile. -/
def State.putTileRow (s : State) (slab : Nat) (o : OpE) (t : Tile) (r : Nat) (c : Coded) : State :=
  let s1 := s.opWrite slab o (t.elementAt r 0) (c.codes.flatMap (toLe (fmtBytes t.fmt)))
  if isBlock t.fmt then s1.opWrite slab o (t.scalesAt r) (c.scales.map (BitVec.ofNat 8)) else s1

/-- The residual of row r, widened, with the flags of reading it (R120, R149). -/
def State.residual (s : State) (slab : Nat) (o : OpE) (t : Tile) (r : Nat) : List Res :=
  let w := fmtBytes t.fmt
  let es := elements (s.opBytes slab o (t.elementAt r 0) (t.cols * w)) w t.cols
  if isBlock t.fmt then
    let sc := elements (s.opBytes slab o (t.scalesAt r) (t.cols / 32)) 1 (t.cols / 32)
    es.toList.zipIdx.map fun e =>
      let x := sc.getD (e.2 / 32) 0
      let v := fp32.round (blockVal (fmtOf t.fmt) e.1 x)
      (BitVec.ofNat 32 v.1, (if v.2 then flOvf else 0) ||| (if x = 0xFF then flScale else 0))
  else es.toList.map fun e => (widen (fmtOf t.fmt) e, 0)

/-- Marks of a coded row of the tile. -/
def Tile.marks (t : Tile) (r : Nat) (c : Coded) : Marks :=
  marksOf (c.flags.zipIdx.map fun f => (sharePos (t.elementAt r f.2), f.1))

/-- The vectors of an epilogue, in the columns of its tile. -/
structure Vectors where
  bias : Array Word
  scale : Array Word
  gamma : Array Word
  beta : Array Word
  deriving Inhabited

def State.vectorsOf (s : State) (slab : Nat) (o : OpE) (f : Fuse) (n : Nat) : Vectors :=
  let j := mCnt o.bits.toNat * n
  let norm := f.kind == 4
  { bias := s.vecWords slab o f.biasEn f.bias f.vfmt j n
    scale := s.vecWords slab o f.scaleEn f.scale f.vfmt j n
    gamma := s.vecWords slab o (norm && f.gammaEn) f.gamma f.vfmt j n
    beta := s.vecWords slab o (norm && f.betaEn) f.beta f.vfmt j n }

/-- One element of an EPI or GATED epilogue, before its conversion (R149, R159). -/
def epiElement (f : Fuse) (service : Bool) (v : Vectors) (nrm : Option Normal) (c : Nat) (d : Word) (res : Res) : Res :=
  let y := biasAct f service (v.bias.getD c 0) d
  let y := match nrm with
    | some k => normalise f k (v.gamma.getD c 0) (v.beta.getD c 0) y
    | none => y
  let y := scaling f (v.scale.getD c 0) y
  if f.resEn then (let t := fAdd y.1 res.1; (t.1, y.2 ||| res.2 ||| t.2)) else y

/-- V_EPI that writes an output: plain, EPI or GATED (R149, R159). -/
def State.epilogue (s : State) (slab : Nat) (o : OpE) (d : Option Fuse) (vals : List Word) : State :=
  let t := tileOf o.bits.toNat o.ext
  let f := d.getD default
  let service := s.serviceOf slab o
  let v := s.vectorsOf slab o f t.cols
  let (inj, s1) := s.nanInjected o
  let recs := if f.kind = 4 then s.opBytes slab o (f.stat * 64) (16 * t.rows) else []
  let r := (chunksOf t.cols t.rows vals).zipIdx.foldl (fun (p : State × Marks) row =>
    let res := if f.resEn then p.1.residual slab o t row.2 else []
    let nrm := if f.kind = 4 then some ((statRecOf recs row.2).normal f.norm f.eps service) else none
    let c := codeRow t.fmt (withNan (inj && row.2 == 0) (row.1.zipIdx.map fun e => epiElement f service v nrm e.2 e.1 (nth res e.2)))
    (p.1.putTileRow slab o t row.2 c, p.2.add (t.marks row.2 c))) (s1, Marks.none)
  r.1.mark slab o 2 r.2 inj

/-- V_EPI under a STAT descriptor: every row's record takes in the tile (R155). -/
def State.statPass (s : State) (slab : Nat) (o : OpE) (f : Fuse) (vals : List Word) : State :=
  let n := o.ext.1
  let service := s.serviceOf slab o
  let v := s.vectorsOf slab o f n
  let recs := s.opBytes slab o (f.stat * 64) (16 * o.ext.2)
  let rs := (chunksOf n o.ext.2 vals).zipIdx.map fun row =>
    let ys := row.1.zipIdx.map fun e => biasAct f service (v.bias.getD e.2 0) e.1
    let p := welford StatRec.zero (chunksOf 32 (n / 32) (ys.map Prod.fst))
    let m := merge (statRecOf recs row.2) p.1
    (m.1, p.2 ||| m.2 ||| ys.foldl (fun a y => a ||| y.2) 0)
  (s.opWrite slab o (f.stat * 64) (rs.flatMap fun r => r.1.bytes)).mark slab o 2
    (marksOf (rs.zipIdx.map fun r => (sharePos (f.stat * 64 + 16 * r.2), r.1.2))) false

/-- The drained values of a consumer's pair, and the share regions that the consumer reads. -/
def State.drained (s : State) (slab : Nat) (o : OpE) (reads : List Area) (k : State → List Word → State) : State :=
  match s.drainOf slab o with
  | none => s
  | some q =>
    let a := accSlot q.bits.toNat
    s.withAcc slab q a 0 (o.ext.1 * o.ext.2) fun s =>
      s.withShare slab o (rangesOf reads) fun s =>
        k s (Memory.read (s.slot o.part o.ctx slab a).vals 0 (o.ext.1 * o.ext.2))

/-- V_EPI, its pair having fired. -/
def vEpiAct (s : State) (slab : Nat) (o : OpE) : State :=
  let d := (s.progOf o).bind fun g => fuseAt g 2 o.bits.toNat
  s.drained slab o (epiTouch o.bits.toNat o.ext.1 o.ext.2 d).reads fun s vals =>
    match d with
    | some f => if f.kind = 3 then s.statPass slab o f vals else s.epilogue slab o d vals
    | none => s.epilogue slab o none vals

/-! ## Online softmax (R160 to R163) -/

/-- A record of online softmax (R144): m, l, alpha. -/
def osmRecord (m l alpha : Word) : List Byte := toLe 4 m.toNat ++ toLe 4 l.toNat ++ toLe 4 alpha.toNat ++ toLe 4 0

def negInf : Word := 0xFF800000#32

/-- The values of a coded row, widened (R160). -/
def Coded.widened (c : Coded) (fmt : Nat) : List Word :=
  (c.cells fmt).map fun x => BitVec.ofNat 32 (fp32.round x.v).1

/-- OSM_SCORE on one row (R160): the coded row, the new record, and the flags of the row's own steps. -/
def osmScoreRow (f : Fuse) (fmt : Nat) (service inj : Bool) (m l : Word) (row : List Word) : Coded × List Byte × Nat :=
  let sc : List Res := row.map fun v => if f.scal = 0 then (v, 0) else fMul v (widen bf16 f.scal)
  let mt := match sc with | a :: t => t.foldl (fun x y => fMax false x y.1) a.1 | [] => negInf
  let mn := fMax false m mt
  let alpha : Res := if mn = negInf then (0x3F800000#32, 0) else (fSub m mn).andThen (special .exp service)
  let ps : List Res := sc.map fun v => if mn = negInf then (0, v.2) else (v.andThen fun x => fSub x mn).andThen (special .exp service)
  let c := codeRow fmt (withNan inj ps)
  let t := (c.widened fmt).foldl (fun (t : Res) p => t.andThen fun x => fAdd x p) (0, 0)
  let al := fMul alpha.1 l
  let l2 := fAdd al.1 t.1
  (c, osmRecord mn l2.1 alpha.1, alpha.2 ||| t.2 ||| al.2 ||| l2.2)

/-- V_OSM under an OSM_SCORE descriptor (R160). -/
def State.osmScore (s : State) (slab : Nat) (o : OpE) (f : Fuse) (vals : List Word) : State :=
  let t := tileOf o.bits.toNat o.ext
  let service := s.serviceOf slab o
  let (inj, s1) := s.nanInjected o
  let recs := s.opBytes slab o (f.stat * 64) (16 * t.rows)
  let r := (chunksOf t.cols t.rows vals).zipIdx.foldl (fun (p : State × Marks) row =>
    let q := osmScoreRow f t.fmt service (inj && row.2 == 0) (BitVec.ofNat 32 (numAt recs (16 * row.2) 4))
      (BitVec.ofNat 32 (numAt recs (16 * row.2 + 4) 4)) row.1
    let a := f.stat * 64 + 16 * row.2
    ((p.1.putTileRow slab o t row.2 q.1).opWrite slab o a q.2.1,
      (p.2.add (t.marks row.2 q.1)).add (markAt (sharePos a) q.2.2))) (s1, Marks.none)
  r.1.mark slab o 2 r.2 inj

/-- OSM_OUT on one row (R161): the running output, and the finished row. -/
def osmOutRow (f : Fuse) (fmt : Nat) (service inj : Bool) (l alpha : Word) (run row : List Word) : List Res × Coded :=
  let os : List Res := (run.zip row).map fun p => (fMul alpha p.1).andThen fun x => fAdd x p.2
  let os := if f.final then os else withNan inj os
  let q := special .rcp service l
  let ys : List Res := os.map fun v =>
    if l = 0 then (0, 0) else let y := fMul v.1 q.1; (y.1, q.2 ||| y.2)
  (os, if f.final then codeRow fmt (withNan inj ys) else { codes := [], scales := [], flags := [] })

/-- V_OSM under an OSM_OUT descriptor (R161). -/
def State.osmOut (s : State) (slab : Nat) (o : OpE) (f : Fuse) (vals : List Word) : State :=
  let t := tileOf o.bits.toNat o.ext
  let service := s.serviceOf slab o
  let (inj, s1) := s.nanInjected o
  let recs := s.opBytes slab o (f.stat * 64) (16 * t.rows)
  let r := (chunksOf t.cols t.rows vals).zipIdx.foldl (fun (p : State × Marks) row =>
    let a := f.oacc * 64 + row.2 * t.cols * 4
    let q := osmOutRow f t.fmt service (inj && row.2 == 0) (BitVec.ofNat 32 (numAt recs (16 * row.2 + 4) 4))
      (BitVec.ofNat 32 (numAt recs (16 * row.2 + 8) 4)) (rowWordsOf (p.1.opBytes slab o a (4 * t.cols)) t.cols) row.1
    let s2 := p.1.opWrite slab o a (wordBytes (q.1.map Prod.fst))
    (if f.final then s2.putTileRow slab o t row.2 q.2 else s2,
      (p.2.add (marksOf (q.1.zipIdx.map fun e => (sharePos (a + 4 * e.2), e.1.2)))).add (t.marks row.2 q.2))) (s1, Marks.none)
  r.1.mark slab o 2 r.2 inj

/-- V_OSM, its pair having fired. -/
def vOsmAct (s : State) (slab : Nat) (o : OpE) : State :=
  match (s.progOf o).bind fun g => fuseAt g 2 o.bits.toNat with
  | none => s
  | some f =>
    s.drained slab o (osmTouch o.bits.toNat o.ext.1 o.ext.2 f).reads fun s vals =>
      if f.kind = 6 then s.osmScore slab o f vals else s.osmOut slab o f vals

def execVAdd (slab : Nat) (s : State) : Host.Outcome State Fault Refusal := .next (fireRow 2 0x01 vAddAct slab s)
def execVSub (slab : Nat) (s : State) : Host.Outcome State Fault Refusal := .next (fireRow 2 0x02 vSubAct slab s)
def execVMul (slab : Nat) (s : State) : Host.Outcome State Fault Refusal := .next (fireRow 2 0x03 vMulAct slab s)
def execVFma (slab : Nat) (s : State) : Host.Outcome State Fault Refusal := .next (fireRow 2 0x04 vFmaAct slab s)
def execVMax (slab : Nat) (s : State) : Host.Outcome State Fault Refusal := .next (fireRow 2 0x05 vMaxAct slab s)
def execVMin (slab : Nat) (s : State) : Host.Outcome State Fault Refusal := .next (fireRow 2 0x06 vMinAct slab s)
def execVAbs (slab : Nat) (s : State) : Host.Outcome State Fault Refusal := .next (fireRow 2 0x07 vAbsAct slab s)
def execVNeg (slab : Nat) (s : State) : Host.Outcome State Fault Refusal := .next (fireRow 2 0x08 vNegAct slab s)
def execVScale (slab : Nat) (s : State) : Host.Outcome State Fault Refusal := .next (fireRow 2 0x09 vScaleAct slab s)
def execVAddi (slab : Nat) (s : State) : Host.Outcome State Fault Refusal := .next (fireRow 2 0x0A vAddiAct slab s)
def execVCvt (slab : Nat) (s : State) : Host.Outcome State Fault Refusal := .next (fireRow 2 0x0C vCvtAct slab s)
def execVDither (slab : Nat) (s : State) : Host.Outcome State Fault Refusal := .next (fireRow 2 0x0D vDitherAct slab s)
def execVGadd (slab : Nat) (s : State) : Host.Outcome State Fault Refusal := .next (fireRow 2 0x0E vGaddAct slab s)
def execVRsum (slab : Nat) (s : State) : Host.Outcome State Fault Refusal := .next (fireRow 2 0x10 vRsumAct slab s)
def execVRmax (slab : Nat) (s : State) : Host.Outcome State Fault Refusal := .next (fireRow 2 0x11 vRmaxAct slab s)
def execVRwel (slab : Nat) (s : State) : Host.Outcome State Fault Refusal := .next (fireRow 2 0x12 vRwelAct slab s)
def execVArgmax (slab : Nat) (s : State) : Host.Outcome State Fault Refusal := .next (fireRow 2 0x13 vArgmaxAct slab s)
def execVEpi (slab : Nat) (s : State) : Host.Outcome State Fault Refusal := .next (partnerRow 2 0x20 vEpiAct slab s)
def execVOsm (slab : Nat) (s : State) : Host.Outcome State Fault Refusal := .next (partnerRow 2 0x21 vOsmAct slab s)
def execVDwconv (slab : Nat) (s : State) : Host.Outcome State Fault Refusal := .next (fireRow 2 0x30 vDwconvAct slab s)
def execVGconv (slab : Nat) (s : State) : Host.Outcome State Fault Refusal := .next (fireRow 2 0x31 vGconvAct slab s)
def execVLd (slab : Nat) (pipeB : Bool) (s : State) : Host.Outcome State Fault Refusal :=
  .next (fireRow (if pipeB then 3 else 2) 0x40 vLdAct slab s)
def execVSt (slab : Nat) (pipeB : Bool) (s : State) : Host.Outcome State Fault Refusal :=
  .next (fireRow (if pipeB then 3 else 2) 0x41 vStAct slab s)

end Sys2Proof.Machine
end

