-- ==== Sys2Proof/Machine/Collective.lean ====
section
/-! DEFINITION. Collective.lean: group queues, the collective operations, their meeting, gathers, the watchdog, and the
ends of operations (R66, R67, R72, R73, R263 to R281, R488). -/

namespace Sys2Proof.Machine

/-! ## Starting -/

/-- DTYPE codes that an operation allows (R266). -/
def dtypeOk (op t : Nat) : Bool :=
  if op = 3 then t == 3 else if op = 9 then t == 0 else if op = 1 || op = 2 || op = 4 then t == 0 || t == 1 else t == 2

/-- Bytes that an operation reads at SRC on a rank, and writes at DST (R266). -/
def CDesc.srcBytes (d : CDesc) (op n rank : Nat) : Nat :=
  if op = 9 then 0 else if op = 6 then n * d.bytes else if op = 8 then (d.cpr + 1) * d.bytes
  else if op = 5 && rank != d.root then 0 else d.bytes

def CDesc.dstBytes (d : CDesc) (op n : Nat) : Nat :=
  if op = 8 || op = 9 then 0 else if op = 4 then d.bytes / n else if op = 6 || op = 7 then n * d.bytes else d.bytes

/-- The field rules of R265, R266, R270 and R277 that need no memory. -/
def CDesc.fieldsOk (d : CDesc) (g : Group) (op : Nat) : Bool :=
  let n := g.members.length
  let q := d.unitq + 1
  !d.rsvd && dtypeOk op d.dtype
    && d.bytes % (if op ≤ 4 then 512 * n else 512) == 0
    && (op != 9 || (d.bytes == 0 && d.src == 0 && d.dst == 0))
    && (op == 2 || !d.num) && (op == 5 || d.root == 0)
    && (op == 8 || (d.unitq == 0 && d.uses == 0 && d.cpr == 0))
    && (op != 8 || (d.dst == 0 && d.bytes != 0 && d.uses != 0 && g.chunks % q == 0 && decide (2 * q ≤ g.chunks)
        && decide (d.bytes ≤ q * 2 ^ 18) && decide (n * (d.cpr + 1) ≤ 512)))
    && d.gmin != 0 && decide (d.gmin ≤ g.gshare) && (op != 5 || decide (d.root < n))

/-- R270 for the operation on one member. -/
def State.collFails (s : State) (slab : Nat) (o : OpE) (g : Group) (d : CDesc) : Bool :=
  let n := g.members.length
  let a := d.srcBytes o.op n (g.members.idxOf slab)
  let b := d.dstBytes o.op n
  !d.fieldsOk g o.op || !s.readable o.part o.ctx o.seq slab (d.src * 512) a || !s.writable o.part o.ctx slab (d.dst * 512) b
    || (overlaps (d.src * 512) a (d.dst * 512) b && !(decide (o.op ≤ 3) && d.src == d.dst))

/-- Change a group queue of a slab. -/
def State.modQueue (s : State) (slab q : Nat) (f : GQueue → GQueue) : State :=
  s.modSlab slab fun b => { b with gqs := modAt b.gqs q f }

def State.gqueue (s : State) (slab q : Nat) : GQueue := nth (s.slab slab).gqs q

/-- Change the entry at the head of a group queue. -/
def GQueue.modHead (g : GQueue) (f : CollE → CollE) : GQueue :=
  { g with entries := match g.entries with | e :: t => f e :: t | [] => [] }

/-- The operation at the head of a group queue starts there: its descriptor is read and checked (R270, R272). Injection
0x0402 withholds the start. -/
def State.startHead (s : State) (slab q : Nat) : State :=
  match (s.gqueue slab q).entries.head?, (s.gqueue slab q).bound with
  | some e, some (p, c, l) =>
    match (s.ctx? p c).bind fun x => x.groups.find? fun g => g.lidx == l with
    | none => s
    | some g =>
      match s.opportunity 0x0402 fun a => a.onCtx p c && fld a.param 3 0 == l with
      | (some _, s1) => s1.modQueue slab q fun k => k.modHead fun e => { e with held := true }
      | (none, s1) =>
        s1.withShare slab e.op [(colDesc e.op.bits.toNat * 2048, 64)] fun s =>
          let w := leNat (s.opBytes slab e.op (colDesc e.op.bits.toNat * 2048) 64)
          if s.collFails slab e.op g (cdescOf w) then s.opFault slab e.op .collDesc
          else s.modQueue slab q fun k => k.modHead fun e => { e with desc := BitVec.ofNat 512 w, started := true }
  | _, _ => s

/-- A collective that fires on a slab carries what ended transfers of its context have written to other members' shares
(R74). DEDUCED, log 6: a transfer is ordered before it when its token precedes the collective's firing. -/
def State.carry (s : State) (slab : Nat) (o : OpE) (g : Group) : State :=
  let open' : Nat → Bool := fun id => (s.slab slab).started.any fun p => p.id == id
  s.setSlabs (s.slabs.zipIdx.map fun x =>
    if x.2 = slab || !g.members.contains x.2 then x.1 else
    { x.1 with
      inbound := modWhere x.1.inbound
        (fun w => w.part == o.part && w.ctx == o.ctx && w.src == slab && w.carrier.isNone && !open' w.op)
        fun w => { w with carrier := some o.id } })

/-- A collective row: the operation moves from the collective unit's queue into its group's, if that has a free entry
(R271). -/
def fireColl (op slab : Nat) (s : State) : State :=
  match (s.queue slab 5).head? with
  | none => s
  | some o =>
    match s.groupQueue? o.part o.ctx (colGroup o.bits.toNat) slab with
    | none => s
    | some (g, q) =>
      let es := (s.gqueue slab q).entries
      if o.op == op && s.canFire slab o o.waits && decide (es.length < 4) then
        let s1 := ((s.fire slab o).carry slab o g).modQueue slab q fun k =>
          { k with entries := k.entries ++ [{ op := o, desc := 0, started := false, met := false, held := false }] }
        if es = [] then s1.startHead slab q else s1
      else s

/-! ## Meeting (R266 to R268, R272) -/

/-- A member of a meeting: its slab, its operation and its descriptor. -/
structure Member where
  slab : Nat
  op : OpE
  desc : CDesc
  deriving DecidableEq, Repr, Inhabited

/-- The heads of a group's queues, in rank order, where every member has started an operation that has not met. -/
def State.meeting (s : State) (g : Group) : Option (List Member) :=
  (g.members.zip g.queues).mapM fun m =>
    match (s.gqueue m.1 m.2).entries.head? with
    | some e => if e.started && !e.met then some { slab := m.1, op := e.op, desc := cdescOf e.desc.toNat } else none
    | none => none

/-- The fields that the members compare (R272). -/
def Member.key (m : Member) : Nat × Nat × Bool × Nat × Nat × Nat × Nat × Nat :=
  (m.op.op, m.desc.dtype, m.desc.num, m.desc.bytes, m.desc.root, m.desc.unitq, m.desc.uses, m.desc.cpr)

/-- The tree of R267 over ranks. `fuel` bounds its depth. -/
def rankTree {α : Type} (combine : α → α → α) : Nat → List α → Option α
  | _, [] => none
  | _, [a] => some a
  | 0, a :: _ => some a
  | fuel + 1, l =>
    let p := 2 ^ Nat.log2 (l.length - 1)
    match rankTree combine fuel (l.take p), rankTree combine fuel (l.drop p) with
    | some a, some b => some (combine a b)
    | some a, none => some a
    | none, b => b

/-- Combine the members' elements one by one. -/
def combineAll {α : Type} [Inhabited α] (combine : α → α → α) (contribs : List (List α)) : List α :=
  (List.range (contribs.headD []).length).map fun i =>
    ((rankTree combine contribs.length (contribs.map fun l => nth l i))).getD default

/-- The reduced bytes with the flags of each element, `w` bytes each (R266 to R268). -/
def reduced (op dtype : Nat) (num : Bool) (srcs : List (List Byte)) : List (List Byte × Nat) :=
  if dtype = 3 then
    let recs := srcs.map fun b => (List.range (b.length / 16)).map fun i => (statRecOf b i, 0)
    (combineAll (fun (a b : StatRec × Nat) => let m := merge a.1 b.1; (m.1, a.2 ||| b.2 ||| m.2)) recs).map fun r =>
      (r.1.bytes, r.2)
  else
    let w := if dtype = 0 then 4 else 2
    let f := if dtype = 0 then fp32 else bf16
    let els := srcs.map fun b => (elements b w (b.length / w)).toList.map fun x => ((widen f x, 0) : Res)
    let comb : Res → Res → Res := fun a b =>
      if op = 2 then (fMax num a.1 b.1, a.2 ||| b.2) else let r := fAdd a.1 b.1; (r.1, a.2 ||| b.2 ||| r.2)
    (combineAll comb els).map fun r =>
      if dtype = 0 then (toLe 4 (fp32.round (valOf r.1)).1, r.2)
      else let t := bf16.round (valOf r.1); (toLe 2 t.1, r.2 ||| if t.2 then flOvf else 0)

/-- The bytes that arrive at DST of each rank, from every rank's source (R266). -/
def placed (op root s n : Nat) (srcs : List (List Byte)) : List (List Byte) :=
  (List.range n).map fun i =>
    if op = 5 then nth srcs root
    else if op = 6 then srcs.flatMap fun b => (b.drop (i * s)).take s
    else srcs.flatten

/-- Ring content is not defined between operations (R264): free values. -/
def State.spoilRing (s : State) (slab : Nat) (o : OpE) (g : Group) : State :=
  let (d, s1) := s.draw
  s1.opWrite slab o g.ring (freeBytes d (g.chunks * 2 ^ 18))

/-- A member's operation writes its context's share on its slab. -/
def State.memberWrite (s : State) (m : Member) (bs : List Byte) : State := s.opWrite m.slab m.op (m.desc.dst * 512) bs

/-- Shard i of a reduction is combined by rank i; its reports name DST there (R193, R267). -/
def Member.marks (m : Member) (w skip : Nat) (shard : List (List Byte × Nat)) : Marks :=
  marksOf (shard.zipIdx.map fun e => (sharePos (m.desc.dst * 512 + (skip + e.2) * w), e.1.2))

/-- The data of a reduction-kind combine moves (R266 to R268). -/
def State.reduceMeet (s : State) (ms : List Member) (srcs : List (List Byte)) : State :=
  match ms with
  | [] => s
  | m0 :: _ =>
    let d := m0.desc
    let rs := reduced m0.op.op d.dtype d.num srcs
    let n := ms.length
    let w := if d.dtype = 3 then 16 else if d.dtype = 0 then 4 else 2
    let k := rs.length / n
    ms.zipIdx.foldl (fun s x =>
      let shard := (rs.drop (x.2 * k)).take k
      let out := if m0.op.op = 4 then shard else rs
      (s.memberWrite x.1 (out.flatMap Prod.fst)).mark x.1.slab x.1.op 2 (x.1.marks w (if m0.op.op = 4 then 0 else x.2 * k) shard) false) s

/-- The data of a broadcast, all-to-all or gather moves (R266). -/
def State.placeMeet (s : State) (ms : List Member) (srcs : List (List Byte)) : State :=
  match ms with
  | [] => s
  | m0 :: _ =>
    let outs := placed m0.op.op m0.desc.root m0.desc.bytes ms.length srcs
    (ms.zip outs).foldl (fun s x => s.memberWrite x.1 x.2) s

/-- The gather that a C_GATHER_ARRIVE begins on every member (R277). -/
def CDesc.gather (d : CDesc) (n : Nat) : Gather :=
  { total := n * (d.cpr + 1), chunks := d.unitq + 1, uses := d.uses, arrived := [], emitted := 0, reads := [] }

/-- The first source that cannot be read, member by member (R290). -/
def State.readSources (s : State) (n : Nat) : List (Member × Nat) → State × Option (Member × Bool)
  | [] => (s, none)
  | (m, rank) :: t =>
    match s.eccShare m.op.part m.op.ctx m.op.seq m.slab [(m.desc.src * 512, m.desc.srcBytes m.op.op n rank)] with
    | (s1, some inj) => (s1, some (m, inj))
    | (s1, none) => s1.readSources n t

/-- The data of a collective that has met: its ring content is lost, then its results are written. -/
def State.meetData (s : State) (g : Group) (ms : List Member) : State :=
  match ms with
  | [] => s
  | m0 :: _ =>
    let n := ms.length
    let op := m0.op.op
    if m0.desc.bytes = 0 then s else
    if op = 8 then
      ms.foldl (fun s m =>
        match s.groupQueue? m.op.part m.op.ctx g.lidx m.slab with
        | some (_, q) => (s.spoilRing m.slab m.op g).modQueue m.slab q fun k => { k with gather := some (m0.desc.gather n) }
        | none => s) s
    else
      match s.readSources n ms.zipIdx with
      | (s1, some (m, inj)) => s1.contextFault m.op.part m.op.ctx (lineFault .spadUncorr m.slab m.op m.op.unit 0xFFFFFFFF inj)
      | (s1, none) =>
        let srcs := ms.zipIdx.map fun x => s1.opBytes x.1.slab x.1.op (x.1.desc.src * 512) (x.1.desc.srcBytes op n x.2)
        let s2 := if n = 1 then s1 else ms.foldl (fun s m => s.spoilRing m.slab m.op g) s1
        if op ≤ 4 then s2.reduceMeet ms srcs else s2.placeMeet ms srcs

/-- A collective that has met orders what its members' transfers have written before it: those bytes become visible on a
member when the operation ends there (R74). -/
def State.order (s : State) (ms : List Member) : State :=
  ms.foldl (fun s m => s.modSlab m.slab fun b =>
    { b with
      inbound := modWhere b.inbound
        (fun w => w.part == m.op.part && w.ctx == m.op.ctx && w.due.isNone
          && ms.any fun x => x.slab == w.src && w.carrier.any fun k => decide (k ≤ x.op.id))
        fun w => { w with due := some m.op.id } }) s

/-- COLLECTIVE_MEET (R272). -/
def collectiveMeet (part ctx lidx : Nat) (s : State) : State :=
  match (s.ctx? part ctx).bind fun c => c.groups.find? fun g => g.lidx == lidx with
  | none => s
  | some g =>
    match s.meeting g with
    | none => s
    | some ms =>
      if !s.running then s else
      match ms with
      | [] => s
      | m0 :: t =>
        if t.any fun m => m.key != m0.key then s.contextFault part ctx (lineFault .collMismatch m0.slab m0.op 5)
        else
          let s1 := (g.members.zip g.queues).foldl (fun s m => s.modQueue m.1 m.2 fun k => k.modHead fun e => { e with met := true }) s
          (s1.order ms).meetData g ms

/-! ## Arrival-triggered gathers (R67, R277, R278) -/

/-- MM_ARRIVE reads of a unit that have ended. -/
def Gather.readsOf (t : Gather) (k : Nat) : Nat := ((t.reads.find? fun r => r.1 == k).map Prod.snd).getD 0

/-- The unit has arrived and its last read has ended (R278). -/
def Gather.released (t : Gather) (k : Nat) : Bool := t.arrived.contains k && decide (t.uses ≤ t.readsOf k)

/-- Count an ended MM_ARRIVE of a unit. -/
def Gather.addRead (t : Gather) (k : Nat) : Gather :=
  { t with reads := (k, t.readsOf k + 1) :: t.reads.filter fun r => r.1 != k }

/-- The ring slot of unit k is free (R277, R278): `chunks` is C. -/
def Gather.slotFree (t : Gather) (chunks k : Nat) : Bool :=
  let back := chunks / t.chunks
  decide (k < back) || t.released (k - back)

/-- Emit the tokens of units that have arrived in order (R67). -/
def State.emitUnits (s : State) (slab q : Nat) (o : OpE) : Nat → State
  | 0 => s
  | fuel + 1 =>
    match (s.gqueue slab q).gather with
    | none => s
    | some t =>
      if t.arrived.contains t.emitted then
        ((s.modQueue slab q fun k => { k with gather := some { t with emitted := t.emitted + 1 } }).emitToken slab o).emitUnits slab q o fuel
      else s

/-- The operation and source of a gathered unit's rank. -/
def State.unitSource (s : State) (g : Group) (k : Nat) : Option (Nat × CollE) :=
  ((g.members.zip g.queues).find? fun m =>
      (s.gqueue m.1 m.2).entries.head?.any fun e => g.members.idxOf m.1 == k / ((cdescOf e.desc.toNat).cpr + 1)).bind
    fun m => ((s.gqueue m.1 m.2).entries.head?.filter fun e => e.met).map fun e => (m.1, e)

/-- GATHER_UNIT_ARRIVE (R67, R278). -/
def gatherUnitArrive (slab queue unit : Nat) (s : State) : State :=
  match (s.gqueue slab queue).gather, (s.gqueue slab queue).bound, (s.gqueue slab queue).entries.head? with
  | some t, some (p, c, l), some e =>
    match (s.ctx? p c).bind fun x => x.groups.find? fun g => g.lidx == l with
    | none => s
    | some g =>
      if !s.running || t.total ≤ unit || t.arrived.contains unit || !t.slotFree g.chunks unit then s else
      match s.unitSource g unit with
      | none => s
      | some (from', f) =>
        let d := cdescOf f.desc.toNat
        let a := d.src * 512 + unit % (d.cpr + 1) * d.bytes
        match s.eccShare p c f.op.seq from' [(a, d.bytes)] with
        | (s1, some inj) => s1.contextFault p c (lineFault .spadUncorr from' f.op f.op.unit 0xFFFFFFFF inj)
        | (s1, none) =>
          let bs := s1.opBytes from' f.op a d.bytes
          ((s1.opWrite slab e.op (g.unitAddr t.chunks unit) bs).modQueue slab queue fun k =>
            { k with gather := some { t with arrived := unit :: t.arrived } }).emitUnits slab queue e.op (t.total + 1)
  | _, _, _ => s

/-! ## The watchdog (R280) -/

/-- The logical groups of a context with a started operation that has not met on some member, in ascending order. -/
def State.waitingGroups (s : State) (part ctx : Nat) : List Nat :=
  (List.range 16).filter fun l => s.slabs.any fun b => b.gqs.any fun k =>
    k.bound == some (part, ctx, l) && k.entries.any fun e => e.started && !e.met

/-- An injection has withheld a start in the context (R486). -/
def State.startHeld (s : State) (part ctx : Nat) : Bool :=
  s.slabs.any fun b => b.gqs.any fun k => (k.bound.any fun x => x.1 == part && x.2.1 == ctx) && k.entries.any fun e => e.held

/-- COLL_WATCHDOG_EXPIRE (R280): the record names the group that stalled, then the others in ascending order. -/
def collWatchdogExpire (slab queue : Nat) (s : State) : State :=
  match (s.gqueue slab queue).bound, (s.gqueue slab queue).entries.head? with
  | some (p, c, l), some e =>
    if !s.running || !e.started || e.met then s else
    let others := (s.waitingGroups p c).filter fun x => x != l
    s.contextFault p c
      { lineFault .collStall slab e.op 5 with
        detail0 := l
        detail1 := others.headD 0xFFFFFFFF
        arg := listMask (l :: others)
        inj := s.startHeld p c }
  | _, _ => s

/-! ## Ends of operations (R72, R73) -/

/-- Every member of a group has every unit of a gather that it still runs. -/
def State.gatherDelivered (s : State) (g : Group) : Bool :=
  (g.members.zip g.queues).all fun m => match (s.gqueue m.1 m.2).gather with
    | some t => (List.range t.total).all fun k => t.arrived.contains k
    | none => true

/-- A collective operation has done its work on a member: it has met, and a gather's units have arrived everywhere and
been released here (R278). -/
def State.collDone (s : State) (g : Group) (slab q : Nat) : Bool :=
  match (s.gqueue slab q).entries.head? with
  | none => false
  | some e => e.met && (match (s.gqueue slab q).gather with
    | none => true
    | some t => s.gatherDelivered g && (List.range t.total).all fun k => t.released k)

/-- A collective operation ends on a member: it leaves its queue, emits its token, and the next one starts. A gather
has emitted its tokens already (R67). -/
def State.collEnd (s : State) (slab : Nat) (o : OpE) : State :=
  match s.groupQueue? o.part o.ctx (colGroup o.bits.toNat) slab with
  | none => s
  | some (g, q) =>
    if !((s.gqueue slab q).entries.head?.any fun e => e.op.id == o.id) || !s.collDone g slab q then s else
    let s0 := s.land slab fun w => w.part == o.part && w.ctx == o.ctx && w.due == some o.id
    let s1 := if o.op = 8 then s0.spoilRing slab o g else s0
    let s2 := (s1.retire slab o).modQueue slab q fun k => { k with entries := k.entries.tail, gather := none }
    (if o.op = 8 then s2 else s2.emitToken slab o).startHead slab q

/-- An ended MM_ARRIVE counts as a read of its unit (R278). -/
def State.arriveEnded (s : State) (slab : Nat) (o : OpE) : State :=
  if o.unit = 0 && o.op == 4 then
    match s.groupQueue? o.part o.ctx (arrGroup o.bits.toNat) slab with
    | some (_, q) => s.modQueue slab q fun k => { k with gather := k.gather.map fun t => t.addRead (arrChunk o.bits.toNat) }
    | none => s
  else s

/-- OP_END: the `idx`-th started operation of a unit ends and emits its token (R72, R73). -/
def opEnd (slab unit idx : Nat) (s : State) : State :=
  match ((s.slab slab).started.filter fun o => o.unit == unit)[idx]? with
  | none => s
  | some o =>
    if !s.running then s
    else if o.unit = 5 && o.op != 0 then s.collEnd slab o
    else if (s.slab slab).canEnd o then ((s.retire slab o).arriveEnded slab o).emitToken slab o
    else s

def execCAllredSum (slab : Nat) (s : State) : Host.Outcome State Fault Refusal := .next (fireColl 1 slab s)
def execCAllredMax (slab : Nat) (s : State) : Host.Outcome State Fault Refusal := .next (fireColl 2 slab s)
def execCAllredWelf (slab : Nat) (s : State) : Host.Outcome State Fault Refusal := .next (fireColl 3 slab s)
def execCRedscat (slab : Nat) (s : State) : Host.Outcome State Fault Refusal := .next (fireColl 4 slab s)
def execCBcast (slab : Nat) (s : State) : Host.Outcome State Fault Refusal := .next (fireColl 5 slab s)
def execCAll2all (slab : Nat) (s : State) : Host.Outcome State Fault Refusal := .next (fireColl 6 slab s)
def execCAllgather (slab : Nat) (s : State) : Host.Outcome State Fault Refusal := .next (fireColl 7 slab s)
def execCGatherArrive (slab : Nat) (s : State) : Host.Outcome State Fault Refusal := .next (fireColl 8 slab s)
def execCBarrier (slab : Nat) (s : State) : Host.Outcome State Fault Refusal := .next (fireColl 9 slab s)
def execCollectiveMeet (part ctx lidx : Nat) (s : State) : Host.Outcome State Fault Refusal :=
  .next (collectiveMeet part ctx lidx s)
def execGatherUnitArrive (slab queue unit : Nat) (s : State) : Host.Outcome State Fault Refusal :=
  .next (gatherUnitArrive slab queue unit s)
def execCollWatchdogExpire (slab queue : Nat) (s : State) : Host.Outcome State Fault Refusal :=
  .next (collWatchdogExpire slab queue s)
def execOpEnd (slab unit idx : Nat) (s : State) : Host.Outcome State Fault Refusal := .next (opEnd slab unit idx s)

end Sys2Proof.Machine
end

