-- ==== Sys2Proof/Machine/Geode.lean ====
section
/-! DEFINITION. Geode.lean: attestation, tenant sessions, signers, debug unlock and the anti-rollback commit
(R446 to R470). -/

namespace Sys2Proof.Machine

def digest (bs : List Byte) : List Byte := bytesAt (Config.sha3 bs) 0 64

/-! ## Attestation reports -/

/-- The quotas of a partition in the argument layout of PART_CREATE (R389, R453). -/
def quotaRecord (p : Nat) (q : Quota) : List Byte :=
  toLe 1 p ++ toLe 1 q.mask ++ toLe 1 (boolNat q.hostAccess) ++ toLe 1 q.enc ++ toLe 1 q.dec ++ toLe 1 q.slots
    ++ toLe 1 q.hbm ++ toLe 1 q.fab ++ toLe 1 q.host ++ toLe 1 0 ++ toLe 2 q.spad ++ toLe 2 q.hot ++ toLe 2 0 ++ toLe 4 q.frames

/-- The configuration record (R453). -/
def State.configRecord (s : State) (p : Nat) : List Byte :=
  let x := s.part p
  bytesAt (quotaRecord p x.q ++ toLe 1 (boolNat s.hub.service) ++ toLe 1 (boolNat s.geode.debug)
    ++ toLe 1 (boolNat x.session.isSome)) 0 32

/-- The signer entries of a partition: key digests, or zeros (R452). -/
def Part.signerDigests (p : Part) : List Byte :=
  ((List.range 8).map fun i =>
    let k := nth p.signers i
    if k = [] then List.replicate 64 (0 : Byte) else digest k).flatten

/-- A context entry of a report (R452). -/
def Ctx.reportEntry (c : Ctx) : List Byte :=
  toLe 2 c.num ++ toLe 1 (match c.st with | .resident => 0 | .out => 1 | .faulted => 2) ++ List.replicate 13 0
    ++ (match c.prog with | some g => bytesAt g.meas 0 64 | none => List.replicate 64 0)

/-- Everything of a report before SIGNATURE (R452). -/
def State.reportBody (s : State) (p seq : Nat) (nonce kem : List Byte) : List Byte :=
  let x := s.part p
  let cs := sortBy Ctx.num x.ctxs
  let flags := boolNat s.geode.debug + 2 * boolNat s.hub.service + 4 * boolNat (!kem.isEmpty) + 8
  toLe 4 0x4E464131 ++ toLe 2 1 ++ toLe 2 flags ++ toLe 4 (6611 + 80 * cs.length) ++ toLe 1 p ++ toLe 1 s.partCode
    ++ toLe 1 stepping ++ toLe 1 0 ++ toLe 12 s.hub.fuse.serial.toNat ++ toLe 1 s.hub.svnFw.val ++ toLe 1 s.hub.fuse.svn.val
    ++ toLe 2 0 ++ toLe 8 seq ++ toLe 2 cs.length ++ List.replicate 22 0 ++ bytesAt nonce 0 32
    ++ digest Config.bedrock ++ bytesAt s.hub.mFw 0 64 ++ bytesAt s.hub.mUcode 0 64 ++ digest (s.configRecord p)
    ++ digest x.signerDigests ++ bytesAt kem 0 1568 ++ (cs.map Ctx.reportEntry).flatten

/-- Which key signs: 0 the identity key, else 1 + the draw of the debug key (R450, R467). -/
def Geode.signer (g : Geode) : Nat := if g.debug then 1 + g.debugKey else 0

/-- An ML-DSA-87 signature of 4,627 bytes over the digest of a body (R452). -/
def Geode.signed (g : Geode) (body : List Byte) : List Byte := bytesAt (Config.sign g.signer (digest body)) 0 4627

/-- ATTEST (R452 to R455). -/
def attest (s : State) (f : Flight) : State :=
  let a := f.arg 0 8
  let n := f.arg 8 4
  let len := 6611 + 80 * (s.part f.fn).ctxs.length
  if !bufOk a n || n < len then s.failCmd f .argRange else
  let (d, s1) := if (s.part f.fn).session.isSome then (0, s) else s.entropyDraw
  let kem := if (s.part f.fn).session.isSome then [] else bytesAt (Config.kemPublic d) 0 1568
  let body := s1.reportBody f.fn f.seq (bytesAt f.args 16 32) kem
  let s2 := if kem = [] then s1 else s1.modPart f.fn fun q => { q with pendKey := some (d, digest body) }
  s2.okCmd f len [{ addr := a, len := n, bytes := body ++ s1.geode.signed body, index := 1, epoch := true }]

/-! ## Tenant sessions -/

/-- The tweak of a word: its physical number on the slab, and the slab (R296). -/
def xtsTweak (slab word : Nat) : BitVec 128 := BitVec.ofNat 128 (word % 2 ^ 64 + slab % 16 * 2 ^ 64)

/-- What bytes written under one key pair read as under another (R296, R297): word by word, at physical places that are free
(log 11). HBM stands in State as its readers see it, in plaintext under the present key. -/
def recode (old new slab d : Nat) (bs : List Byte) : List Byte :=
  (List.range (ceilDiv bs.length 64)).flatMap fun i =>
    let t := xtsTweak slab (Config.physWord d i)
    bytesAt (Config.xtsOpen new t (Config.xtsSeal old t (bytesAt bs (64 * i) 64))) 0 64

/-- The cells [a, a + n) of a memory after a change of key. -/
def recodeRange (old new slab d : Nat) (m : Mem) (a n : Nat) : Mem := Memory.write m a (recode old new slab d (Memory.read m a n))

/-- What a partition holds in HBM under a new key pair, or none at 0 (R296, R457, R467). -/
def Part.rekey (p : Part) (new d : Nat) : Part :=
  let re := recodeRange p.key new
  { p with
    key := new
    flat := (p.flat.zip p.flatFrames).zipIdx.map fun x =>
      x.1.2.foldl (fun m fr => re x.2 (d + x.2) m (fr * frameBytes) frameBytes) x.1.1
    regions := p.regions.zipIdx.map fun r =>
      { r.1 with
        bytes := r.1.pages.foldl (fun m g => re r.1.home (d + 8 + r.2) m (g.num * 65536) (if g.big then 2097152 else 65536))
          r.1.bytes }
    models := p.models.zipIdx.map fun m =>
      { m.1 with parts := m.1.parts.map fun x =>
        { x with bytes := re ((maskList x.mask 8).headD 0) (d + 4104 + m.2) x.bytes 0 (x.size * 1048576) } }
    held := p.held.zipIdx.map fun h => { h.1 with bytes := (recode p.key new h.1.slab (d + 4360 + h.2) h.1.bytes).take h.1.bytes.length }
    ctxs := p.ctxs.map fun c =>
      if c.st ≠ .out then c else
      { c with data := c.data.map fun x => { x with share := re x.slab (d + 5384 + c.num) x.share 0 c.shareBytes } } }

/-- A partition's key pair is replaced, and what it holds in HBM with it, its codec sessions' buffers among it (R296,
R419). -/
def State.rekey (s : State) (p new : Nat) : State :=
  ((s.setFree (s.free + 6144)).modPart p fun q => q.rekey new s.free).scrambleCodec p

/-- The partition holds something that SESSION_OPEN forbids, or another command of it is in flight (R456). -/
def State.sessionBusy (s : State) (f : Flight) : Bool :=
  let p := s.part f.fn
  p.session.isSome || (s.flights.any fun g => g.fn == f.fn && decide (g.seq < f.seq))
    || !p.ctxs.isEmpty || !p.models.isEmpty || !p.regions.isEmpty || !p.held.isEmpty
    || s.codec.sessions.any fun c => c.part == f.fn

/-- Steps 2 to 5 of a SESSION_OPEN, once the host has given back the window's lines (R457): a fresh key pair for what the
partition holds. -/
def State.sessionReady (s : State) (f : Flight) : State :=
  let (key, s1) := s.entropyDraw
  (s1.rekey f.fn key).modFlight f.seq fun g => { g with status := .ok, phase := .done }

/-- SESSION_OPEN (R456, R457). -/
def sessionOpen (s : State) (f : Flight) : State :=
  let a := f.arg 8 8
  let n := f.arg 16 4
  if !bufOk a n || n < 128 then s.failCmd f .argRange
  else if s.sessionBusy f then s.failCmd f .sessionBusy else
  match (s.part f.fn).pendKey with
  | none => s.failCmd f .authFail
  | some (d, dig) =>
    match s.hostIn f f.cmd.code 1 (f.arg 0 8) 1568 with
    | (s, .error e) => s.failCmd f e
    | (s, .ok ct) =>
      let label : List Byte := [0x4E, 0x46, 0x2D, 0x53, 0x45, 0x53, 0x53, 0x49, 0x4F, 0x4E, 0x2D, 0x31]
      let okm := bytesAt (Config.shake256 (bytesAt (Config.kemDecaps d ct) 0 32 ++ dig ++ label) 64) 0 64
      let k : Session := { handle := 0, kIn := okm.take 32, kOut := okm.drop 32, used := [], saves := [] }
      let (h, s1) := s.newHandle
      let s2 := (s1.modPart f.fn fun q =>
        { q with pendKey := none, session := some { k with handle := h }, signers := List.replicate 8 [] }).closeWindow f.fn
      let plain := bytesAt (toLe 4 h ++ toLe 1 f.fn ++ List.replicate 59 0 ++ dig) 0 n
      let out : OutBuf := { addr := a, len := protSize n, bytes := sealBuffer k.kOut f.fn f.cmd.code 0 0 plain, index := 0, epoch := true }
      let s3 := s2.modFlight f.seq fun g => { g with phase := .busy, value := h, outs := [out] }
      if s3.windowClosed f.fn then s3.sessionReady f else s3

/-- The end of a tenant session (R346, R464): contexts, codec sessions, models, regions, flat memory, held results and
images go, the keys are zeroised and a new HBM key pair is drawn. -/
def State.endSession (s : State) (p : Nat) : State :=
  let s0 := s.teardownAll p
  let (d, s1) := (s0.setCodec (s0.codec.closePart p)).entropyDraw
  let s2 := s1.modPart p fun q =>
    { q with
      session := none
      key := d
      models := []
      regions := []
      held := []
      flat := List.replicate 8 []
      flatFrames := List.replicate 8 []
      ctxs := q.ctxs.map fun c => c.tornDown.blank }
  s2.dropBad fun x => placePart x == some p

/-- SESSION_CLOSE (R464). -/
def sessionClose (s : State) (f : Flight) : State :=
  if !(s.part f.fn).session.any (fun k => k.handle == f.arg 0 4) then s.failCmd f .handleBad
  else ((((s.abortPart f.fn f.seq).endSession f.fn).okCmd f).modFlight f.seq fun g => { g with prot := false })

/-! ## Image signers (R465) -/

def signerAdd (s : State) (f : Flight) : State :=
  let i := f.arg 8 1
  if 7 < i then s.failCmd f .argRange
  else if nth (s.part f.fn).signers i ≠ [] then s.failCmd f .signerFull else
  match s.hostIn f f.cmd.code 1 (f.arg 0 8) 2592 with
  | (s, .error e) => s.failCmd f e
  | (s, .ok k) => (s.modPart f.fn fun q => { q with signers := modAt q.signers i fun _ => k }).okCmd f

def signerRemove (s : State) (f : Flight) : State :=
  let i := f.arg 0 1
  if 7 < i || nth (s.part f.fn).signers i == [] then s.failCmd f .argRange
  else (s.modPart f.fn fun q => { q with signers := modAt q.signers i fun _ => [] }).okCmd f

/-! ## Debug unlock -/

/-- The token is one for this module and its present challenge (R467). -/
def State.tokenOk (s : State) (t : List Byte) : Bool :=
  t.length == 4691 && numAt t 0 4 == 0x4E464454 && numAt t 4 2 == 1 && numAt t 8 12 == s.hub.fuse.serial.toNat
    && decide (numAt t 24 4 < 4) && numAt t 32 32 == s.geode.chal.toNat
    && Config.sigOk Config.debugKey (digest (t.take 64)) (t.drop 64)

/-- A DEBUG_UNLOCK fails: the challenge is drawn anew, whatever the code (R467, R469). -/
def State.debugFails (s : State) (f : Flight) (c : St) : State :=
  let (d, s1) := s.entropyDraw
  (s1.setGeode { s1.geode with chal := Config.entropy d }).failCmd f c

/-- What debug unlock does to Geode and the port: keys zeroised, a debug key pair drawn, the scope opened (R467). -/
def State.openDebug (s : State) (scope : Nat) : State :=
  let s1 := s.setPort { s.port with keyIo := [], keyCm := [], ideIo := 0, ideCm := 0 }
  let (d, s2) := s1.entropyDraw
  s2.setGeode
    { s2.geode with
      debug := true
      debugKey := d
      seedLocked := true
      scope := scope
      spdm := s2.geode.spdm.map fun x => { x with session := 0, secret := [] } }

/-- DEBUG_UNLOCK (R467). The key pair of the Steward's frames stays (log 28). -/
def debugUnlock (s : State) (f : Flight) : State :=
  match (if f.arg 8 4 = 4691 then s.hostIn f f.cmd.code 1 (f.arg 0 8) 4691 else (s, .ok [])) with
  | (s, .error e) => s.debugFails f e
  | (s, .ok t) =>
    if !s.tokenOk t then s.debugFails f .debugToken
    else
      let s1 := (List.range 15).foldl (fun s i => if (s.part (i + 1)).live then s.destroyPart (i + 1) f.seq else s) s
      (((s1.rekey 0 0).modPart 0 fun q => { q with pendKey := none }).openDebug (numAt t 24 4)).okCmd f

/-- The certificate chain of SPDM slot 0: the boot store's, and once debug is unlocked the debug key's certificate, signed by
the identity key (R450, R467). -/
def State.certChain (s : State) : List Byte :=
  if s.geode.debug then
    let c := Config.debugCert s.geode.debugKey s.hub.fuse.serial
    Config.certChain ++ c ++ bytesAt (Config.sign 0 (digest c)) 0 4627
  else Config.certChain

/-! ## The anti-rollback commit -/

/-- A write of GEO_SVN_COMMIT (R448, R470). -/
def geoSvnCommitWrite (v : Word) (s : State) : State :=
  if s.running && s.port.up && s.port.cxl && !s.hub.service && v.toNat == 0x5F4E0000 + s.hub.svnFw.val then
    s.setHub { s.hub with fuse := { s.hub.fuse with svn := if s.hub.fuse.svn < s.hub.svnFw then s.hub.svnFw else s.hub.fuse.svn } }
  else s

def execGeoSvnCommitWrite (v : Word) (s : State) : Host.Outcome State Fault Refusal := .next (geoSvnCommitWrite v s)

/-- ENTROPY_HEALTH_FAIL (R451): the module stops. -/
def entropyHealthFail (s : State) : State :=
  if s.hub.stop.isSome || !(decide (s.hub.power = .up) || (decide (s.hub.power = .starting) && decide (1 ≤ s.hub.startup.step))) then s else
  let (o, s1) := s.opportunity 0x0901 Armed.onModule
  (s1.setGeode { s1.geode with entOk := false }).stopModule .selftest 0xF 0xE
    (if s.hub.power = .up then 0xE else s.hub.startup.step) 0xFFFFFFFF o.isSome

def execEntropyHealthFail (s : State) : Host.Outcome State Fault Refusal := .next (entropyHealthFail s)

end Sys2Proof.Machine
end

