-- ==== Sys2Proof/Machine/Power.lean ====
section
/-! DEFINITION. Power.lean: the input, draw, temperatures, calibration domains, Rest and the sideband filters
(R293 to R295, R491 to R511, R535 to R537). -/

namespace Sys2Proof.Machine

/-! ## Glitch filters -/

/-- Widths of a sideband filter in ns: ignored at most the first, acted on from the second (R535). -/
def filterWidths (pin : Nat) : Nat × Nat :=
  [(500, 1000), (8000, 10000), (18000, 20000), (800, 1000), (50, 120), (50, 120)].getD pin (0, 0)

/-- Whether a pulse passes its filter; between the two widths it is a free choice (R535, log 15). -/
def State.passes (s : State) (pin ns : Nat) : Bool × State :=
  let w := filterWidths pin
  if ns ≤ w.1 then (false, s) else if w.2 ≤ ns then (true, s) else (Config.freeBool s.free, s.draw.2)

/-! ## The input -/

/-- The input voltage lies inside its range, in mV (R491). -/
def vinOk (mv : Nat) : Bool := decide (40000 ≤ mv) && decide (mv ≤ 60000)

/-- The hub stays supplied at this input (R493). -/
def hubKept (mv : Nat) : Bool := decide (30000 ≤ mv) && decide (mv ≤ 66000)

/-- Start-up has passed its power-sequencing step (R492, R517). -/
def State.pastStep0 (s : State) : Bool :=
  decide (s.hub.power = .up) || (decide (s.hub.power = .starting) && decide (1 ≤ s.hub.startup.step))

/-- Losing the hub supply empties the staging area and forgets the start-up points (R520). -/
def State.loseHub (s : State) : State :=
  (s.setHub { s.hub with staged := [{ bytes := [], complete := none }, { bytes := [], complete := none }] }).setTalus
    { s.talus with startup := [] }

/-- Step 0 waits for its two conditions again (R517, R537). -/
def State.backToWaiting (s : State) : State := s.setHub { s.hub with power := .off, startup := Startup.reset }

/-- VIN_EXCURSION: the filtered input reads `mv` (R491, R517). What an excursion does comes after its debounce. -/
def vinExcursion (mv : Nat) (s : State) : State :=
  let s1 := s.setPower { s.power with vin := mv, excursion := !vinOk mv }
  if !vinOk mv && decide (s1.hub.power = .starting) && s1.hub.startup.step == 0 && s1.hub.stop.isNone then s1.backToWaiting else s1

/-- VIN_DEBOUNCE_EXPIRE: the excursion has lasted more than 50 µs (R491). Outside 30 V to 66 V the hub supply goes too, after
a stop once the other supplies have gone (R493). -/
def vinDebounceExpire (s : State) : State :=
  if !s.power.excursion then s
  else if s.pastStep0 && s.hub.stop.isNone then s.stopModule .vinRange 0xF 0xF 0xF 0xFFFFFFFF
  else if hubKept s.power.vin then s
  else match s.hub.stop with
  | none => s.loseHub
  | some x => if x.suppliesOff then (s.loseHub).backToWaiting else s

/-- PWR_GOOD_IN falls past its filter (R492, R517, R537). -/
def State.pwrGoodFalls (s : State) (inj : Bool) : State :=
  let s1 := s.setHub { s.hub with pins := { s.hub.pins with pwrGood := false } }
  if s1.hub.power = .starting && s1.hub.startup.step == 0 && s1.hub.stop.isNone then s1.backToWaiting
  else if s1.pastStep0 then s1.stopModule .pwrGood 0xF 0xF 0xF 0xFFFFFFFF inj
  else s1

def pwrGoodInDeassert (ns : Nat) (s : State) : State :=
  match s.passes 2 ns with
  | (true, s1) => s1.pwrGoodFalls false
  | (false, s1) => s1

/-- What a removal of the slab and stack supplies loses (R493): every byte of scratchpad, accumulators and HBM. -/
def State.loseMemories (s : State) : State :=
  let s1 := s.setParts (s.parts.map fun p =>
    { p with
      flat := List.replicate 8 []
      flatFrames := List.replicate 8 []
      regions := []
      models := []
      held := []
      ctxs := [] })
  s1.setSlabs (s1.slabs.map fun b => { b with regs := [], bad := [] })

/-- SUPPLY_SHUTDOWN: after a power or thermal stop the supplies are removed, the hub's last and only where the input
lies outside 30 V to 66 V (R493). -/
def supplyShutdown (s : State) : State :=
  match s.hub.stop with
  | none => s
  | some x =>
    if x.suppliesOff || !([St.vinRange, .pwrGood, .thermTrip, .hbmTrip].contains x.code) then s else
    let s1 := (s.setHub { s.hub with stop := some { x with suppliesOff := true } }).loseMemories
    if hubKept s1.power.vin then s1 else (s1.loseHub).backToWaiting

/-! ## Stack temperatures (R293, R295) -/

/-- The throttle level after a reading, with the times it keeps. -/
def Stack.reading (t : Stack) (temp now : Nat) : Stack :=
  let cool := if temp ≤ 80 then some (t.coolSince.getD now) else none
  if 85 ≤ temp then
    let down := t.level == 0 || (decide (t.level < 3) && decide (t.steppedAt + 1000 ≤ now))
    { t with
      temp := temp
      coolSince := cool
      level := if down then t.level + 1 else t.level
      steppedAt := if down then now else t.steppedAt }
  else if t.level ≠ 0 && cool.any (fun c => decide (c + 10000 ≤ now)) then
    { t with temp := temp, level := t.level - 1, coolSince := some now }
  else { t with temp := temp, coolSince := cool }

/-- STACK_TEMP_READING of stack k of the module, with injection 0x0601. -/
def stackTempReading (k temp : Nat) (s : State) : State :=
  if !s.running || 3 * s.slabCount ≤ k then s else
  let (o, s1) := s.opportunity 0x0601 fun a => a.onStack k
  let temp := (o.map fun a => fld a.param 7 0).getD temp
  let t := nth (s1.slab (k / 3)).hbm (k % 3)
  let u := t.reading temp (nth (s1.slab (k / 3)).timers 9)
  let s2 := s1.modSlab (k / 3) fun b => { b with hbm := modAt b.hbm (k % 3) fun _ => u }
  let s3 := if u.level = t.level then s2 else
    s2.moduleEvent .hbmThrottle 0 (k / 3) 0x9 (k % 3 + u.level * 256 + temp * 65536) 0 0 o.isSome
  if 95 ≤ temp then s3.stopModule .hbmTrip (k / 3) 0x9 k 0xFFFFFFFF o.isSome else s3

/-! ## Draw and junction temperature (R496 to R499) -/

/-- The sustained limit in W (R49). -/
def State.sustained (s : State) : Nat := match s.hub.fuse.part with | .b824 => 3200 | .b618 => 2450

def boolMask (l : List Bool) : Nat := (l.zipIdx.filter fun x => x.1).foldl (fun m x => m ||| 2 ^ x.2) 0

/-- Mask of the slabs limited (R499). -/
def PowerMgr.limited (p : PowerMgr) : Nat := boolMask p.limitPower ||| boolMask p.limitTherm

/-- The ST_POWER_LIMIT event (R499). -/
def State.powerLimitEvent (s : State) (therm inj : Bool) : State :=
  s.moduleEvent .powerLimit 0 0xF 0xF (s.power.limited + boolNat therm * 256) s.power.draw (maxNat s.power.tj) inj

/-- DRAW_LIMIT_REACHED: the 100 ms average reads `watts`; `mask` are the slabs that draw most (R496). -/
def drawLimitReached (watts mask : Nat) (s : State) : State :=
  if !s.running then s else
  let (o, s1) := s.opportunity 0x0605 Armed.onModule
  let w := (o.map fun a => fld a.param 15 0).getD watts
  let s2 := s1.setPower { s1.power with draw := w }
  if w < s.sustained || s2.power.episode then s2 else
  let l := (List.range 8).map fun k => decide (k < s.slabCount) && bitOf mask k
  (s2.setPower { s2.power with episode := true, limitPower := l }).powerLimitEvent false o.isSome

/-- POWER_LIMIT_EPISODE_END (R496). -/
def powerLimitEpisodeEnd (watts : Nat) (s : State) : State :=
  if s.running && s.power.episode && decide (watts * 100 ≤ s.sustained * 95) then
    s.setPower { s.power with draw := watts, episode := false, limitPower := List.replicate 8 false }
  else s

/-- A slab's limit after a junction reading (R498). -/
def PowerMgr.junction (p : PowerMgr) (u temp now : Nat) : PowerMgr :=
  let p1 := { p with tj := modAt p.tj u fun _ => temp }
  if 8 ≤ u then p1 else
  let cool := if temp ≤ 95 then some ((nth p.coolSince u).getD now) else none
  let hot := decide (100 ≤ temp)
  let lift := !hot && cool.any fun c => decide (c + 10000 ≤ now)
  { p1 with
    coolSince := modAt p1.coolSince u fun _ => cool
    limitTherm := modAt p1.limitTherm u fun b => hot || (b && !lift) }

/-- JUNCTION_TEMP_READING of slab `u`, or of the hub at 8, with injection 0x0602 (R498, R499). -/
def junctionTempReading (u temp : Nat) (s : State) : State :=
  if !s.running || (u != 8 && decide (s.slabCount ≤ u)) then s else
  let (o, s1) := s.opportunity 0x0602 fun a => a.onModule || (decide (u < 8) && a.onSlab u)
  let temp := (o.map fun a => fld a.param 7 0).getD temp
  let was := nth s1.power.limitTherm u
  let s2 := s1.setPower (s1.power.junction u temp s1.powTime)
  let s3 := if !was && decide (u < 8) && decide (100 ≤ temp) then s2.powerLimitEvent true o.isSome else s2
  if 110 ≤ temp then s3.stopModule .thermTrip 0xF 0xF (if u < 8 then u else 0xF) 0xFFFFFFFF o.isSome else s3

/-! ## Calibration (R504 to R507) -/

/-- The domain exists on this part: slabs, then stacks at 8 + k. -/
def State.domainExists (s : State) (d : Nat) : Bool :=
  if d < 8 then decide (d < s.slabCount) else decide (d - 8 < 3 * s.slabCount)

/-- A load above 1.10 times a capture load. -/
def loadOver (load capture : Nat) : Bool := decide (capture * 110 < load * 100)

/-- The domain as D0 shows it (R507). -/
def domainCode (d : Nat) : Nat := if d < 8 then d else 0x10 + (d - 8)

def State.modDomain (s : State) (d : Nat) (g : Domain → Domain) : State :=
  s.setPower { s.power with domains := modAt s.power.domains d g }

def State.calStale (s : State) (d : Nat) (failed inj : Bool) : State :=
  let x := nth s.power.domains d
  s.moduleEvent .calStale 0 0xF 0xF (domainCode d + boolNat failed * 256) x.capture x.load inj

/-- CAL_LOAD_SAMPLE: a domain's average over 1 local ms (R505), with injection 0x0606. -/
def calLoadSample (d load : Nat) (s : State) : State :=
  if !s.running || !s.domainExists d then s else
  let (o, s1) := s.opportunity 0x0606 Armed.onModule
  let x := nth s1.power.domains d
  let load := if o.isSome && !loadOver load x.capture then x.capture * 110 / 100 + 1 else load
  let up := loadOver load x.capture
  let s2 := s1.modDomain d fun x =>
    { x with
      load := load
      fallback := up
      since := if up && !x.fallback then s1.powTime else x.since
      recal := if up then x.recal.map (Nat.min load) else none }
  if up && !x.fallback then s2.calStale d false o.isSome else s2

/-- RECAL_START (R503, R506). -/
def recalStart (d : Nat) (s : State) : State :=
  let x := nth s.power.domains d
  if s.running && s.domainExists d && decide (s.hub.rest = .awake) && x.fallback && x.recal.isNone
      && decide (x.since + 5000 ≤ s.powTime) then
    s.modDomain d fun x => { x with recal := some x.load }
  else s

/-- RECAL_END (R506): a new record tagged with the lowest load seen, or the factory tables stay. -/
def recalEnd (d : Nat) (valid : Bool) (s : State) : State :=
  let x := nth s.power.domains d
  match x.recal with
  | none => s
  | some m =>
    if !s.running then s else
    if valid then
      s.modDomain d fun x =>
        { x with capture := m, recal := none, fallback := loadOver x.load m, since := s.powTime }
    else (s.modDomain d fun x => { x with recal := none, since := s.powTime }).calStale d true false

/-! ## Rest (R500 to R503) -/

/-- A wake request (R502). -/
def State.wake (s : State) : State :=
  if s.hub.rest = .inRest || s.hub.rest = .entering then s.setHub { s.hub with rest := .waking } else s

/-- REST_ENTRY_END (R500): recalibrations in progress are abandoned (R503). -/
def restEntryEnd (s : State) : State :=
  if s.running && decide (s.hub.rest = .entering) then
    (s.setHub { s.hub with rest := .inRest }).setPower
      { s.power with domains := s.power.domains.map fun x => { x with recal := none } }
  else s

/-- WAKE_PIN: WAKE# held low for `ns` (R502, R537). -/
def wakePin (ns : Nat) (s : State) : State :=
  match s.passes 3 ns with
  | (true, s1) => if s1.running then s1.wake else s1
  | (false, s1) => s1

/-- PWR_WAKE_WRITE (R509): in the physical function's window. -/
def pwrWakeWrite (v : Word) (s : State) : State :=
  if s.running && s.port.up && s.port.cxl && bitOf v.toNat 0 then s.wake else s

def execVinExcursion (millivolts : Nat) (s : State) : Host.Outcome State Fault Refusal := .next (vinExcursion millivolts s)
def execVinDebounceExpire (s : State) : Host.Outcome State Fault Refusal := .next (vinDebounceExpire s)
def execPwrGoodInDeassert (ns : Nat) (s : State) : Host.Outcome State Fault Refusal := .next (pwrGoodInDeassert ns s)
def execSupplyShutdown (s : State) : Host.Outcome State Fault Refusal := .next (supplyShutdown s)
def execStackTempReading (stack temp : Nat) (s : State) : Host.Outcome State Fault Refusal := .next (stackTempReading stack temp s)
def execJunctionTempReading (unit temp : Nat) (s : State) : Host.Outcome State Fault Refusal := .next (junctionTempReading unit temp s)
def execDrawLimitReached (watts mask : Nat) (s : State) : Host.Outcome State Fault Refusal := .next (drawLimitReached watts mask s)
def execPowerLimitEpisodeEnd (watts : Nat) (s : State) : Host.Outcome State Fault Refusal := .next (powerLimitEpisodeEnd watts s)
def execCalLoadSample (domain load : Nat) (s : State) : Host.Outcome State Fault Refusal := .next (calLoadSample domain load s)
def execRecalStart (domain : Nat) (s : State) : Host.Outcome State Fault Refusal := .next (recalStart domain s)
def execRecalEnd (domain : Nat) (valid : Bool) (s : State) : Host.Outcome State Fault Refusal := .next (recalEnd domain valid s)
def execRestEntryEnd (s : State) : Host.Outcome State Fault Refusal := .next (restEntryEnd s)
def execWakePin (ns : Nat) (s : State) : Host.Outcome State Fault Refusal := .next (wakePin ns s)
def execPwrWakeWrite (v : Word) (s : State) : Host.Outcome State Fault Refusal := .next (pwrWakeWrite v s)

end Sys2Proof.Machine
end

