-- ==== Sys2Proof/Machine/Startup.lean ====
section
/-! DEFINITION. Startup.lean: resets and their scopes, and the start-up sequence (R346, R512 to R527). -/

namespace Sys2Proof.Machine

/-! ## Module reset -/

/-- Every unit but the management endpoint, the input monitors and the staging area at its reset value (R512, R513). -/
def State.resetUnits (s : State) (pw : Power) : State :=
  let h := s.hub
  let hub : Hub :=
    { Hub.reset h.fuse with power := pw, staged := h.staged, pins := { h.pins with thermTrip := false } }
  let s1 := ((((s.setHub hub).setPort Port.reset).setFns (List.replicate 16 Fn.reset)).setFlights []).setParts (List.replicate 16 Part.absent)
  let s2 := ((s1.setNextHandle 1).setSlabs (List.replicate 8 Slab.reset)).setCodec { cores := List.replicate 8 Core.reset, sessions := [] }
  let s3 := (s2.setGeode (Geode.reset s.geode.draws)).setTalus
    { rings := List.replicate 17 Ring.reset, alarms := [], armed := [], startup := s.talus.startup }
  s3.setPower { PowerMgr.reset with vin := s.power.vin, excursion := s.power.excursion }

/-- POWER_ON: the input is in range with PWR_GOOD_IN asserted, both past their filters (R512, R517, R534, R537). -/
def powerOn (mv straps : Nat) (s : State) : State :=
  if !vinOk mv then s else
  let s1 := (s.setPower { s.power with vin := mv, excursion := false }).setHub
    { s.hub with pins := { s.hub.pins with pwrGood := true } }
  if s1.hub.power ≠ .off then s1 else
  let s2 := s1.setHub { s1.hub with pins := { s1.hub.pins with straps := straps } }
  s2.resetUnits (if s2.hub.pins.modRst then .held else .starting)

/-- MOD_RST# asserted past its filter (R513, R515). -/
def State.modRst (s : State) : State :=
  let s1 := s.setHub { s.hub with pins := { s.hub.pins with modRst := true } }
  if s1.hub.power = .off then s1 else s1.setTalus { s1.talus with startup := [] } |>.resetUnits .held

def modRstAssert (ns : Nat) (s : State) : State :=
  match s.passes 1 ns with
  | (true, s1) => s1.modRst
  | (false, s1) => s1

/-- MOD_RST_RELEASE (R512, R517, R537): start-up begins, or the module waits for its two power conditions. -/
def modRstRelease (s : State) : State :=
  let s1 := s.setHub { s.hub with pins := { s.hub.pins with modRst := false } }
  if s1.hub.power ≠ .held then s1
  else if s1.hub.pins.pwrGood && vinOk s1.power.vin then s1.setHub { s1.hub with power := .starting }
  else s1.setHub { s1.hub with power := .off }

/-! ## Function Level Reset (R346, R487, R512) -/

/-- What a reset of function `i` does to its partition; `keepHeld` for a host-port reset (R387, R514). -/
def State.resetPartition (s : State) (p : Nat) (keepHeld : Bool) : State :=
  let mine := s.flights.filter fun f => f.fn == p
  let s1 := mine.foldl (fun s f =>
    if f.phase = .busy && (f.cmd = .regionUnmap || f.cmd = .regionDestroy) then s.unmapEnd f else s) s
  let s2 := s1.teardownAll p
  let s3 := (s2.setFlights (s2.flights.filter fun f => f.fn != p)).setCodec (s2.codec.closePart p)
  if (s3.part p).session.isSome then s3.endSession p
  else if keepHeld then s3
  else s3.modPart p fun q => { q with held := [] }

/-- The function's MBX_ and TAL_ registers and MSI-X table at reset; the physical function holds the module ring's
registers too (R346, R490, R512). Stop alarms last (R481). -/
def State.resetFunction (s : State) (i : Nat) : State :=
  let views := if i = 0 then [0, 16] else [i]
  let t := s.talus
  (s.modFn i fun _ => Fn.reset).setTalus
    { t with
      rings := t.rings.zipIdx.map fun r => if views.contains r.2 then Ring.reset else r.1
      alarms := t.alarms.filter fun a => a.stop || !views.contains a.view
      armed := t.armed.filter fun a => a.fn != i }

def State.flrOne (s : State) (i : Nat) (keepHeld : Bool) : State := (s.resetPartition i keepHeld).resetFunction i

/-- The virtual functions that exist. -/
def State.vfs (s : State) : List Nat := if s.port.vfEnable then (List.range s.port.numVfs).map fun i => i + 1 else []

/-- Clearing VF Enable acts as a Function Level Reset of every virtual function (R346). -/
def State.clearVfs (s : State) : State :=
  let s1 := s.vfs.foldl (fun s i => s.flrOne i false) s
  s1.setPort { s1.port with vfEnable := false }

/-- Configuration requests are answered: after the end of start-up or a stop, with the link up (R522). -/
def State.configOpen (s : State) : Bool :=
  s.port.up && (decide (s.hub.power = .up) || (decide (s.hub.power = .starting) && s.hub.stop.isSome))

/-- FUNCTION_LEVEL_RESET (R346); in Rest it is a wake request (R502). -/
def functionLevelReset (i : Nat) (s : State) : State :=
  if !s.configOpen || !s.fnExists i then s else
  let s1 := if s.running then s.wake else s
  if i = 0 then (s1.clearVfs).flrOne 0 false else s1.flrOne i false

/-- VF_ENABLE_CLEAR (R346). -/
def vfEnableClear (s : State) : State := if s.configOpen && s.port.vfEnable then s.clearVfs else s

/-- VF_ENABLE_SET: NumVFs is written while VF Enable is clear (R342). -/
def vfEnableSet (num : Nat) (s : State) : State :=
  if s.configOpen && !s.port.vfEnable && decide (num ≤ 15) then
    s.setPort { s.port with numVfs := num, vfEnable := true }
  else s

/-- A host-port reset (R512, R514): a Function Level Reset of every function, and the port at reset. -/
def State.hostPortReset (s : State) : State :=
  let s1 := if s.running then s.wake else s
  let s2 := (List.range 16).foldl (fun s i => s.flrOne i true) s1
  s2.setPort { Port.reset with memActive := s2.port.memActive }

/-- PERST# asserted past its filter. -/
def State.perst (s : State) : State :=
  (s.setHub { s.hub with pins := { s.hub.pins with perst := true } }).hostPortReset

def perstAssert (ns : Nat) (s : State) : State :=
  match s.passes 0 ns with
  | (true, s1) => s1.perst
  | (false, s1) => s1

def perstRelease (s : State) : State := s.setHub { s.hub with pins := { s.hub.pins with perst := false } }

/-! ## The start-up sequence -/

/-- A start-up point armed for the next start-up that satisfies a test (R487, R516). -/
def State.startPoint (s : State) (point : Nat) (p : Nat → Bool) : Option Nat :=
  (s.talus.startup.find? fun a => a.1 == point && p a.2).map Prod.snd

/-- The record of a start-up stop: D0 the step (R518). Its UNIT is a free value but for a step's time, which the power
manager keeps (R517). The start-up points are disarmed. -/
def State.startStop (s : State) (code : St) (d1 : Nat) (inj : Bool) : State :=
  let unit := if code = .startTimeout then 0xF else Config.freeNat s.free % 16
  let s1 := s.draw.2.stopModule code 0xF unit s.hub.startup.step d1 inj
  s1.setTalus { s1.talus with startup := [] }

def noIndex : Nat := 0xFFFFFFFF

/-- The image that Bedrock reads: the staged pair if both are sealed, else the factory pair (R521). -/
def State.bootImage (s : State) (i : Nat) : List Byte :=
  if s.hub.staged.all fun g => g.complete.isSome then
    match s.hub.staged[i]? with
    | some g => Memory.read g.bytes 0 (g.complete.getD 0)
    | none => []
  else Config.factoryImage i

def imageSigned (img : List Byte) : Bool := Config.sigOk Config.firmwareKey (digest img) (Config.imageSig img)

/-- The checks of R447 in order: code and image index. -/
def bootCheck (fw uc : List Byte) (counter : Fin 65) : Option (St × Nat) :=
  if !imageSigned fw then some (.bootFw, 0)
  else if !imageSigned uc then some (.bootFw, 1)
  else if Config.imageSvn fw ≠ Config.imageSvn uc then some (.bootFw, noIndex)
  else if Config.imageSvn fw < counter then some (.rollback, noIndex)
  else none

def State.nextStep (s : State) : State :=
  s.setHub { s.hub with startup := { s.hub.startup with step := s.hub.startup.step + 1 } }

/-- Step 1: Geode's health tests and the image pair (R447, R451, R516). -/
def State.stepBoot (s : State) (r : StepReport) : State :=
  let fw := s.bootImage 0
  let uc := s.bootImage 1
  if r.entropyFail then s.startStop .selftest noIndex false
  else if (s.startPoint 0x0C05 fun _ => true).isSome then s.startStop .bootFw 0 true
  else if (s.startPoint 0x0C06 fun _ => true).isSome then s.startStop .rollback noIndex true
  else match bootCheck fw uc s.hub.fuse.svn with
  | some (c, i) => s.startStop c i false
  | none =>
    let s1 := s.setHub
      { s.hub with
        svnFw := Config.imageSvn fw
        mFw := digest fw
        mUcode := digest uc
        startup := { s.hub.startup with stewardUp := true } }
    (s1.setGeode { s1.geode with entOk := true }).nextStep

/-- Step 2: lane repair, frames and eye settings of every stack (R285, R292, R504, R522). A slab's 72 GB are 34,332 frames of
2 MiB (R1, R27). -/
def State.stepHbm (s : State) (r : StepReport) : State :=
  let s1 := s.setSlabs (s.slabs.zipIdx.map fun b =>
    if s.slabCount ≤ b.2 then b.1 else
    { b.1 with
      frames := Nat.max 34076 (Nat.min 34332 (r.frames.getD b.2 0))
      hbm := b.1.hbm.zipIdx.map fun t => { t.1 with repaired := Nat.min 15 (r.lanes.getD (3 * b.2 + t.2) 0) } })
  let s2 := s1.setPower { s1.power with domains := s1.power.domains.zipIdx.map fun d =>
    if (decide (d.2 < 8) || !s.domainExists d.2) then d.1 else { d.1 with capture := r.loads.getD (d.2 - 8) 0 } }
  (s2.setPort { s2.port with memActive := true }).nextStep

/-- Step 3: every scratchpad byte and accumulator value reads +0, and the scrub counters read 0 (R519). -/
def State.stepSelfTest (s : State) : State :=
  (s.setSlabs (s.slabs.map fun b => { b with regs := [], spadCorrected := 0, bad := [] })).nextStep

/-- Link t of slab s is powered (R253). -/
def State.linkPowered (s : State) (slab t : Nat) : Bool := decide (slab < s.slabCount) && decide (t < s.slabCount)

/-- Failed lanes of the direction that a slab sends on a link, and of the one that it receives on (R254). -/
def sendLanes (r : StepReport) (slab t : Nat) : Nat := r.lanes.getD (8 * slab + t) 0
def recvLanes (r : StepReport) (slab t : Nat) : Nat :=
  if t = slab then r.lanes.getD (64 + slab) 0 else sendLanes r t slab

/-- The first powered link, by slab and link, with a direction of more than two failed lanes: slab × 16 + link (R254,
R518). -/
def State.linkFails (s : State) (r : StepReport) : Option Nat :=
  (List.range 64).findSome? fun i =>
    if s.linkPowered (i / 8) (i % 8) && (decide (2 < sendLanes r (i / 8) (i % 8)) || decide (2 < recvLanes r (i / 8) (i % 8))) then
      some (i / 8 * 16 + i % 8)
    else none

/-- Step 4: every powered link runs, with its spare lanes (R254). -/
def State.stepFabric (s : State) (r : StepReport) : State :=
  (s.setSlabs (s.slabs.zipIdx.map fun b =>
    { b.1 with links := b.1.links.zipIdx.map fun l =>
        if s.linkPowered b.2 l.2 then { l.1 with up := true, spares := [sendLanes r b.2 l.2, recvLanes r b.2 l.2] } else l.1 })).nextStep

/-- The end of start-up (R523): partition 0 exists with every quota at zero; sequence numbers restart. -/
def State.startDone (s : State) (r : StepReport) : State :=
  let s1 := s.setPower { s.power with domains := s.power.domains.zipIdx.map fun d =>
    if d.2 < s.slabCount then { d.1 with capture := r.loads.getD d.2 0 } else d.1 }
  let (k, s2) := s1.entropyDraw
  let s3 := s2.modPart 0 fun _ => { Part.absent with live := true, key := k }
  let h := s3.hub
  (s3.setHub
    { h with
      power := .up
      seq := 1
      startup := { h.startup with done := true, elapsed := Nat.min (2 ^ 32 - 1) (s3.powTime - h.startup.began) } }).setTalus
    { rings := List.replicate 17 Ring.reset, alarms := [], armed := [], startup := [] }

/-- The step that runs fails as reported, or by its injection point: code and D1 (R516, R518). -/
def State.stepFails (s : State) (r : StepReport) : Option (St × Nat × Bool) :=
  let n := s.hub.startup.step
  if (s.startPoint 0x0C07 fun p => p % 8 == n).isSome then some (.startTimeout, noIndex, true) else
  let by' (code : St) (point width : Nat) : Option (St × Nat × Bool) :=
    match s.startPoint point fun _ => true with
    | some p => some (code, p % 2 ^ width, true)
    | none => r.failed.map fun i => (code, i, false)
  match n with
  | 0 => r.failed.map fun _ => (.startTimeout, noIndex, false)
  | 2 => by' .hbmTrain 0x0C01 5
  | 3 => by' .selftest 0x0C03 4
  | 4 =>
    match s.startPoint 0x0C02 fun _ => true with
    | some p => some (.fabricTrain, fld p 3 0 * 16 + fld p 7 4, true)
    | none => ((s.linkFails r).or r.failed).map fun i => (.fabricTrain, i, false)
  | 5 => by' .calFail 0x0C04 8
  | _ => none

/-- STARTUP_STEP_END (R516 to R523). -/
def startupStepEnd (r : StepReport) (s : State) : State :=
  if s.hub.power ≠ .starting || s.hub.stop.isSome then s else
  match s.stepFails r with
  | some (c, d1, inj) => s.startStop c d1 inj
  | none =>
    match s.hub.startup.step with
    | 0 => s.nextStep
    | 1 => s.stepBoot r
    | 2 => s.stepHbm r
    | 3 => s.stepSelfTest
    | 4 => s.stepFabric r
    | _ => s.startDone r

/-- STARTUP_TIMEOUT (R517): in step 1 the code is ST_STEWARD once Bedrock has started the Steward; when that is, is a
free choice where the pair verifies. -/
def startupTimeout (s : State) : State :=
  if s.hub.power ≠ .starting || s.hub.stop.isSome then s else
  let inj := (s.startPoint 0x0C07 fun p => p % 8 == s.hub.startup.step).isSome
  let ready := s.hub.startup.step == 1 && (bootCheck (s.bootImage 0) (s.bootImage 1) s.hub.fuse.svn).isNone && Config.freeBool s.free
  let s1 := s.draw.2
  if ready then s1.startStop .steward noIndex inj else s1.startStop .startTimeout noIndex inj

/-! ## Handshakes (R36) -/

/-- HS_TIMEOUT: a handshake that `initiator` started is not acknowledged; `d1` names it. Injections 0x0201, 0x0202. SRC, D0
and D1 are R36's; UNIT of the record is the Steward's, whichever unit waited: DESIGN CHOICE, log 29. -/
def hsTimeout (src initiator d1 : Nat) (s : State) : State :=
  if !s.pastStep0 || s.hub.stop.isSome || (decide (src < 8) && decide (s.slabCount ≤ src)) then s else
  let point := if d1 < 0x100 then 0x0201 else 0x0202
  let (o, s1) := s.opportunity point fun a =>
    (a.onModule || (decide (src < 8) && a.onSlab src)) && (if d1 < 0x100 then fld a.param 3 0 == d1 else fld a.param 1 0 + 0x100 == d1)
  s1.stopModule .hsTimeout src 0xB initiator d1 o.isSome

def execPowerOn (millivolts straps : Nat) (s : State) : Host.Outcome State Fault Refusal := .next (powerOn millivolts straps s)
def execModRstAssert (ns : Nat) (s : State) : Host.Outcome State Fault Refusal := .next (modRstAssert ns s)
def execModRstRelease (s : State) : Host.Outcome State Fault Refusal := .next (modRstRelease s)
def execStartupStepEnd (r : StepReport) (s : State) : Host.Outcome State Fault Refusal := .next (startupStepEnd r s)
def execStartupTimeout (s : State) : Host.Outcome State Fault Refusal := .next (startupTimeout s)
def execPerstAssert (ns : Nat) (s : State) : Host.Outcome State Fault Refusal := .next (perstAssert ns s)
def execPerstRelease (s : State) : Host.Outcome State Fault Refusal := .next (perstRelease s)
def execFunctionLevelReset (fn : Nat) (s : State) : Host.Outcome State Fault Refusal := .next (functionLevelReset fn s)
def execVfEnableClear (s : State) : Host.Outcome State Fault Refusal := .next (vfEnableClear s)
def execVfEnableSet (num : Nat) (s : State) : Host.Outcome State Fault Refusal := .next (vfEnableSet num s)
def execHsTimeout (src initiator d1 : Nat) (s : State) : Host.Outcome State Fault Refusal := .next (hsTimeout src initiator d1 s)

end Sys2Proof.Machine
end

