-- ==== Sys2Proof/Machine/TalusCmds.lean ====
section
/-! DEFINITION. TalusCmds.lean: RING_SET, ALARM_ACK, the ring registers, and the events by which Talus goes on
(R471 to R482). -/

namespace Sys2Proof.Machine

/-- RING_SET (R471, R472). FLAGS bit 0 on a virtual function fails it; unsetting leaves LOG2N and VECTOR as last set. -/
def State.ringSet (s : State) (f : Flight) : State :=
  let base := f.arg 0 8
  let log2n := f.arg 8 1
  let v := f.arg 9 1
  let ofModule := f.arg 10 1 % 2 == 1
  if base % 64 ≠ 0 || log2n < 6 || 16 < log2n || 127 < v then s.failCmd f .argRange
  else if ofModule && f.fn != 0 then s.failCmd f .perm
  else
    let r := if ofModule then 16 else f.fn
    let s1 := s.modRing r fun g =>
      { g with
        isSet := decide (base ≠ 0)
        base := base
        log2n := if base = 0 then g.log2n else log2n
        vector := if base = 0 then g.vector else v
        head := 0
        tail := 0
        written := 0
        blocked := false }
    (s1.okCmd f).flushDrops r

/-- An alarm of a view with a code that can be acknowledged (R481). -/
def Alarm.ackable (a : Alarm) (view : Nat) (c : St) : Bool := a.view == view && decide (a.code = c) && !a.stop

/-- Acknowledge a code in a view; what is acknowledged and has ended is over (R481). -/
def Talus.ack (t : Talus) (view : Nat) (c : St) : Talus :=
  { t with
    alarms := (modWhere t.alarms (fun a => a.ackable view c) fun a => { a with acked := true }).filter fun a =>
      !(a.acked && a.ended) }

/-- The views an ALARM_ACK of a function acts on (R481): the physical function has the module view and partition 0's. -/
def ackViews (fn : Nat) : List Nat := if fn = 0 then [16, 0] else [fn]

def Talus.canAck (t : Talus) (views : List Nat) (code : Nat) : Bool :=
  t.alarms.any fun a => views.any fun v => a.ackable v a.code && a.code.code == code

/-- Acknowledge a code in some views. -/
def Talus.ackIn (t : Talus) (views : List Nat) (code : Nat) : Talus :=
  match t.alarms.find? fun a => a.code.code == code with
  | none => t
  | some a => views.foldl (fun t v => t.ack v a.code) t

/-- ALARM_ACK (R481). -/
def State.alarmAck (s : State) (f : Flight) : State :=
  let views := ackViews f.fn
  let code := f.arg 0 2
  if s.talus.canAck views code then (s.setTalus (s.talus.ackIn views code)).okCmd f else s.failCmd f .argRange

/-- A function answers requests to its BARs: it exists (R342), it is in D0 (R340, log 17), and the CXL.io stream is not
insecure (R363). -/
def State.fnAnswers (s : State) (fn : Nat) : Bool := s.fnExists fn && !(s.fn fn).d3hot && s.port.ideIo != 2

/-- A function's BAR0 can be written: the link runs in CXL mode, start-up has ended, the function answers (R338, R522). -/
def State.barOpen (s : State) (fn : Nat) : Bool := s.port.up && s.port.cxl && decide (s.hub.power = .up) && s.fnAnswers fn

/-- HEAD after a write of `v` moves forward by at most what is there, else stays (R373). -/
def headAfter (head tail v : Nat) : Nat :=
  let h := v % 2 ^ 17
  if (h + 2 ^ 17 - head) % 2 ^ 17 ≤ (tail + 2 ^ 17 - head) % 2 ^ 17 then h else head

/-- A write to TAL_HEAD (R373, R473, R474); drop records that now have room are written (R478). -/
def talHeadWrite (fn : Nat) (ofModule : Bool) (v : Word) (s : State) : State :=
  if !s.barOpen fn || (ofModule && fn != 0) then s else
  let r := if ofModule then 16 else fn
  let s1 := s.modRing r fun g => { g with head := headAfter g.head g.tail v.toNat }
  if s1.hub.stop.isSome then s1 else s1.flushDrops r

/-- COALESCE_WINDOW_END: window `idx` of a ring, counted over its classes in order (R477). -/
def coalesceWindowEnd (ring idx : Nat) (s : State) : State :=
  if !s.running then s else
  match ((s.ring ring).classes.flatMap fun x => x.windows.map fun w => (x, w))[idx]? with
  | none => s
  | some (x, w) =>
    if w.merged = 0 then
      s.modRing ring fun g => g.setClass { x with windows := x.windows.erase w }
    else
      let e := { w.first.getD w.opener with count := w.merged }
      let s1 := s.modRing ring fun g => g.setClass { x with windows := modWhere x.windows (fun y => decide (y = w)) fun y =>
        { y with merged := 0, first := none } }
      s1.deliver [ring] e

/-- EVT_DROPPED_RECORD: the drop record of class `cls` of a ring, once its conditions hold (R478). -/
def evtDroppedRecord (ring cls : Nat) (s : State) : State :=
  if !s.running then s else
  match (s.ring ring).classes[cls]? with
  | none => s
  | some x => s.flushDrop ring x.code x.form

/-- The condition key of ST_LINK_REPLAY on a direction of a slab's link: 0 send, 1 receive. -/
def replayKey (slab t dir : Nat) : Nat := 1 + 16 * slab + 2 * t + dir

/-- The condition key of ST_IDE_FAIL on a stream: 0 CXL.io, 1 CXL.cachemem. -/
def ideKey (stream : Nat) : Nat := 1 + stream

/-- The condition of a lasting alarm still holds (R259, R363, R481). -/
def State.conditionHolds (s : State) (a : Alarm) : Bool :=
  match a.code with
  | .linkReplay =>
    let k := a.key - 1
    0 < a.key && (nth (nth (s.slab (k / 16)).links (k / 2 % 8)).degraded (k % 2))
  | .ideFail => (a.key == ideKey 0 && s.port.ideIo == 2) || (a.key == ideKey 1 && s.port.ideCm == 2)
  | _ => false

/-- ALARM_CONDITION_END: the condition of an alarm has ended (R481): a record with CLEAR in the rings of the views that
still hold it, and what was acknowledged is over. -/
def alarmConditionEnd (idx : Nat) (s : State) : State :=
  if !s.running then s else
  match s.talus.alarms[idx]? with
  | none => s
  | some a =>
    if a.stop || a.ended || s.conditionHolds a then s else
    let same : Alarm → Bool := fun b => decide (b.code = a.code) && b.key == a.key
    let views := (s.talus.alarms.filter fun b => same b && !b.ended).map fun b => b.view
    let s1 := s.setTalus
      { s.talus with
        alarms := (modWhere s.talus.alarms same fun b => { b with ended := true }).filter fun b => !(b.acked && b.ended) }
    let now := (unitEvent s a.ev.code a.ev.part a.ev.src a.ev.unit 0 0 0).time
    s1.deliver views { a.ev with clear := true, time := now }

def execTalHeadWrite (fn : Nat) (ofModule : Bool) (v : Word) (s : State) : Host.Outcome State Fault Refusal :=
  .next (talHeadWrite fn ofModule v s)
def execCoalesceWindowEnd (ring idx : Nat) (s : State) : Host.Outcome State Fault Refusal :=
  .next (coalesceWindowEnd ring idx s)
def execEvtDroppedRecord (ring cls : Nat) (s : State) : Host.Outcome State Fault Refusal :=
  .next (evtDroppedRecord ring cls s)
def execAlarmConditionEnd (idx : Nat) (s : State) : Host.Outcome State Fault Refusal :=
  .next (alarmConditionEnd idx s)

end Sys2Proof.Machine
end

