-- ==== Sys2Proof/Machine/Fabric.lean ====
section
/-! DEFINITION. Fabric.lean: flits and replay windows of the Hentin links (R253, R258, R259, R282), and the background
scrub (R289 to R291). -/

namespace Sys2Proof.Machine

/-! ## Links -/

/-- Change the view that a slab has of one of its links. -/
def State.modLink (s : State) (slab t : Nat) (f : HLink → HLink) : State :=
  s.modSlab slab fun b => { b with links := modAt b.links t f }

def State.link (s : State) (slab t : Nat) : HLink := nth (s.slab slab).links t

/-- The far end of a link: the slab and its link, or nothing for the hub (R253). -/
def linkPeer (slab t : Nat) : Option (Nat × Nat) := if t = slab then none else some (t, slab)

/-- A direction as an index: 0 send, 1 receive. -/
def dirIdx (rx : Bool) : Nat := boolNat rx

/-! ### Flits (R255) -/

/-- CRC-64 with the polynomial of R255, most significant bit first, from 0 (log 56). -/
def crc64Bit (c : BitVec 64) : BitVec 64 := if c.msb then (c <<< 1) ^^^ 0x42F0E1EBA9EA3693#64 else c <<< 1

def crc64Byte (c : BitVec 64) (b : Byte) : BitVec 64 :=
  (List.range 8).foldl (fun c _ => crc64Bit c) (c ^^^ (b.setWidth 64 <<< 56))

def crc64 (bs : List Byte) : BitVec 64 := bs.foldl crc64Byte 0

/-- Bytes 0 to 247 of a flit (R255). -/
def flitHead (f : Flit) : List Byte :=
  bytesAt (Config.flitHeader f.kind f.seq f.ack f.credit f.stream) 0 8 ++ bytesAt f.payload 0 240

/-- The 256 bytes of a flit (R255). -/
def flitBytes (f : Flit) : List Byte := flitHead f ++ toLe 8 f.crc.toNat

/-- The receiver's check (R258). -/
def flitGood (f : Flit) : Bool := crc64 (bytesAt (flitBytes f) 0 248) == BitVec.ofNat 64 (numAt (flitBytes f) 248 8)

/-- Flits sent on a direction, resends among them (R258, R282). DESIGN CHOICE, log 42: every send counts as a flit of the 1 in
16, those that fail and those sent again among them. -/
def HLink.sent (l : HLink) (dir flits replays : Nat) : HLink :=
  { l with
    flits := modAt l.flits dir (fun n => n + flits)
    replayed := modAt l.replayed dir (fun n => n + replays)
    replays := Nat.min (2 ^ 32 - 1) (l.replays + replays) }

/-- How far a flit lies from the next one to deliver: 12-bit sequence numbers (R255). -/
def HLink.ahead (l : HLink) (dir : Nat) (f : Flit) : Nat := (f.seq + 2 ^ 12 - nth l.next dir) % 2 ^ 12

/-- The flit may be sent now: it is one to send again, or the one after the last sent (R258). -/
def HLink.mayCome (l : HLink) (dir : Nat) (f : Flit) : Bool := decide (l.ahead dir f ≤ (nth l.fails dir).length)

/-- Consecutive failures of the flit so far. -/
def HLink.failures (l : HLink) (dir : Nat) (f : Flit) : Nat := (nth l.fails dir).getD (l.ahead dir f) 0

/-- A send of a flit fails its check or passes it (R258). Passing, the next one to deliver is delivered; a later one waits
to be sent again, as the sender resends from the failed flit onwards. -/
def HLink.flit (l : HLink) (dir : Nat) (f : Flit) (good : Bool) : HLink :=
  let d := l.ahead dir f
  let q := nth l.fails dir
  let r := l.sent dir 1 (boolNat (decide (d < q.length)))
  let q1 := (if d < q.length then q else q ++ [0]).modify d fun n => if good then 0 else n + 1
  if good && d = 0 then
    { r with
      next := modAt r.next dir (fun n => (n + 1) % 2 ^ 12)
      fails := modAt r.fails dir (fun _ => q1.tail) }
  else { r with fails := modAt r.fails dir (fun _ => q1) }

/-- A change at both ends of a link: the far end sees the other direction. -/
def State.modLinkEnds (s : State) (slab t : Nat) (rx : Bool) (f : HLink → Nat → HLink) : State :=
  let s1 := s.modLink slab t fun l => f l (dirIdx rx)
  match linkPeer slab t with
  | none => s1
  | some (b, u) => s1.modLink b u fun l => f l (dirIdx (!rx))

/-- An armed point names this direction of the link, from either end (R485, R488). -/
def armedDir (slab t : Nat) (rx : Bool) (a : Armed) : Bool :=
  (a.onLink slab t && fld a.param 0 0 == dirIdx rx) ||
    match linkPeer slab t with
    | none => false
    | some (b, u) => a.onLink b u && fld a.param 0 0 == dirIdx (!rx)

/-- ST_LINK_DOWN: D0 the unit; D1 a free value (R259, R476, log 11). -/
def State.linkDown (s : State) (slab : Nat) (inj : Bool) : State :=
  s.draw.2.stopModule .linkDown slab 0xA 0xA (Config.freeNat s.free % 2 ^ 32) inj

/-- FLIT_RECEIVE: a send of a flit on a direction of a link reaches its receiver (R258, R259), with injections 0x0301
and 0x0303. -/
def flitReceive (slab t : Nat) (rx : Bool) (f : Flit) (s : State) : State :=
  let dir := dirIdx rx
  if !s.running || !s.linkPowered slab t || !(s.link slab t).up || !(s.link slab t).mayCome dir f then s else
  match s.opportunity 0x0303 (armedDir slab t rx) with
  | (some _, s1) =>
    let l := s1.link slab t
    let n := 8 - Nat.min 7 (l.failures dir f)
    let again := n - boolNat (decide ((nth l.fails dir).length ≤ l.ahead dir f))
    (s1.modLinkEnds slab t rx fun l d => l.sent d n again).linkDown slab true
  | (none, s1) =>
    let (o, s2) := s1.opportunity 0x0301 (armedDir slab t rx)
    let good := flitGood f && o.isNone
    let n := (s2.link slab t).failures dir f
    let s3 := s2.modLinkEnds slab t rx fun l d =>
      let r := l.flit d f good
      { r with hurt := modAt r.hurt d (fun h => h || o.isSome) }
    if !good && decide (7 ≤ n) then s3.linkDown slab o.isSome else s3

/-- A direction replayed more than 1 flit in 16 in the window that ends (R258). -/
def HLink.exceeded (l : HLink) (dir : Nat) : Bool := decide (l.flits.getD dir 0 < 16 * l.replayed.getD dir 0)

/-- The end of the window of one direction (R259), with injection 0x0302. -/
def State.windowEnd (s : State) (slab t : Nat) (rx : Bool) : State :=
  let dir := dirIdx rx
  let (o, s1) := s.opportunity 0x0302 fun a => a.onLink slab t && fld a.param 0 0 == dir
  let l := s1.link slab t
  let n := if o.isSome then Nat.max (l.replayed.getD dir 0) (l.flits.getD dir 0 / 8) else l.replayed.getD dir 0
  let over' := l.exceeded dir || o.isSome
  let inj := o.isSome || nth l.hurt dir
  let s2 := s1.modLink slab t fun l =>
    { l with
      degraded := modAt l.degraded dir (fun _ => over')
      flits := modAt l.flits dir (fun _ => 0)
      replayed := modAt l.replayed dir (fun _ => 0)
      hurt := modAt l.hurt dir (fun _ => false)
      replays := Nat.min (2 ^ 32 - 1) (l.replays + (n - l.replayed.getD dir 0)) }
  if over' then
    s2.emit [16] (unitEvent s2 .linkReplay 0 slab 0xA (t + 8 * dir) n 0 inj) (replayKey slab t dir) true
  else s2

/-- REPLAY_WINDOW_END: a window of 10 local µs of a link ends on a slab, both directions (R258, R259). -/
def replayWindowEnd (slab t : Nat) (s : State) : State :=
  if s.running && s.linkPowered slab t && (s.link slab t).up then (s.windowEnd slab t false).windowEnd slab t true else s

/-! ## The scrub -/

/-- The slab whose memory holds a place; a page and a cold copy name theirs through the partition. -/
def State.placeHere (s : State) (slab : Nat) (x : Place) : Bool :=
  match x with
  | .share p c k o => k == slab && decide (o < s.shareSize p c slab) && (s.ctx? p c).any Ctx.holds
  | .freeSpad k o => k == slab && decide (o < 2 ^ 30)
  | .hot p h i k o => k == slab &&
      (((s.part p).model? h).bind fun m => (m.place? i slab).map fun y => y.hot && decide (o < (nth m.parts i).size * 2 ^ 20)).getD false
  | .acc _ _ _ _ _ => false
  | .flat p k a => k == slab && ((s.part p).flatFrames.getD slab []).contains (a / frameBytes)
  | .page p h o => (((s.part p).region? h).map fun r => r.home == slab && r.spans.contains (o / frameBytes)).getD false
  | .cold p h i k o => k == slab &&
      (((s.part p).model? h).bind fun m => (m.place? i slab).map fun _ => decide (o < (nth m.parts i).size * 2 ^ 20)).getD false
  | .cairn p c k o => k == slab && ((s.ctx? p c).map fun x => decide (x.st = .out) && x.slabs.contains slab
      && decide (o < x.imageFrames * frameBytes)).getD false
  | .held p h k o => k == slab && (s.part p).held.any fun x =>
      x.handle == h && x.slab == k && decide (o < roundUp x.bytes.length frameBytes)
  | .codec p h k o => k == slab && s.codec.sessions.any fun c =>
      c.handle == h && c.part == p && c.home == k && decide (o < codecFrames c.kind c.param * frameBytes)
  | .steward k => k == slab

/-- A place in HBM. -/
def placeInHbm : Place → Bool
  | .share _ _ _ _ | .freeSpad _ _ | .hot _ _ _ _ _ | .acc _ _ _ _ _ => false
  | .flat _ _ _ | .page _ _ _ | .cold _ _ _ _ _ | .cairn _ _ _ _ | .held _ _ _ _ | .codec _ _ _ _ | .steward _ => true

/-- ST_MEM_FATAL (R289): D1 a free value. -/
def State.memFatal (s : State) (slab : Nat) (inj : Bool) : State :=
  s.draw.2.stopModule .memFatal slab 0x9 0x9 (Config.freeNat s.free % 2 ^ 32) inj

/-- ST_HBM_UNCORR as the scrub or a host read reports it (R289, R476): to the module, and to the partition of the word. -/
def State.hbmUncorrEvent (s : State) (slab j : Nat) (w : HbmWord) (byHost inj : Bool) : State :=
  let p := hbmAddr s.free w
  (nextFree s 1).emit (16 :: (w.map Prod.fst).toList)
    (unitEvent s .hbmUncorr p.1 slab 0x9 (j + 256 * boolNat byHost) (p.2 % 2 ^ 32) (p.2 / 2 ^ 32 % 2 ^ 32) inj)

/-- The fault of a context that no operation of its own caused: no line applies (R475, R380). -/
def noLineFault (code : St) (slab unit : Nat) (inj : Bool) : FaultInfo :=
  { code := code, slab := slab, unit := unit, id := 0, seq := 0, line := 0xFFFFFF, op := 0xFF, detail0 := slab + 0xFFFFFF * 256,
    detail1 := 0xFFFFFFFF, arg := 0xFFFFFFFF, inj := inj }

/-- The scrub meets a word of HBM with bad symbols, in stack j (R289, R291). -/
def State.scrubHbm (s : State) (slab j : Nat) (w : HbmWord) (symbols : Nat) (inj : Bool) : State :=
  if symbols ≤ 2 then s.hbmCorrected slab j w inj
  else if w.isNone then s.memFatal slab inj
  else s.hbmUncorrEvent slab j w false inj

/-- The words that a scrub of one memory of a slab meets: those found now, and those found before and still bad. -/
def State.scrubWords (s : State) (slab : Nat) (hbm : Bool) : List Upset :=
  (s.slab slab).bad.filter fun u => placeInHbm u.place == hbm && s.placeHere slab u.place && 0 < u.symbols

/-- A word of the allocated frames of a slab, which one the free value `d` says: of flat memory, of another frame of a
partition, or of the Steward's. -/
def State.someWord (s : State) (slab d : Nat) : HbmWord :=
  let flat : List HbmWord := (List.range 16).flatMap fun p => ((s.part p).flatFrames.getD slab []).map fun fr =>
    some (p, some (fr * frameBytes + Config.freeNat (d + 1) % 2 ^ 15 * 64))
  let other : List HbmWord := ((List.range 16).filter fun p =>
    decide (((s.part p).flatFrames.getD slab []).length < s.framesUsed p slab)).map fun p => some (p, none)
  let l := none :: flat ++ other
  nth l (Config.freeNat d % l.length)

/-- A word of HBM that a scrub meets, of `n` bad symbols with the injection into it; a repaired word is good again (R288,
R289). -/
def State.scrubMet (s : State) (slab j n : Nat) (u : Upset) (inj : Bool) : State :=
  if !s.running || !(s.slab slab).bad.contains u then s else
  (nextFree (if n ≤ 2 then s.modSlab slab fun b => b.dropUpset u else s) 1).scrubHbm slab j (hbmPlace u.place) n inj

/-- An injection that met no bad word: a good word reads as of `n` symbols. -/
def State.scrubAlone (s : State) (slab j n : Nat) (o : Option HbmWord) : State :=
  match o with
  | some w => if s.running then s.scrubHbm slab j w n true else s
  | none => s

/-- Injection 0x0107 meets a scrub's read of the Steward's frames (R488). -/
def State.scrubSteward (s : State) (slab : Nat) : State :=
  if !s.running then s else
  match s.opportunity 0x0107 Armed.onModule with
  | (some _, s1) => s1.memFatal slab true
  | (none, s1) => s1

/-- A scrub of a slab's HBM (R291), and the injections that its reads meet: 0x0105 and 0x0106 in frames that a partition
holds, or in any word of a stack, and 0x0107 in the Steward's frames (R485, R488). An injection into a word that is bad gives
one event (R486). -/
def State.scrubHbmAll (s : State) (slab : Nat) : State :=
  let d := s.free
  let named : Armed → HbmWord := fun a =>
    if a.scope = 4 then s.someWord slab d else some (a.fn, some (fld a.param 36 0 / 64 * 64))
  let hit : Armed → Bool := fun a =>
    (a.scope == 1 && fld a.param 39 37 == slab && s.placeHere slab (.flat a.fn slab (fld a.param 36 0)))
      || (a.scope == 4 && fld a.ctx 4 0 / 3 == slab)
  let stack : Option Armed → Nat := fun o => match o with
    | some a => if a.scope = 4 then fld a.ctx 4 0 % 3 else Config.freeNat (d + 2) % 3
    | none => Config.freeNat (d + 2) % 3
  let (o1, s1) := (nextFree s 3).opportunity 0x0105 hit
  let (o2, s2) := s1.opportunity 0x0106 hit
  let meets : Option Armed → Upset → Bool := fun o u => o.any fun a => a.scope == 1 && hbmPlace u.place == named a
  let words := s2.scrubWords slab true
  let alone : Option Armed → Option HbmWord := fun o => if words.any (meets o) then none else o.map named
  let s3 := words.foldl (fun s u =>
    let o := if meets o2 u then o2 else if meets o1 u then o1 else none
    s.scrubMet slab (if o.isSome then stack o else Config.freeNat s.free % 3) (if meets o2 u then Nat.max 3 u.symbols else u.symbols)
      u o.isSome) s2
  ((s3.scrubAlone slab (stack o1) 2 (alone o1)).scrubAlone slab (stack o2) 3 (alone o2)).scrubSteward slab

/-- The scrub meets a word of scratchpad (R290, R291); `phys` is its physical offset where the spec places it. -/
def State.scrubSpad (s : State) (slab : Nat) (u : Upset) (phys : Option Nat) (inj : Bool) : State :=
  if u.symbols ≤ 1 then s.spadCorrectedEv slab phys u.symbols inj
  else match u.place with
    | .share p c _ _ =>
      if (s.ctx? p c).any fun x => decide (x.st = .faulted) then s
      else s.contextFault p c (noLineFault .spadUncorr slab 0x8 inj)
    | x =>
      let s1 := match x with
        | .hot p h i _ _ => (s.modPlace p h i slab fun y => { y with hot := false }).modSlab slab fun b =>
            { b with bad := b.bad.filter fun v => match v.place with | .hot q g k _ _ => !(q == p && g == h && k == i) | _ => true }
        | _ => s
      s1.draw.2.moduleEvent .spadUncorr 0 slab 0x8 0 (phys.getD (Config.freeNat s1.free % 2 ^ 25 * 32)) 0 inj

/-- What lies at a physical offset of a slab's scratchpad, which the spec does not lay out: free memory, a share or a hot
copy, as the free value `d` says (log 14). -/
def State.spadAt (s : State) (slab o d : Nat) : Place :=
  let shares := (List.range 16).flatMap fun p => ((s.part p).ctxs.filter fun c =>
    c.holds && decide (0 < s.shareSize p c.num slab)).map fun c => Place.share p c.num slab (Config.freeNat (d + 1) % s.shareSize p c.num slab)
  let hots := (List.range 16).flatMap fun p => (s.part p).models.flatMap fun m => (List.range m.parts.length).filterMap fun i =>
    ((m.place? i slab).filter PlaceState.hot).map fun _ =>
      Place.hot p m.handle i slab (Config.freeNat (d + 1) % ((nth m.parts i).size * 2 ^ 20))
  let l := .freeSpad slab o :: shares ++ hots
  nth l (Config.freeNat d % l.length)

/-- Two places are of one 32-byte word of scratchpad. -/
def sameSpadWord (x y : Place) : Bool :=
  match x, y with
  | .share p c k o, .share q d l n => p == q && c == d && k == l && o / 32 == n / 32
  | _, _ => x == y

/-- A scrub of a slab's scratchpad (R291), and the injections that its reads meet: 0x0103 and 0x0104 (R485, R486, R488). -/
def State.scrubSpadAll (s : State) (slab : Nat) : State :=
  let d := s.free
  let hit : Armed → Bool := fun a =>
    (a.scope == 0 && decide (fld a.param 29 0 < s.shareSize a.fn a.ctx slab)) || a.onSlab slab
  let place : Armed → Place := fun a =>
    if a.scope = 0 then .share a.fn a.ctx slab (fld a.param 29 0) else s.spadAt slab (fld a.param 29 0) d
  let phys : Place → Option Armed → Option Nat := fun x o => match o.bind Armed.physOffset, x with
    | some n, _ => some n
    | none, .freeSpad _ n => some n
    | none, _ => none
  let (o1, s1) := (nextFree s 2).opportunity 0x0103 hit
  let (o2, s2) := s1.opportunity 0x0104 hit
  let meets : Option Armed → Upset → Bool := fun o u => o.any fun a => sameSpadWord (place a) u.place
  let words := s2.scrubWords slab false
  let s3 := words.foldl (fun s u =>
    if !s.running || !(s.slab slab).bad.contains u then s else
    let o := if meets o2 u then o2 else if meets o1 u then o1 else none
    let n := if meets o2 u then Nat.max 2 u.symbols else u.symbols
    let s1 := if n ≤ 1 then s.modSlab slab fun b => b.dropUpset u else s
    s1.scrubSpad slab { u with symbols := n } (phys u.place o) o.isSome) s2
  let alone : Option Armed → Option Armed := fun o => if words.any (meets o) then none else o
  let s4 := match alone o1 with
    | some a => s3.scrubSpad slab { place := place a, symbols := 1 } (phys (place a) (some a)) true
    | none => s3
  match alone o2 with
  | some a => s4.scrubSpad slab { place := place a, symbols := 2 } (phys (place a) (some a)) true
  | none => s4

/-- SCRUB_PASS: a pass over one memory of a slab, which finds new bad words (R288 to R291). It pauses in Rest (R503). -/
def scrubPass (slab : Nat) (hbm : Bool) (found : List Upset) (s : State) : State :=
  if !s.running || decide (s.hub.rest ≠ .awake) || s.slabCount ≤ slab then s else
  let new := found.filter fun u => placeInHbm u.place == hbm && s.placeHere slab u.place && 0 < u.symbols
  let s1 := s.modSlab slab fun b => { b with bad := new.foldl (fun l u => if l.contains u then l else l ++ [u]) b.bad }
  if hbm then s1.scrubHbmAll slab else s1.scrubSpadAll slab

def execFlitReceive (slab link : Nat) (rx : Bool) (flit : Flit) (s : State) : Host.Outcome State Fault Refusal :=
  .next (flitReceive slab link rx flit s)
def execReplayWindowEnd (slab link : Nat) (s : State) : Host.Outcome State Fault Refusal := .next (replayWindowEnd slab link s)
def execScrubPass (slab : Nat) (hbm : Bool) (found : List Upset) (s : State) : Host.Outcome State Fault Refusal :=
  .next (scrubPass slab hbm found s)

end Sys2Proof.Machine
end

