-- ==== Sys2Proof/Machine/Flint.lean ====
section
/-! DEFINITION. Flint.lean: Flint random bits (R239 to R247). -/

namespace Sys2Proof.Machine

def w64 : Nat := 2 ^ 64

/-- mix of R245. -/
def mix (z : Nat) : Nat :=
  let z := ((z ^^^ (z >>> 30)) * 0xBF58476D1CE4E5B9) % w64
  let z := ((z ^^^ (z >>> 27)) * 0x94D049BB133111EB) % w64
  z ^^^ (z >>> 31)

/-- The state c before the lag table of a grain is filled (R245). -/
def grainSeed (seed tag step row col : Nat) : Nat :=
  mix (mix (seed ^^^ mix ((tag + 2 ^ 16 * step) % w64)) ^^^ ((row + 2 ^ 32 * col) % w64))

/-- Entries of the lag table: each step adds the constant and mixes (R245). -/
def lagEntries : Nat → Nat → List Nat
  | 0, _ => []
  | n + 1, c =>
    let c := (c + 0x9E3779B97F4A7C15) % w64
    mix c % 2 ^ 32 :: lagEntries n c

/-- The lag table x(0) to x(54), with one odd word at least (R245). -/
def lagTable (seed tag step row col : Nat) : List Nat :=
  let l := lagEntries 55 (grainSeed seed tag step row col)
  if l.all fun x => x % 2 == 0 then (match l with | x :: t => (x + 1) :: t | [] => []) else l

/-- The next `n` words of a generator whose last 55 words are `lag`, the oldest first (R239, R245). -/
def lagWords : Nat → List Nat → List Nat
  | 0, _ => []
  | n + 1, lag =>
    let w := (nth lag 31 + nth lag 0) % 2 ^ 32
    w :: lagWords n (lag.drop 1 ++ [w])

/-- The 4,096 words of a grain, in raster order (R245). -/
def grainWords (seed tag step row col : Nat) : List Nat := lagWords 4096 (lagTable seed tag step row col)

/-- The words of cursor value k (R243, R245). -/
def cursorWords (p : FlintSet) (seed step k : Nat) : List Nat :=
  let gw := p.width / 64
  let g := p.height / 64 * gw
  let q := k % g
  grainWords seed p.tag ((step + p.stepOfs + k / g) % 2 ^ 32) (p.row0 / 64 + q / gw) (p.col0 / 64 + q % gw)

/-- The elements of a grain's four registers, by quadrant (R246). -/
def grainRegs (ws : Array Nat) : List Word :=
  (bandElems 4).map fun e => BitVec.ofNat 32 (ws.getD ((32 * (e.1 / 2) + e.2.1) * 64 + 32 * (e.1 % 2) + e.2.2) 0)

/-- FL_DRAW (R243 to R246). -/
def flDrawAct (s : State) (slab : Nat) (o : OpE) : State :=
  let x := o.bits.toNat
  match s.live? slab o.seq, s.progOf o, (s.flight? o.seq).bind Flight.run with
  | some l, some g, some r =>
    let p := nth (nth g.flint l.img) (flSet x)
    let k := nth l.cursors (flSet x)
    let n := flGrains x
    let s1 := s.putRegs slab (flReg x)
      ((List.range n).flatMap fun i => grainRegs (cursorWords p r.seed r.step (k + i)).toArray)
    s1.modLive slab o.seq fun l => { l with cursors := modAt l.cursors (flSet x) (· + n) }
  | _, _, _ => s

def execFlDraw (slab : Nat) (s : State) : Host.Outcome State Fault Refusal := .next (fireRow 6 1 flDrawAct slab s)

end Sys2Proof.Machine
end

