-- ==== Sys2Proof/Machine/CopyFill.lean ====
section
/-! DEFINITION. CopyFill.lean: COPY and FILL (R389, R393, R401). -/

namespace Sys2Proof.Machine

/-- One side of a COPY or FILL: a context's share on a slab, flat memory of a slab, or host memory. -/
inductive Side where
  | share (ctx slab ofs : Nat)
  | flat (slab ofs : Nat)
  | host (addr : Nat)
  deriving DecidableEq, Repr

/-- The side that an address of R62 names, with its checks: R391, R406 and the ranges of R63. -/
def State.side (s : State) (f : Flight) (a n : Nat) : Except St Side :=
  let slab := fld a 59 56
  let ofs := fld a 55 0
  if spaceOf a = 5 then .ok (.host (fld a 59 0))
  else if spaceOf a = 3 then (if s.inFlatSize f.fn slab ofs n then .ok (.flat slab ofs) else .error .xfRange)
  else match s.needCtx f.fn (f.arg 24 2) with
    | .error e => .error e
    | .ok c =>
      if c.st ≠ .resident || c.switching ≠ .none then .error .ctxBusy
      else if (c.onSlab? slab).isSome && decide (ofs + n ≤ c.shareBytes) then .ok (.share c.num slab ofs)
      else .error .xfRange

/-- The bytes of a source, with the check codes met: a word of a context's share that cannot be corrected faults the context
(R290), and the command ends with the others that name it (R383); one of flat memory fails the command (R289, log 51). -/
def State.sideRead (s : State) (f : Flight) (n : Nat) : Side → State × Except St (List Byte)
  | .host a => s.hostIn f f.cmd.code 1 a n
  | .flat slab a =>
    match s.readFlat f.fn slab a n with
    | (s1, some b) => (s1, .ok b)
    | (s1, none) => (s1, .error .hbmUncorr)
  | .share c slab a =>
    match s.eccShare f.fn c f.seq slab [(a, n)] with
    | (s1, none) => (s1, .ok (Memory.read (s.share f.fn c slab) a n))
    | (s1, some inj) => (s1.contextFault f.fn c (switchFault .spadUncorr slab 0x8 inj), .error .ctxFaulted)

/-- Write a destination on the module; nothing where the quota has no frame left (R401). -/
def State.sideWrite (s : State) (f : Flight) (bs : List Byte) : Side → Option State
  | .share c slab a => some (s.writeShare f.fn c slab a bs)
  | .flat slab a =>
    (s.needFlatRange f.fn slab a bs.length).map fun s =>
      (s.writeFlat f.fn slab a bs).overwrite slab (inFlat f.fn slab a bs.length)
  | .host _ => some s

/-- The context that a COPY or FILL names is checked before either side's own checks (R391). -/
def State.copyCtx (s : State) (f : Flight) : Except St Unit :=
  match f.ctxNamed with
  | none => .ok ()
  | some n => (s.needCtx f.fn n).map fun _ => ()

/-- COPY (R389): a host destination is written as the record is (R384). -/
def copy (s : State) (f : Flight) : State :=
  let a := f.arg 0 8
  let b := f.arg 8 8
  let n := f.arg 16 8
  if n % 512 ≠ 0 || !([2, 3, 5].contains (spaceOf a)) || !([2, 3, 5].contains (spaceOf b)) then s.failCmd f .argRange else
  match s.copyCtx f with
  | .error e => s.failCmd f e
  | .ok _ =>
    match s.side f a n, s.side f b n with
    | .error e, _ => s.failCmd f e
    | _, .error e => s.failCmd f e
    | .ok src, .ok dst =>
      match s.sideRead f n src with
      | (s1, .error e) => s1.failCmd f e
      | (s1, .ok bs) =>
        match s1.sideWrite f bs dst with
        | none => s1.failCmd f .quota
        | some s2 => s2.okCmd f 0 (match dst with
          | .host x => [{ addr := x, len := n, bytes := bs, index := 2, epoch := false }]
          | _ => [])

/-- A pattern repeated over n bytes. -/
def patternBytes (p n : Nat) : List Byte := (List.range n).map fun i => BitVec.ofNat 8 (p / 256 ^ (i % 8))

/-- FILL (R389). -/
def fill (s : State) (f : Flight) : State :=
  let a := f.arg 0 8
  let n := f.arg 8 8
  if !([2, 3].contains (spaceOf a)) then s.failCmd f .argRange else
  match s.copyCtx f with
  | .error e => s.failCmd f e
  | .ok _ =>
    match s.side f a n with
    | .error e => s.failCmd f e
    | .ok dst =>
      match s.sideWrite f (patternBytes (f.arg 16 8) n) dst with
      | none => s.failCmd f .quota
      | some s1 => s1.okCmd f

end Sys2Proof.Machine
end

