-- ==== Sys2Proof/Machine/Groups.lean ====
section
/-! DEFINITION. Groups.lean: GROUP_CREATE and GROUP_DESTROY (R257, R260 to R263). -/

namespace Sys2Proof.Machine

/-- Bytes of a ring chunk (R260). -/
def ringChunk : Nat := 2 ^ 18

/-- The lowest-numbered free physical group queue of a slab (R261). -/
def Slab.freeQueue (b : Slab) : Option Nat := (List.range b.gqs.length).find? fun i => (nth b.gqs i).bound.isNone

/-- Units in use on the link between two slabs: the partitions' fabric shares and the groups' reserved units (R257). -/
def State.linkUnits (s : State) (a b : Nat) : Nat :=
  sumBy (s.parts.filter Part.live) (fun x => if bitOf x.q.mask a && bitOf x.q.mask b then x.q.fab else 0) + s.groupShare a b

/-- The pairs of two different members. -/
def memberPairs (ms : List Nat) : List (Nat × Nat) :=
  (ms.map fun a => (ms.filter fun b => decide (a < b)).map fun b => (a, b)).flatten

/-- The first case of R261 that refuses the group. -/
def State.groupRefused (s : State) (c : Ctx) (g : Group) : Option St :=
  if (g.members.any fun m => !c.slabs.contains m) || !distinct g.members then some .groupMembers
  else if c.groups.any fun x => x.lidx == g.lidx then some .groupBusy
  else if c.shareBytes < g.ring + g.chunks * ringChunk
      || c.groups.any fun x => overlaps g.ring (g.chunks * ringChunk) x.ring (x.chunks * ringChunk) then some .groupRing
  else if g.members.any fun m => (s.slab m).freeQueue.isNone then some .groupFull
  else if (memberPairs g.members).any fun p => 112 < s.linkUnits p.1 p.2 + g.gshare then some .groupShare
  else none

/-- Bind a group to its lowest free queue on each member (R261). -/
def State.bindGroup (s : State) (part ctx : Nat) (g : Group) : State :=
  let qs := g.members.map fun m => (s.slab m).freeQueue.getD 0
  let s1 := (g.members.zip qs).foldl (fun s x =>
    s.modSlab x.1 fun b => { b with gqs := modAt b.gqs x.2 fun _ => { GQueue.reset with bound := some (part, ctx, g.lidx) } }) s
  s1.modCtx part ctx fun c => { c with groups := c.groups ++ [{ g with queues := qs }] }

/-- The ranges of R260, and 0xFF past N (R389). -/
def State.groupArgs (s : State) (f : Flight) : Bool :=
  let n := f.arg 3 1
  let w := f.arg 14 2
  decide (f.arg 2 1 < 16) && decide (1 ≤ n) && decide (n ≤ s.slabCount)
    && ((List.range 8).all fun i => decide (i < n) || f.arg (4 + i) 1 == 0xFF)
    && decide (4 ≤ f.arg 12 1) && decide (f.arg 12 1 ≤ 16) && decide (1 ≤ f.arg 13 1) && decide (f.arg 13 1 ≤ 112)
    && (w == 0 || decide (20 ≤ w) && decide (w ≤ 10000)) && f.arg 16 4 % ringChunk == 0

/-- The group that the arguments describe (R260): WDOG 0 selects 200. -/
def groupOfArgs (f : Flight) : Group :=
  { lidx := f.arg 2 1, members := (List.range (f.arg 3 1)).map fun i => f.arg (4 + i) 1, ring := f.arg 16 4
    chunks := f.arg 12 1, gshare := f.arg 13 1, wdog := if f.arg 14 2 = 0 then 200 else f.arg 14 2, queues := [] }

/-- GROUP_CREATE (R260, R261, R406). -/
def groupCreate (s : State) (f : Flight) : State :=
  if !s.groupArgs f then s.failCmd f .argRange else
  match s.needCtx f.fn (f.arg 0 2) with
  | .error e => s.failCmd f e
  | .ok c =>
    if c.st = .resident && !s.idle f.fn c f.seq then s.failCmd f .ctxBusy else
    match s.groupRefused c (groupOfArgs f) with
    | some e => s.failCmd f e
    | none => (s.bindGroup f.fn c.num (groupOfArgs f)).okCmd f

/-- GROUP_DESTROY (R262). -/
def groupDestroy (s : State) (f : Flight) : State :=
  if 15 < f.arg 2 1 then s.failCmd f .argRange else
  match s.needCtx f.fn (f.arg 0 2) with
  | .error e => s.failCmd f e
  | .ok c =>
    if !c.groups.any fun x => x.lidx == f.arg 2 1 then s.failCmd f .groupUnbound
    else if s.passaging f.fn c.num f.seq then s.failCmd f .groupBusy else
    ((s.releaseGroup f.fn c.num (f.arg 2 1)).modCtx f.fn c.num fun x =>
      { x with groups := x.groups.filter fun g => g.lidx != f.arg 2 1 }).okCmd f

end Sys2Proof.Machine
end

