-- ==== Sys2Proof/Machine/Inject.lean ====
section
/-! DEFINITION. Inject.lean: INJECT and INJECT_CLEAR (R390, R485 to R488). -/

namespace Sys2Proof.Machine

/-- The start-up points, which only INJECT_ARM arms (R390, R487). -/
def isStartPoint (point : Nat) : Bool := decide (0x0C01 ≤ point) && decide (point ≤ 0x0C07)

/-- The scopes of a point that INJECT may arm (R488); none for an unknown point. -/
def pointScopes (point : Nat) : List Nat :=
  match point with
  | 0x0101 | 0x0102 | 0x0401 | 0x0402 | 0x0501 | 0x0502 => [0]
  | 0x0103 | 0x0104 => [0, 2]
  | 0x0105 | 0x0106 => [1, 4]
  | 0x0107 | 0x0603 | 0x0604 | 0x0605 | 0x0606 | 0x0701 | 0x0704 | 0x0901 | 0x0A01 => [5]
  | 0x0201 | 0x0202 | 0x0602 => [2, 5]
  | 0x0301 | 0x0302 | 0x0303 => [3]
  | 0x0601 => [4]
  | 0x0702 | 0x0703 | 0x0801 | 0x0802 => [1]
  | 0x0B01 | 0x0B02 => [1, 5]
  | _ => []

/-- Points whose action INJECT performs at once (R485). -/
def immediatePoint (point : Nat) : Bool := [0x0603, 0x0604, 0x0A01, 0x0B01, 0x0B02].contains point

/-- The form-0 classes that 0x0B01 and 0x0B02 may name (R485). -/
def pathClasses (point : Nat) : List St :=
  if point = 0x0B01 then
    [.memCorr, .hbmUncorr, .spadUncorr, .hdmUnmapped, .hostAddr, .linkReplay, .hostLink, .ideFail, .bitstream,
     .hbmThrottle, .powerLimit, .calStale]
  else [.hbmUncorr, .spadUncorr, .linkReplay, .ideFail]

def pathClass (point param : Nat) : Option St := (pathClasses point).find? fun c => c.code == param % 2 ^ 16

/-- The target that SCOPE and CTX name exists (R485). -/
def State.targetExists (s : State) (fn scope ctx : Nat) : Bool :=
  match scope with
  | 0 => (s.ctx? fn ctx).isSome
  | 1 => (s.part fn).live
  | 2 => decide (fld ctx 3 0 < s.slabCount)
  | 3 => s.linkPowered (fld ctx 3 0) (fld ctx 7 4)
  | 4 => decide (fld ctx 4 0 < 3 * s.slabCount)
  | _ => true

/-- One event that 0x0B01 or 0x0B02 raises (R485, R486): the event, the rings of its class, and the views of an alarm
(R481). -/
def State.pathEvent (s : State) (fn scope : Nat) (c : St) (d0 : Nat) : State :=
  let p := if scope = 1 then fn else 0
  let rings := match c with
    | .bitstream => [p]
    | .hbmUncorr => if scope = 1 then [16, p] else [16]
    | _ => [16]
  s.emit rings (unitEvent s c p 0xF 0xB d0 0 0 true) (views := if scope = 1 then [16, p] else [16])

/-- A pulse at the input of a sideband filter (R486, R535 to R537). -/
def State.pinPulse (s : State) (pin ns : Nat) : State :=
  match s.passes pin ns with
  | (false, s1) => s1
  | (true, s1) =>
    match pin with
    | 0 => perstRelease s1.perst
    | 1 => modRstRelease s1.modRst
    | 2 =>
      let s2 := s1.pwrGoodFalls true
      s2.setHub { s2.hub with pins := { s2.hub.pins with pwrGood := true } }
    | 3 => if s1.running then s1.wake else s1
    | _ => s1

/-- One action of an immediate point (R485). -/
def State.actNow (s : State) (fn point scope param : Nat) : State :=
  match point with
  | 0x0603 =>
    if !vinOk (fld param 15 0) && decide (50 < fld param 31 16) then s.stopModule .vinRange 0xF 0xF 0xF 0xFFFFFFFF true else s
  | 0x0604 => s.pinPulse 2 (fld param 15 0 * 1000)
  | 0x0A01 => s.pinPulse (fld param 3 0) (fld param 31 16)
  | 0x0B01 | 0x0B02 =>
    match pathClass point param with
    | some c => s.pathEvent fn scope c (if point = 0x0B01 then fld param 47 16 else 0)
    | none => s
  | _ => s

/-- The actions of an immediate point, until a stop or a reset ends them (R485). -/
def State.actTimes (s : State) (f : Flight) (point scope param : Nat) : Nat → State
  | 0 => s
  | n + 1 =>
    if s.hub.stop.isSome || (s.flight? f.seq).isNone then s
    else (s.actNow f.fn point scope param).actTimes f point scope param n

/-- INJECT (R383, R391, R485). -/
def State.inject (s : State) (f : Flight) : State :=
  let point := f.arg 0 2
  let scope := f.arg 2 1
  let count := f.arg 3 1
  let ctx := f.arg 4 2
  let param := f.arg 8 8
  let now := immediatePoint point
  let path := point == 0x0B01 || point == 0x0B02
  if !(pointScopes point).contains scope || !s.targetExists f.fn scope ctx || (path && (pathClass point param).isNone) then
    s.failCmd f .argRange
  else if scope = 0 && (s.ctx? f.fn ctx).any fun c => decide (c.st = .faulted) then s.failCmd f .ctxFaulted
  else
    let rest := s.talus.armed.filter fun a => !(a.fn == f.fn && a.point == point)
    if 16 ≤ (rest.filter fun a => a.fn == f.fn).length then s.failCmd f .quota
    else if now then
      let n := if count = 0 then 1 else count
      (s.actTimes f point scope param n).okCmd f
    else
      let a : Armed :=
        { fn := f.fn, point := point, scope := scope, ctx := ctx, param := param,
          left := if count = 0 then none else some count }
      (s.setTalus { s.talus with armed := rest ++ [a] }).okCmd f

/-- INJECT_CLEAR (R487). -/
def State.injectClear (s : State) (f : Flight) : State :=
  let point := f.arg 0 2
  (s.setTalus { s.talus with armed := s.talus.armed.filter fun a => !(a.fn == f.fn && (point == 0xFFFF || a.point == point)) }).okCmd f

end Sys2Proof.Machine
end

