-- ==== Sys2Proof/Machine/Service.lean ====
section
/-! DEFINITION. Service.lean: STATUS_GET, SERVICE_ENTER and REST_ENTER (R389, R394, R500, R526). -/

namespace Sys2Proof.Machine

/-- ALARM of MBX_STAT (R371). -/
def State.alarmBit (s : State) (fn : Nat) : Bool := !(s.viewAlarms fn).isEmpty || (fn == 0 && s.alert)

/-- The status block of R394. -/
def State.statusBlock (s : State) (fn : Nat) : List Byte :=
  let p := s.part fn
  let word := s.inflight fn % 512 + boolNat s.hub.service * 2 ^ 9 + boolNat (s.alarmBit fn) * 2 ^ 10
  toLe 8 (s.hub.seq - 1) ++ toLe 4 word ++ toLe 4 p.ctxs.length ++ toLe 4 p.held.length ++ toLe 4 p.models.length
    ++ toLe 4 p.regions.length ++ toLe 4 ((p.session.map Session.handle).getD 0)
    ++ ((List.range 8).map fun k => toLe 4 (if k < s.slabCount then s.framesFree fn k else 0)).flatten

/-- STATUS_GET (R394). -/
def State.statusGet (s : State) (f : Flight) : State :=
  let a := f.arg 0 8
  let n := f.arg 8 4
  if !bufOk a n || n < 64 then s.failCmd f .argRange
  else s.okCmd f 0 [{ addr := a, len := n, bytes := s.statusBlock f.fn, index := 1, epoch := true }]

/-- Every command accepted before `seq` has completed. -/
def State.earlierDone (s : State) (seq : Nat) : Bool := !s.flights.any fun g => decide (g.seq < seq)

/-- SERVICE_MODE_SWITCH: the wait of SERVICE_ENTER has ended (R191, R487, R526). -/
def serviceModeSwitch (s : State) : State :=
  match s.flights.find? fun f => decide (f.cmd = .serviceEnter) && decide (f.phase = .busy) with
  | none => s
  | some f =>
    if !(s.running && s.earlierDone f.seq) then s else
    let s1 := (s.setHub { s.hub with service := true }).setTalus
      { s.talus with armed := s.talus.armed.filter fun a => a.point == 0x0501 }
    s1.okCmd f

/-- REST_ENTER (R389, R500). -/
def State.restEnter (s : State) (f : Flight) : State :=
  if s.flights.any fun g => g.seq != f.seq then s.failCmd f .notIdle else s.okCmd f

def execServiceModeSwitch (s : State) : Host.Outcome State Fault Refusal := .next (serviceModeSwitch s)

end Sys2Proof.Machine
end

