-- ==== Sys2Proof/Machine/Mailbox.lean ====
section
/-! DEFINITION. Mailbox.lean: slots, acceptance, starts and completions, and the writes of the host to BAR0
(R345, R347, R361, R368 to R384, R460, R462, R546). -/

namespace Sys2Proof.Machine

/-! ## Slots (R374, R375) -/

/-- Slot k of a function; a slot never touched is free and zero. -/
def Fn.slot (g : Fn) (k : Nat) : Slot :=
  (g.slots.find? fun b => b.idx == k).getD { idx := k, area := [], seq := 0, status := .ok, state := .free }

def Fn.setSlot (g : Fn) (b : Slot) : Fn :=
  if g.slots.any fun x => x.idx == b.idx then { g with slots := modWhere g.slots (fun x => x.idx == b.idx) fun _ => b }
  else { g with slots := g.slots ++ [b] }

def State.setSlot (s : State) (fn : Nat) (b : Slot) : State := s.modFn fn fun g => g.setSlot b

/-- The header as the host wrote it (R374). -/
def Slot.header (b : Slot) : Nat := leNat (Memory.read b.area 0 32)

/-- The argument area. -/
def Slot.args (b : Slot) : List Byte := Memory.read b.area 32 224

def Slot.opcode (b : Slot) : Nat := fld b.header 15 0

/-- Every reserved bit of the header is zero (R374, R376). -/
def Slot.headerClean (b : Slot) : Bool :=
  fld b.header 23 18 == 0 && fld b.header 31 31 == 0 && fld b.header 223 146 == 0

/-! ## Acceptance (R376) -/

/-- R390: the code of an INJECT or INJECT_CLEAR that its function may not issue now. -/
def injectBarred (fn : Nat) (service clear : Bool) (point scope : Nat) : Option St :=
  if !clear && isStartPoint point then some .perm
  else if service then
    if (point == 0x0501 && (clear || scope == 0)) || (clear && point == 0xFFFF) then none
    else some (if fn = 0 then .mode else .perm)
  else if !clear && fn != 0 && decide (2 ≤ scope) then some .perm
  else none

/-- R390 for a command with these argument bytes; other commands pass. -/
def Cmd.barred (c : Cmd) (fn : Nat) (service : Bool) (args : List Byte) : Option St :=
  match c with
  | .inject => injectBarred fn service false (numAt args 0 2) (numAt args 2 1)
  | .injectClear => injectBarred fn service true (numAt args 0 2) 0
  | _ => none

/-- Checks 2 to 7 of R376 in order. -/
def State.refuses (s : State) (fn : Nat) (c : Cmd) (b : Slot) : Option St :=
  let g := s.fn fn
  let session := (s.part fn).session.isSome
  let bar := if session then none else c.barred fn s.hub.acceptService b.args
  if !b.headerClean || (!session && !c.argsClean b.args) then some .rsvdSet
  else if (c.pfOnly && fn != 0) || (c.vfOnly && fn == 0) || bar == some .perm then some .perm
  else if (c.diagOnly && s.hub.acceptService) || bar == some .mode then some .mode
  else if !g.en then some .cqUnset
  else if 256 ≤ s.inflight fn || 2048 ≤ s.flights.length then some .inflight
  else if 2 ^ g.log2n ≤ s.inflight fn + (g.tail + 2 ^ 17 - g.head) % 2 ^ 17 then some .cqFull
  else none

/-- The command as it is accepted (R376, R374). -/
def flightOf (fn seq : Nat) (c : Cmd) (b : Slot) : Flight :=
  { cmd := c, fn := fn, seq := seq, slot := b.idx, tag := fld b.header 63 32, irq := bitOf b.header 16
    vector := fld b.header 30 24, ordered := bitOf b.header 17, args := b.args, ctr := 0, prot := false
    phase := .ordered, status := .ok, flags := 0, detail0 := 0, detail1 := 0, value := 0, outs := [], waits := []
    run := none }

/-! ## Starting -/

/-- A SERVICE_ENTER's own part: it waits (R526). -/
def State.serviceEnter (s : State) (f : Flight) : State := s.busyCmd f

/-- The command does its work (R389). -/
def State.perform (s : State) (f : Flight) : State :=
  match f.cmd with
  | .statusGet => s.statusGet f
  | .serviceEnter => s.serviceEnter f
  | .restEnter => s.restEnter f
  | .partCreate => partCreate s f
  | .partDestroy => partDestroy s f
  | .partSet => partSet s f
  | .ctxCreate => ctxCreate s f
  | .ctxDestroy => ctxDestroy s f
  | .ctxSave => ctxSave s f
  | .ctxRestore => ctxRestore s f
  | .modelLoad => modelLoad s f
  | .modelDrop => modelDrop s f
  | .modelPin => modelPin s f
  | .modelUnpin => modelUnpin s f
  | .quarryStat => quarryStat s f
  | .regionCreate => regionCreate s f
  | .regionDestroy => regionDestroy s f
  | .regionMap => regionMap s f
  | .regionUnmap => regionUnmap s f
  | .progLoad => progLoad s f
  | .runPassage => runPassage s f
  | .fetch => fetch s f
  | .resultDrop => resultDrop s f
  | .groupCreate => groupCreate s f
  | .groupDestroy => groupDestroy s f
  | .copy => copy s f
  | .fill => fill s f
  | .codecOpen => codecOpen s f
  | .codecClose => codecClose s f
  | .codecEncode => codecEncode s f
  | .codecDecode => codecDecode s f
  | .attest => attest s f
  | .sessionOpen => sessionOpen s f
  | .sessionClose => sessionClose s f
  | .signerAdd => signerAdd s f
  | .signerRemove => signerRemove s f
  | .debugUnlock => debugUnlock s f
  | .ringSet => s.ringSet f
  | .alarmAck => s.alarmAck f
  | .inject => s.inject f
  | .injectClear => s.injectClear f

/-- The command reads host memory by pointer (R347, R359). -/
def Flight.readsHost (f : Flight) : Bool :=
  match f.cmd with
  | .modelLoad | .codecOpen | .sessionOpen | .signerAdd | .debugUnlock => true
  | .codecDecode => f.arg 16 4 != 0
  | .progLoad => f.arg 2 1 == 0
  | .runPassage => f.arg 3 1 != 0
  | .copy => spaceOf (f.arg 0 8) == 5
  | .ctxRestore => bitOf (f.arg 8 8) 63
  | _ => false

/-- The command with its arguments in plaintext does its work, or waits until its function may send requests (R340,
R347). -/
def State.proceed (s : State) (f : Flight) : State :=
  if f.readsHost && !(s.fn f.fn).masters then s.modFlight f.seq fun g => { g with phase := .bme } else s.perform f

/-- A command starts (R378, R460). -/
def State.start (s : State) (f : Flight) : State :=
  match (s.part f.fn).session with
  | none => s.proceed f
  | some k =>
    match k.openArgs f with
    | .error e => s.failCmd f e
    | .ok (c, args) =>
      let g := { f with args := args, ctr := c, prot := true }
      let s1 := (s.modPart f.fn fun q => { q with session := some { k with used := c :: k.used } }).modFlight f.seq fun _ => g
      if !f.cmd.argsClean args then s1.failCmd g .rsvdSet
      else match f.cmd.barred f.fn s.hub.acceptService args with
        | some e => s1.failCmd g e
        | none => s1.proceed g

/-- What an accepted command waits for before it starts: ORDERED (R382), a SESSION_OPEN before it (R456), an earlier
RUN_PASSAGE that has not started (R79). -/
def State.held (s : State) (f : Flight) : Bool :=
  s.flights.any fun g => g.fn == f.fn && decide (g.seq < f.seq) &&
    (f.ordered || decide (g.cmd = .sessionOpen)
      || (decide (f.cmd = .runPassage) && decide (g.cmd = .runPassage) && (decide (g.phase = .ordered) || decide (g.phase = .bme))))

def State.tryStart (s : State) (f : Flight) : State := if s.held f then s else s.start f

/-- The Steward takes an owned slot whose OPCODE is a command's (R376). -/
def State.accept (s : State) (fn : Nat) (c : Cmd) (b : Slot) : State :=
  match s.refuses fn c b with
  | some e => s.setSlot fn { b with state := .refused, status := e }
  | none =>
    let (seq, s1) := s.takeSeq
    let f := flightOf fn seq c b
    let s2 := (s1.setSlot fn { b with state := .accepted, status := .ok, seq := seq }).setFlights (s1.flights ++ [f])
    let s3 := if c = .serviceEnter then s2.setHub { s2.hub with acceptService := true } else s2
    s3.tryStart f

/-- The Steward takes an owned slot (R376). -/
def State.take (s : State) (fn k : Nat) : State :=
  let b := (s.fn fn).slot k
  if b.state ≠ .owned then s else
  match Cmd.ofCode b.opcode with
  | some c => s.accept fn c b
  | none => s.setSlot fn { b with state := .refused, status := .opcode }

/-- A seal of slot k takes it (R375): at once, or after a wake (R377, R502), or never while the module is stopped. -/
def State.sealSlot (s : State) (fn k : Nat) : State :=
  let s1 := s.setSlot fn { (s.fn fn).slot k with state := .owned }
  if s1.hub.stop.isSome then s1
  else if s1.hub.rest ≠ .awake then s1.wake
  else s1.take fn k

/-- The seal write of a slot that holds this command (R375). -/
def sealRow (c : Cmd) (fn k : Nat) (s : State) : State :=
  let b := (s.fn fn).slot k
  if s.barOpen fn && decide (k < 256) && decide (b.state ≠ .owned) && b.opcode == c.code then s.sealSlot fn k else s

/-- The seal write of a slot whose OPCODE names no command (R376). -/
def sealUnknown (fn k : Nat) (s : State) : State :=
  let b := (s.fn fn).slot k
  if s.barOpen fn && decide (k < 256) && decide (b.state ≠ .owned) && (Cmd.ofCode b.opcode).isNone then s.sealSlot fn k else s

/-- REST_WAKE_END (R502): work is accepted again, the waiting slots in function and slot order. -/
def restWakeEnd (s : State) : State :=
  if s.running && decide (s.hub.rest = .waking) then
    let s1 := s.setHub { s.hub with rest := .awake }
    (List.range 16).foldl (fun s i =>
      let own := ((s.fn i).slots.filter fun b => decide (b.state = .owned)).map Slot.idx
      (sortBy id own).foldl (fun s k => s.take i k) s) s1
  else s

/-- ORDERED_START (R382): a held command starts once nothing holds it. -/
def orderedStart (fn seq : Nat) (s : State) : State :=
  match s.flight? seq with
  | some f =>
    if s.running && f.fn == fn && decide (f.phase = .ordered) && decide (s.hub.rest = .awake) then s.tryStart f else s
  | none => s

/-! ## Completion -/

/-- A busy command whose wait has ended without an event of its own gets its outcome. -/
def State.settle (s : State) (f : Flight) : State :=
  if f.phase ≠ .busy then s else
  let ok : State → State := fun s => s.modFlight f.seq fun g => { g with phase := .done, status := .ok }
  match f.cmd with
  | .ctxCreate =>
    if (s.part f.fn).outDone f.waits then ok (s.modCtx f.fn f.value fun c => { c with switching := .none }) else s
  | .partSet => if s.windowClosed (f.arg 0 1) then ok s else s
  | .sessionOpen => if s.windowClosed f.fn then s.sessionReady f else s
  | .regionUnmap | .regionDestroy => if s.unmapReady f then ok (s.unmapEnd f) else s
  | _ => s

/-- Final STATUS of a record (R23, R24, R379). -/
def Flight.final (f : Flight) : St := finalStatus f.status f.flags

/-- Bytes 12 to 39 of a record (R379). -/
def Flight.body (f : Flight) : List Byte :=
  toLe 2 f.final.code ++ toLe 2 f.cmd.code ++ toLe 4 f.flags ++ toLe 4 f.detail0 ++ toLe 4 f.detail1 ++ toLe 4 0
    ++ toLe 8 f.value

/-- The completion record (R379, R381, R462). -/
def State.record (s : State) (f : Flight) (phase : Bool) : List Byte :=
  let head := toLe 8 f.seq ++ toLe 4 f.tag
  let mid := match f.prot, (s.part f.fn).session with
    | true, some k =>
      let (ct, tag) := Config.gcmSeal k.kOut (gcmNonce f.ctr 127 1 0) (gcmAad f.fn f.cmd.code 127 0 28 true ++ head) f.body
      bytesAt ct 0 28 ++ bytesAt tag 0 16
    | _, _ => f.body ++ List.replicate 16 0
  head ++ mid ++ List.replicate 7 0 ++ [if phase then 0x80 else 0]

/-- Where the next record of a function goes, and its PHASE (R381). -/
def Fn.nextRecord (g : Fn) : Nat × Bool :=
  let n := 2 ^ g.log2n
  (g.cqAddr * 64 + 64 * (g.written % n), g.written / n % 2 == 0)

/-- A function counts one more record and sends the interrupt that the command asked for (R381). -/
def State.recordEnd (s : State) (f : Flight) : State :=
  let s1 := s.modFn f.fn fun g => { g with tail := (g.tail + 1) % 2 ^ 17, written := g.written + 1 }
  let s2 := if f.irq then s1.sendMsix f.fn f.vector else s1
  s2.setFlights (s2.flights.filter fun g => g.seq != f.seq)

/-- A command whose record is visible has this effect (R500). -/
def State.afterRecord (s : State) (f : Flight) : State :=
  if f.cmd = .restEnter && decide (f.status = .ok) then s.setHub { s.hub with rest := .entering } else s

/-- Result bytes, then the epoch word (R384). -/
def State.writeOut (s : State) (f : Flight) (o : OutBuf) : State :=
  let s1 := s.stewardWrite f.fn o.addr (outBytes s f f.cmd.code o)
  if o.epoch then s1.stewardWrite f.fn (o.addr + epochOfs f o) (toLe 8 f.seq) else s1

/-- A result that could not be written: what was held stays held, what the run held goes (R378, R387), and a session does not
open (R456). -/
def State.restoreHeld (s : State) (f : Flight) : State :=
  match f.cmd with
  | .fetch => s.modPart f.fn fun q =>
    { q with held := q.held ++ f.outs.map fun o => { handle := f.arg 0 8, slab := nth f.waits 0, bytes := o.bytes } }
  | .runPassage => s.modPart f.fn fun q => { q with held := q.held.filter fun x => x.handle / 16 != f.seq }
  | .sessionOpen => s.modPart f.fn fun q => { q with session := none }
  | _ => s

/-- The outcome of a command with result buffers once it reaches host memory (R359, R363). -/
def State.resultFails (s : State) (f : Flight) : State × Option St :=
  if f.outs = [] then (s, none) else s.hostOpen f

/-- The status block is the one of the moment it is written (R394). -/
def State.outsNow (s : State) (f : Flight) : Flight :=
  if f.cmd = .statusGet then
    { f with outs := f.outs.map fun o => { o with bytes := s.statusBlock f.fn } }
  else f

/-- The result buffers of a command are written, or it fails for want of host memory (R359, R363, R378, R384). -/
def State.results (s : State) (f : Flight) : State × Flight :=
  match s.resultFails f with
  | (s1, some e) => (s1.restoreHeld f, f.failed e)
  | (s1, none) =>
    let g := s1.outsNow f
    (g.outs.foldl (fun s o => s.writeOut g o) s1, g)

/-- The write of a completion record (R381). Where its translation is refused, as announced or by injection 0x0702, the
record is not written (R546). -/
def State.putCompletion (s : State) (f : Flight) (refused : Bool) : State :=
  let (a, phase) := (s.fn f.fn).nextRecord
  let (inj, s1) := s.atsInjected f.fn
  if refused || inj then s1.recordRefused 0 a inj else s1.stewardWrite f.fn a (s1.record f phase)

/-- Result buffers, record, interrupt (R381, R384). -/
def State.complete (s : State) (f : Flight) (refused : Bool := false) : State :=
  let (s1, g) := s.results f
  ((s1.putCompletion g refused).recordEnd g).afterRecord g

/-- A command of a function that has its outcome, or gets it now, completes; `refused`: the host refuses to translate its
record's write (R546). -/
def State.completeSeq (s : State) (fn seq : Nat) (refused : Bool) : State :=
  match s.flight? seq with
  | none => s
  | some f =>
    if f.fn != fn then s else
    let s1 := s.settle f
    match s1.flight? seq with
    | some g => if g.phase = .done then s1.complete g refused else s1
    | none => s1

/-- COMMAND_COMPLETION (R381): the outcome is decided, and the function may send the record out (R340, R347). -/
def commandCompletion (fn seq : Nat) (s : State) : State :=
  if s.running && (s.fn fn).masters then s.completeSeq fn seq false else s

/-! ## Host writes -/

/-- MBX_CQ_CFG (R369, R372). -/
def mbxCqCfgWrite (fn : Nat) (v : Word) (s : State) : State :=
  if !s.barOpen fn then s else
  let g := s.fn fn
  let on := bitOf v.toNat 0
  let l := fld v.toNat 5 1
  if g.en then
    if !on && s.inflight fn == 0 then s.modFn fn fun g => { g with en := false } else s
  else if on && decide (8 ≤ l) && decide (l ≤ 16) then
    s.modFn fn fun g => { g with en := true, log2n := l, head := 0, tail := 0, written := 0 }
  else s.modFn fn fun g => { g with log2n := l }

/-- MBX_CQ_HEAD (R370, R373). -/
def mbxCqHeadWrite (fn : Nat) (v : Word) (s : State) : State :=
  if !s.barOpen fn then s else s.modFn fn fun g => { g with head := headAfter g.head g.tail v.toNat }

/-- Pending vectors that are not masked go out (R361). -/
def State.flushPba (s : State) (fn : Nat) : State :=
  let g := s.fn fn
  if !(g.msix && g.masters && s.fnExists fn) then s else
  let go := g.pba.filter fun v => !g.maskedVec v
  go.foldl (fun s v => s.sendMessage fn v) (s.modFn fn fun g => { g with pba := g.pba.filter fun v => g.maskedVec v })

/-- A function may send requests to host memory now: the commands that wait for it start, in SEQ order, and decodes that wait
read their input (R347); pending interrupts (R361) and drop records (R478) go out. -/
def State.mastersOn (s : State) (fn : Nat) : State :=
  if !(s.running && (s.fn fn).masters) then s else
  let wait := (s.flights.filter fun f => f.fn == fn && decide (f.phase = .bme)).map Flight.seq
  let s1 := (sortBy id wait).foldl (fun s q => match s.flight? q with | some f => s.proceed f | none => s) s
  let s2 := (s1.nextDecodes fn).flushPba fn
  (if fn = 0 then [0, 16] else [fn]).foldl (fun s r => s.flushDrops r) s2

/-- BUS_MASTER_ENABLE_WRITE (R347). -/
def busMasterEnableWrite (fn : Nat) (on : Bool) (s : State) : State :=
  if s.configOpen && s.fnExists fn then (s.modFn fn fun g => { g with bme := on }).mastersOn fn else s

/-- Lengths and alignment that a register accepts, and a slot (R345). -/
def regAccess (off n : Nat) : Bool := (n == 4 || n == 8) && off % n == 0
def slotAccess (off n : Nat) : Bool := [4, 8, 16, 32, 64].contains n && off % n == 0

/-- A write into a slot: the fields that the host writes; SEQ, STATUS, STATE and SEAL keep theirs (R374, R375). -/
def Slot.write (b : Slot) (off : Nat) (data : List Byte) : Slot :=
  if b.state = .owned then b else
  let keep : Nat → Bool := fun i => decide (i < 8) || (decide (18 ≤ i) && decide (i < 28)) || decide (32 ≤ i)
  { b with
    area := Memory.put b.area ((data.zipIdx off).filterMap fun x =>
      if keep x.2 then some (x.2, if x.2 = 18 then x.1 &&& 0xFC else x.1) else none) }

/-- A 4-byte part of an MSI-X table entry: address low and high, data, vector control (R361). -/
def Vec.put (e : Vec) (part v : Nat) : Vec :=
  match part with
  | 0 => { e with addr := e.addr / 2 ^ 32 * 2 ^ 32 + v / 4 * 4 }
  | 1 => { e with addr := e.addr % 2 ^ 32 + v * 2 ^ 32 }
  | 2 => { e with data := v }
  | _ => { e with masked := bitOf v 0 }

def Fn.putVec (g : Fn) (i part v : Nat) : Fn :=
  { g with table := (g.table.filter fun e => e.idx != i) ++ [(g.vec i).put part v] }

/-- The 4-byte words of a write. -/
def wordsOf (off : Nat) (data : List Byte) : List (Nat × Nat) :=
  (List.range (data.length / 4)).map fun i => (off + 4 * i, numAt data (4 * i) 4)

/-- The offset from which REGISTER_WRITE stands for a write of configuration space (log 17): MSI-X Enable in bit 0, ATS
Enable in bit 1, in the physical function viral enable in bit 2, D3hot in bit 3 (R340), MSI-X Function Mask in bit 4, and in
bit 5 a 1 that clears the AER status. -/
def configOfs : Nat := 0x400000

def State.configWrite (s : State) (fn v : Nat) : State :=
  let s1 := s.modFn fn fun g =>
    { g with
      msix := bitOf v 0
      ats := bitOf v 1
      d3hot := bitOf v 3
      fmask := bitOf v 4
      aer := if bitOf v 5 then 0 else g.aer }
  (if fn = 0 then s1.setPort { s1.port with viralOn := bitOf v 2 } else s1).mastersOn fn

/-- REGISTER_WRITE: MBX_CQ_BASE, the slots, the MSI-X table; every other offset discards it (R345, R368, R372). -/
def registerWrite (fn off : Nat) (data : List Byte) (s : State) : State :=
  if off = configOfs then
    (if s.configOpen && s.fnExists fn && data.length == 4 then s.configWrite fn (leNat data) else s)
  else if !s.barOpen fn then s
  else if regAccess off data.length && decide (0x1000 ≤ off) && decide (off < 0x1008) then
    if (s.fn fn).en then s else
    (wordsOf off data).foldl (fun s w => s.modFn fn fun g =>
      { g with
        cqAddr := if w.1 = 0x1000 then g.cqAddr / 2 ^ 26 * 2 ^ 26 + w.2 / 64 else g.cqAddr % 2 ^ 26 + w.2 * 2 ^ 26 }) s
  else if regAccess off data.length && decide (0x2000 ≤ off) && decide (off < 0x2800) then
    ((wordsOf off data).foldl (fun s w => s.modFn fn fun g => g.putVec ((w.1 - 0x2000) / 16) (w.1 / 4 % 4) w.2) s).flushPba fn
  else if slotAccess off data.length && decide (0x10000 ≤ off) && decide (off < 0x20000) then
    let k := (off - 0x10000) / 256
    s.setSlot fn (((s.fn fn).slot k).write (off % 256) data)
  else s

/-! ## The rows -/

def execStatusGet (fn k : Nat) (s : State) : Host.Outcome State Fault Refusal := .next (sealRow .statusGet fn k s)
def execServiceEnter (fn k : Nat) (s : State) : Host.Outcome State Fault Refusal := .next (sealRow .serviceEnter fn k s)
def execRestEnter (fn k : Nat) (s : State) : Host.Outcome State Fault Refusal := .next (sealRow .restEnter fn k s)
def execPartCreate (fn k : Nat) (s : State) : Host.Outcome State Fault Refusal := .next (sealRow .partCreate fn k s)
def execPartDestroy (fn k : Nat) (s : State) : Host.Outcome State Fault Refusal := .next (sealRow .partDestroy fn k s)
def execPartSet (fn k : Nat) (s : State) : Host.Outcome State Fault Refusal := .next (sealRow .partSet fn k s)
def execCtxCreate (fn k : Nat) (s : State) : Host.Outcome State Fault Refusal := .next (sealRow .ctxCreate fn k s)
def execCtxDestroy (fn k : Nat) (s : State) : Host.Outcome State Fault Refusal := .next (sealRow .ctxDestroy fn k s)
def execCtxSave (fn k : Nat) (s : State) : Host.Outcome State Fault Refusal := .next (sealRow .ctxSave fn k s)
def execCtxRestore (fn k : Nat) (s : State) : Host.Outcome State Fault Refusal := .next (sealRow .ctxRestore fn k s)
def execModelLoad (fn k : Nat) (s : State) : Host.Outcome State Fault Refusal := .next (sealRow .modelLoad fn k s)
def execModelDrop (fn k : Nat) (s : State) : Host.Outcome State Fault Refusal := .next (sealRow .modelDrop fn k s)
def execModelPin (fn k : Nat) (s : State) : Host.Outcome State Fault Refusal := .next (sealRow .modelPin fn k s)
def execModelUnpin (fn k : Nat) (s : State) : Host.Outcome State Fault Refusal := .next (sealRow .modelUnpin fn k s)
def execQuarryStat (fn k : Nat) (s : State) : Host.Outcome State Fault Refusal := .next (sealRow .quarryStat fn k s)
def execRegionCreate (fn k : Nat) (s : State) : Host.Outcome State Fault Refusal := .next (sealRow .regionCreate fn k s)
def execRegionDestroy (fn k : Nat) (s : State) : Host.Outcome State Fault Refusal := .next (sealRow .regionDestroy fn k s)
def execRegionMap (fn k : Nat) (s : State) : Host.Outcome State Fault Refusal := .next (sealRow .regionMap fn k s)
def execRegionUnmap (fn k : Nat) (s : State) : Host.Outcome State Fault Refusal := .next (sealRow .regionUnmap fn k s)
def execProgLoad (fn k : Nat) (s : State) : Host.Outcome State Fault Refusal := .next (sealRow .progLoad fn k s)
def execRunPassage (fn k : Nat) (s : State) : Host.Outcome State Fault Refusal := .next (sealRow .runPassage fn k s)
def execFetch (fn k : Nat) (s : State) : Host.Outcome State Fault Refusal := .next (sealRow .fetch fn k s)
def execResultDrop (fn k : Nat) (s : State) : Host.Outcome State Fault Refusal := .next (sealRow .resultDrop fn k s)
def execGroupCreate (fn k : Nat) (s : State) : Host.Outcome State Fault Refusal := .next (sealRow .groupCreate fn k s)
def execGroupDestroy (fn k : Nat) (s : State) : Host.Outcome State Fault Refusal := .next (sealRow .groupDestroy fn k s)
def execCopy (fn k : Nat) (s : State) : Host.Outcome State Fault Refusal := .next (sealRow .copy fn k s)
def execFill (fn k : Nat) (s : State) : Host.Outcome State Fault Refusal := .next (sealRow .fill fn k s)
def execCodecOpen (fn k : Nat) (s : State) : Host.Outcome State Fault Refusal := .next (sealRow .codecOpen fn k s)
def execCodecClose (fn k : Nat) (s : State) : Host.Outcome State Fault Refusal := .next (sealRow .codecClose fn k s)
def execCodecEncode (fn k : Nat) (s : State) : Host.Outcome State Fault Refusal := .next (sealRow .codecEncode fn k s)
def execCodecDecode (fn k : Nat) (s : State) : Host.Outcome State Fault Refusal := .next (sealRow .codecDecode fn k s)
def execAttest (fn k : Nat) (s : State) : Host.Outcome State Fault Refusal := .next (sealRow .attest fn k s)
def execSessionOpen (fn k : Nat) (s : State) : Host.Outcome State Fault Refusal := .next (sealRow .sessionOpen fn k s)
def execSessionClose (fn k : Nat) (s : State) : Host.Outcome State Fault Refusal := .next (sealRow .sessionClose fn k s)
def execSignerAdd (fn k : Nat) (s : State) : Host.Outcome State Fault Refusal := .next (sealRow .signerAdd fn k s)
def execSignerRemove (fn k : Nat) (s : State) : Host.Outcome State Fault Refusal := .next (sealRow .signerRemove fn k s)
def execDebugUnlock (fn k : Nat) (s : State) : Host.Outcome State Fault Refusal := .next (sealRow .debugUnlock fn k s)
def execRingSet (fn k : Nat) (s : State) : Host.Outcome State Fault Refusal := .next (sealRow .ringSet fn k s)
def execAlarmAck (fn k : Nat) (s : State) : Host.Outcome State Fault Refusal := .next (sealRow .alarmAck fn k s)
def execInject (fn k : Nat) (s : State) : Host.Outcome State Fault Refusal := .next (sealRow .inject fn k s)
def execInjectClear (fn k : Nat) (s : State) : Host.Outcome State Fault Refusal := .next (sealRow .injectClear fn k s)
def execSealUnknownOpcode (fn k : Nat) (s : State) : Host.Outcome State Fault Refusal := .next (sealUnknown fn k s)
def execOrderedStart (fn seq : Nat) (s : State) : Host.Outcome State Fault Refusal := .next (orderedStart fn seq s)
def execCommandCompletion (fn seq : Nat) (s : State) : Host.Outcome State Fault Refusal := .next (commandCompletion fn seq s)
def execMbxCqCfgWrite (fn : Nat) (v : Word) (s : State) : Host.Outcome State Fault Refusal := .next (mbxCqCfgWrite fn v s)
def execMbxCqHeadWrite (fn : Nat) (v : Word) (s : State) : Host.Outcome State Fault Refusal := .next (mbxCqHeadWrite fn v s)
def execBusMasterEnableWrite (fn : Nat) (on : Bool) (s : State) : Host.Outcome State Fault Refusal :=
  .next (busMasterEnableWrite fn on s)
def execRegisterWrite (fn off : Nat) (data : List Byte) (s : State) : Host.Outcome State Fault Refusal :=
  .next (registerWrite fn off data s)

end Sys2Proof.Machine
end

