-- ==== Sys2Proof/Machine/Transfer.lean ====
section
/-! DEFINITION. Transfer.lean: the transfer engine: XF_RUN, XF_PAGED and the page walk (R62, R63, R203, R204, R210 to
R212, R215, R289, R347, R354, R359, R363, R401, R426). -/

namespace Sys2Proof.Machine

/-! ## Sides of a descriptor -/

/-- One side of a transfer at a row: space and address. -/
structure XfSide where
  space : Nat
  addr : Nat
  stride : Nat
  deriving DecidableEq, Repr, Inhabited

def XfDesc.src (d : XfDesc) : XfSide := { space := d.sspace, addr := d.saddr, stride := d.sstride }
def XfDesc.dst (d : XfDesc) : XfSide := { space := d.dspace, addr := d.daddr, stride := d.dstride }

/-- The slab that a side names, this one for SPACE 0x0 and 0x1 (R62). -/
def XfSide.slab (x : XfSide) (here : Nat) : Nat := if x.space = 2 || x.space = 3 then fld x.addr 59 56 else here

/-- First byte of a side in its space, the session or region aside (R62, R203, R425). -/
def XfSide.base (x : XfSide) : Nat :=
  if x.space = 2 || x.space = 3 then fld x.addr 55 0
  else if x.space = 4 then fld x.addr 59 32
  else if x.space = 7 then fld x.addr 39 0
  else x.addr

/-- Byte of row r, offset k. -/
def XfSide.byte (x : XfSide) (r k : Nat) : Nat := x.base + r * x.stride + k

def isFlatSpace (n : Nat) : Bool := n == 1 || n == 3
def isShareSpace (n : Nat) : Bool := n == 0 || n == 2

/-- Check 1 of R63 (R203, R210, R426). -/
def XfDesc.spaceOk (d : XfDesc) (paged : Bool) : Bool :=
  d.rsvd == 0 && decide (d.sspace < 8) && decide (d.dspace < 8) && d.dspace != 6 && (d.sspace != 6 || d.saddr == 0)
    && (d.pattern == 0 || d.sspace == 6) && d.sspace != 4
    && (if paged then (d.sspace == 7 && d.dspace == 0) || (d.dspace == 7 && d.sspace == 0) else d.sspace != 7 && d.dspace != 7)
    && (d.sspace != 7 || fld d.saddr 59 44 == 0) && (d.dspace != 7 || fld d.daddr 59 44 == 0)

/-- Check 2 of R63. -/
def XfDesc.alignOk (d : XfDesc) : Bool :=
  [d.src.base, d.dst.base, d.sstride, d.dstride, d.run].all (fun x => x % 512 == 0) && d.run != 0 && d.rows != 0

/-- One past the last byte that a side reaches. -/
def XfSide.last (x : XfSide) (d : XfDesc) : Nat := x.byte (d.rows - 1) d.run

/-- Every slab whose share a side names is one that the context spans (R63). -/
def State.spanned (s : State) (o : OpE) (slab : Nat) : Bool :=
  ((s.ctx? o.part o.ctx).bind fun c => c.onSlab? slab).isSome

/-- Check 3 of R63 for one side. -/
def State.sideFits (s : State) (slab : Nat) (o : OpE) (d : XfDesc) (x : XfSide) (write : Bool) : Bool :=
  if isShareSpace x.space then
    s.spanned o (x.slab slab) && (List.range d.rows).all fun r =>
      if write then s.writable o.part o.ctx (x.slab slab) (x.byte r 0) d.run
      else s.readable o.part o.ctx o.seq (x.slab slab) (x.byte r 0) d.run
  else if isFlatSpace x.space then decide (x.last d ≤ (s.part o.part).flatSize (x.slab slab))
  else if x.space = 4 then
    match s.sink? o.part (fld x.addr 31 0) with
    | none => false
    | some c => if d.rows = 1 then c.sinkFits x.base d.run else decide (x.last d ≤ encFrameBytes c.param)
  else true

/-- The first check of R63 that a descriptor of XF_RUN fails. -/
def State.descFails (s : State) (slab : Nat) (o : OpE) (d : XfDesc) : Option St :=
  if !d.spaceOk false then some .xfSpace
  else if !d.alignOk then some .xfAlign
  else if !(s.sideFits slab o d d.src false && s.sideFits slab o d d.dst true) then some .xfRange
  else none

/-! ## Moving 512-byte units (R215) -/

/-- A fault of a transfer at an item of its operation (R380). -/
def State.xfFault (s : State) (slab : Nat) (o : OpE) (code : St) (unit item : Nat) (inj : Bool) : State :=
  s.contextFault o.part o.ctx (lineFault code slab o unit item inj)

/-- The newest bytes that this slab's transfers have written at an address of the context's share on another slab, not yet
visible there (R74). -/
def State.sentTo (s : State) (slab : Nat) (o : OpE) (t a : Nat) : Option (List Byte) :=
  ((s.slab t).inbound.reverse.find? fun w => w.part == o.part && w.ctx == o.ctx && w.src == slab && w.addr == a).map Inbound.bytes

/-- Host memory as transfers of a partition move it. Under a session no byte of the tenant crosses the link in plaintext
(R30, R446), and the spec gives transfers no protected form: free values on both sides (log 53). -/
def State.hostBytes (s : State) (p : Nat) (bs : List Byte) : State × List Byte :=
  if (s.part p).session.isSome then
    let (d, s1) := s.draw
    (s1, freeBytes d bs.length)
  else (s, bs)

/-- Read 512 bytes of a source; nothing where the context has faulted (R289, R290). -/
def State.xfRead (s : State) (slab : Nat) (o : OpE) (item : Nat) (d : XfDesc) (r k : Nat) : State × Option (List Byte) :=
  let x := d.src
  let a := x.byte r k
  let t := x.slab slab
  if isShareSpace x.space then
    match s.sentTo slab o t a with
    | some bs => (s, some bs)
    | none =>
      match s.eccShare o.part o.ctx o.seq t [(a, 512)] with
      | (s1, some inj) => (s1.xfFault slab o .spadUncorr o.unit 0xFFFFFFFF inj, none)
      | (s1, none) => (s1, some (s1.readShare o.part o.ctx o.seq t a 512))
  else if isFlatSpace x.space then
    match s.readHbm t o.part (inFlat o.part t a 512) (some (a, 512)) (decide (k = 0)) with
    | (s1, some inj) => (s1.xfFault slab o .hbmUncorr o.unit item inj, none)
    | (s1, none) => (s1, some (Memory.read (s1.flat o.part t) a 512))
  else if x.space = 5 then
    let (s1, bs) := s.hostBytes o.part (s.readHost o.part a 512)
    (s1, some bs)
  else (s, some ((List.replicate 64 (toLe 8 d.pattern)).flatten))

/-- Write 512 bytes of the context's share on another slab: programs there do not see them yet (R74). -/
def State.sendTo (s : State) (slab : Nat) (o : OpE) (t a : Nat) (bs : List Byte) : State :=
  s.modSlab t fun b =>
    { b with
      inbound := b.inbound ++ [{ part := o.part, ctx := o.ctx, src := slab, op := o.id, seq := o.seq, carrier := none, due := none
                                 addr := a, bytes := bs }] }

/-- Number of the frame that the sink fills, since the session opened (R426). -/
def CodecSession.fillNo (c : CodecSession) : Nat := c.history.length + c.committed.length

/-- Write 512 bytes to a destination; false where the context has faulted for want of a frame (R401). -/
def State.xfWrite (s : State) (slab : Nat) (o : OpE) (item : Nat) (d : XfDesc) (r k : Nat) (bs : List Byte) : State × Bool :=
  let x := d.dst
  let a := x.byte r k
  let t := x.slab slab
  if isShareSpace x.space then
    (if t = slab then s.opWrite slab o a bs else (s.sendTo slab o t a bs).noteWrite slab o 4 t a 512, true)
  else if isFlatSpace x.space then
    match s.needFlat o.part t a with
    | none => (s.xfFault slab o .xfRange o.unit item false, false)
    | some s1 =>
      (((s1.writeFlat o.part t a bs).overwrite t (inFlat o.part t a 512)).noteWrite slab o 0 t a 512, true)
  else if x.space = 4 then
    let h := fld x.addr 31 0
    let n := ((s.session? h).map CodecSession.fillNo).getD 0
    ((s.modSession h fun c => c.sinkWrite a bs).noteWrite slab o 3 h (n * 2 ^ 28 + a) 512, true)
  else
    let (s1, out) := s.hostBytes o.part bs
    ((s1.writeHost o.part a out).noteWrite slab o 2 0 a 512, true)

/-- Move the units of a descriptor in order: false where the context has faulted on the way. -/
def State.xfUnits (s : State) (slab : Nat) (o : OpE) (item : Nat) (d : XfDesc) : List (Nat × Nat) → State × Bool
  | [] => (s, true)
  | (r, k) :: t =>
    match s.xfRead slab o item d r k with
    | (s1, none) => (s1, false)
    | (s1, some bs) =>
      match s1.xfWrite slab o item d r k bs with
      | (s2, false) => (s2, false)
      | (s2, true) => s2.xfUnits slab o item d t

/-- The units of a descriptor, row by row. -/
def XfDesc.units (d : XfDesc) : List (Nat × Nat) :=
  (List.range d.rows).flatMap fun r => (List.range (d.run / 512)).map fun k => (r, 512 * k)

/-! ## What a descriptor waits for -/

/-- Lines that the snoop filter records under one side of a descriptor (R351, R354). -/
def State.sideLines (s : State) (slab : Nat) (o : OpE) (d : XfDesc) (x : XfSide) : List Nat :=
  if !isFlatSpace x.space then [] else
  s.port.snoop.filter fun l => l / 2 ^ 34 == o.part && l / 2 ^ 31 % 8 == x.slab slab &&
    (List.range d.rows).any fun r => overlaps (x.byte r 0) d.run (l % 2 ^ 31 * 64) 64

def State.descLines (s : State) (slab : Nat) (o : OpE) (d : XfDesc) : List Nat :=
  s.sideLines slab o d d.src ++ s.sideLines slab o d d.dst

def XfDesc.usesHost (d : XfDesc) : Bool := d.sspace == 5 || d.dspace == 5

/-- The descriptor writes a sink whose input buffers are all committed (R426). -/
def State.sinkWaits (s : State) (o : OpE) (d : XfDesc) : Bool :=
  d.dspace == 4 && (s.sink? o.part (fld d.daddr 31 0)).any CodecSession.sinkFull

/-- How a descriptor ends. -/
inductive XfEnd where
  | ended | waits | faulted
  deriving DecidableEq, Repr

/-- Descriptor `i` of an operation, read from the share (R62). -/
def State.xfDescAt (s : State) (slab : Nat) (o : OpE) (i : Nat) : XfDesc :=
  xfDescOf (leNat (s.opBytes slab o ((xfAddr o.bits.toNat + i) * 64) 64))

/-- Move an XF_RUN descriptor that has passed its checks and waits for nothing (R347, R359, R363, R488). -/
def State.moveDesc (s : State) (slab : Nat) (o : OpE) (i : Nat) (d : XfDesc) : State × XfEnd :=
  if d.usesHost && s.port.ideIo = 2 then (s.xfFault slab o .ideFail o.unit 0xFFFFFFFF false, .faulted) else
  match (if d.usesHost then s.atsInjected o.part else (false, s)) with
  | (true, s1) => (s1.xfFault slab o .hostAddr o.unit 0xFFFFFFFF true, .faulted)
  | (false, s1) =>
    match s1.xfUnits slab o i d d.units with
    | (s2, true) => (s2, .ended)
    | (s2, false) => (s2, .faulted)

/-- One descriptor of XF_RUN (R63). -/
def State.runDesc (s : State) (slab : Nat) (o : OpE) (i : Nat) : State × XfEnd :=
  match s.eccShare o.part o.ctx o.seq slab [((xfAddr o.bits.toNat + i) * 64, 64)] with
  | (s1, some inj) => (s1.xfFault slab o .spadUncorr o.unit 0xFFFFFFFF inj, .faulted)
  | (s1, none) =>
    let d := s1.xfDescAt slab o i
    match s1.descFails slab o d with
    | some code => (s1.xfFault slab o code o.unit i false, .faulted)
    | none =>
      if (d.usesHost && !(s1.fn o.part).masters) || s1.sinkWaits o d then (s1, .waits) else
      match s1.descLines slab o d with
      | [] => s1.moveDesc slab o i d
      | ls => (s1.setPort (s1.port.backInvalidate ls), .waits)

/-- Run descriptors in order until one waits or faults; `upTo` stops before the first that it satisfies. -/
def State.runDescs (s : State) (slab : Nat) (o : OpE) (upTo : XfDesc → Bool) : List Nat → State × XfEnd
  | [] => (s, .ended)
  | i :: t =>
    if upTo (s.xfDescAt slab o i) then (s, .waits) else
    match s.runDesc slab o i with
    | (s1, .ended) => (s1.modStarted slab o.id fun p => { p with ext := (i + 1, 0) }).runDescs slab o upTo t
    | r => r

/-- The descriptors of a started XF_RUN that have not run. -/
def OpE.descsLeft (o : OpE) : List Nat := (List.range (xfCount o.bits.toNat)).drop o.ext.1

/-- The transfer that is under way on a slab. -/
def Slab.transfer? (b : Slab) : Option OpE := b.started.find? OpE.xfOpen

/-- XF_RUN: start the operation at the head of the queue, or go on with the one that waits. -/
def xfRun (slab : Nat) (s : State) : State :=
  match (s.slab slab).transfer? with
  | some o => if s.running && o.op == 1 then (s.runDescs slab o (fun _ => false) o.descsLeft).1 else s
  | none => fireRow 4 1 (fun s slab o => (s.runDescs slab o (fun _ => false) o.descsLeft).1) slab s

/-! ## XF_PAGED (R203, R204, R210 to R212) -/

/-- The side in SPACE 0x7, and whether it is the destination. -/
def XfDesc.paged (d : XfDesc) : XfSide × Bool := if d.dspace = 7 then (d.dst, true) else (d.src, false)

/-- The region bound at an index for the passage (R204). -/
def State.bound? (s : State) (o : OpE) (i : Nat) : Option Region :=
  match (s.flight? o.seq).bind Flight.run with
  | none => none
  | some r => (s.part o.part).region? (nth r.regions i)

/-- A fault of the walk names the binding, the region offset and the piece (R212, R475). -/
def State.walkFault (s : State) (slab : Nat) (o : OpE) (code : St) (bind offset piece d1 : Nat) : State :=
  s.contextFault o.part o.ctx
    { lineFault code slab o o.unit d1 with
      arg := bind + offset / 512 % 2 ^ 31 * 2 ^ 4 + Nat.min piece (2 ^ 20 - 1) * 2 ^ 35 }

/-- Move `n` bytes between region offset `va` and share offset `oa`, the first of a page's piece or not; false where the context has faulted. The units of
a piece before the one that fails have moved (R289). -/
def State.movePiece (s : State) (slab : Nat) (o : OpE) (h : Nat) (toRegion : Bool) (va oa piece : Nat) (start : Bool := true) : Nat → State × Bool
  | 0 => (s, true)
  | n + 1 =>
    if toRegion then
      match s.eccShare o.part o.ctx o.seq slab [(oa, 512)] with
      | (s1, some inj) => (s1.xfFault slab o .spadUncorr o.unit 0xFFFFFFFF inj, false)
      | (s1, none) =>
        let bs := s1.readShare o.part o.ctx o.seq slab oa 512
        (((s1.modRegion o.part h fun r => { r with bytes := Memory.write r.bytes va bs }).overwrite slab (inPages o.part h va 512)).noteWrite
          slab o 1 h va 512).movePiece slab o h toRegion (va + 512) (oa + 512) piece false n
    else
      match s.readHbm slab o.part (inPages o.part h va 512) none start with
      | (s1, some inj) => (s1.xfFault slab o .hbmUncorr o.unit piece inj, false)
      | (s1, none) =>
        let bs := Memory.read (((s1.part o.part).region? h).getD default).bytes va 512
        (s1.opWrite slab o oa bs).movePiece slab o h toRegion (va + 512) (oa + 512) piece false n

/-- The walk of one row from region offset `va` (R211): the next piece number, or nothing where it has faulted. `fuel`
bounds the pieces by the 512-byte units left. -/
def State.walkRow (s : State) (slab : Nat) (o : OpE) (h bind : Nat) (toRegion : Bool) : Nat → Nat → Nat → Nat → Nat → State × Option Nat
  | 0, _, _, _, piece => (s, some piece)
  | fuel + 1, va, oa, left, piece =>
    if left = 0 then (s, some piece) else
    match (((s.part o.part).region? h).getD default).entry? (va / 2 ^ 16) with
    | none => (s.walkFault slab o .pageFault bind va piece piece, none)
    | some e =>
      if toRegion && e.ro then (s.walkFault slab o .pageRo bind va piece piece, none) else
      let ps : Nat := if e.big then 2 ^ 21 else 2 ^ 16
      let n := Nat.min left (ps - va % ps)
      match s.movePiece slab o h toRegion va oa piece true (n / 512) with
      | (s1, false) => (s1, none)
      | (s1, true) => s1.walkRow slab o h bind toRegion fuel (va + n) (oa + n) (left - n) (piece + 1)

/-- The rows of the walk. -/
def State.walkRows (s : State) (slab : Nat) (o : OpE) (h bind : Nat) (d : XfDesc) : List Nat → Nat → State × Bool
  | [], _ => (s, true)
  | r :: t, piece =>
    let v := d.paged
    let other := if v.2 then d.src else d.dst
    match s.walkRow slab o h bind v.2 (d.run / 512) (v.1.byte r 0) (other.byte r 0) d.run piece with
    | (s1, none) => (s1, false)
    | (s1, some p) => s1.walkRows slab o h bind d t p

/-- XF_PAGED, fired (R210 to R212). -/
def xfPagedAct (s : State) (slab : Nat) (o : OpE) : State :=
  s.withShare slab o [(xfAddr o.bits.toNat * 64, 64)] fun s =>
    let d := s.xfDescAt slab o 0
    if !d.spaceOk true then s.opFault slab o .xfSpace else
    if !d.alignOk then s.opFault slab o .xfAlign else
    let v := d.paged
    let bind := fld v.1.addr 43 40
    match s.bound? o bind with
    | none => s.walkFault slab o .regionUnbound bind v.1.base 0 bind
    | some g =>
      if g.home ≠ slab then s.walkFault slab o .pageHome bind v.1.base 0 bind else
      if g.size < v.1.last d || !s.sideFits slab o d (if v.2 then d.src else d.dst) (!v.2) then
        s.walkFault slab o .xfRange bind v.1.base 0 0xFFFFFFFF
      else
        match s.walkRows slab o g.handle bind d (List.range d.rows) 0 with
        | (s1, true) => s1.modStarted slab o.id fun p => { p with ext := (1, 0) }
        | (s1, false) => s1

def execXfRun (slab : Nat) (s : State) : Host.Outcome State Fault Refusal := .next (xfRun slab s)
def execXfPaged (slab : Nat) (s : State) : Host.Outcome State Fault Refusal := .next (fireRow 4 2 xfPagedAct slab s)

end Sys2Proof.Machine
end

