-- ==== Sys2Proof/Machine/HostPort.lean ====
section
/-! DEFINITION. HostPort.lean: the host link, device memory and the snoop filter, host translations, and link encryption
(R336 to R367, R546). -/

namespace Sys2Proof.Machine

/-! ## The link (R336, R339, R522) -/

/-- The module is in CXL mode at this width and rate (R336). -/
def cxlMode (width rate : Nat) : Bool := decide (2 ≤ width) && decide (2 ≤ rate)

/-- The port after a training (R336, R365). Without CXL.mem the host can hold no line of device memory, so nothing is
back-invalidated (R337, log 60). -/
def Port.trained (o : Port) (width rate : Nat) (flit256 lopt : Bool) : Port :=
  let cxl := cxlMode width rate
  let f := flit256 || rate == 5
  let mem := cxl && f
  { o with
    snoop := if mem then o.snoop else []
    awaiting := if mem then o.awaiting else []
    dropped := if mem then o.dropped else []
    hostWaits := if mem then o.hostWaits else []
    up := true
    cxl := cxl
    flit256 := f
    lopt := cxl && f && lopt
    width := width
    rate := rate
    retrains := if o.up then Nat.min (2 ^ 32 - 1) (o.retrains + 1) else o.retrains }

/-- The physical layer can train: start-up has passed step 1, and PERST# is deasserted (R522). -/
def State.canTrain (s : State) : Bool :=
  !s.hub.pins.perst && (decide (s.hub.power = .up) || (decide (s.hub.power = .starting) && decide (2 ≤ s.hub.startup.step)))

/-- HOST_LINK_TRAINED: the link trains or retrains at a width (log2 of the lanes) and a rate (R336, R339), with injection
0x0704 on a retrain. -/
def hostLinkTrained (width rate : Nat) (flit256 lopt : Bool) (s : State) : State :=
  if !s.canTrain || 4 < width || 5 < rate then s else
  let (o, s1) := if s.port.up then s.opportunity 0x0704 Armed.onModule else (none, s)
  let w := (o.map fun a => Nat.min width (fld a.param 2 0)).getD width
  let r := (o.map fun a => Nat.min rate (fld a.param 10 8)).getD rate
  let s2 := s1.setPort (s1.port.trained w r flit256 lopt)
  if (w < 4 || r < 5) && s2.hub.stop.isNone then
    s2.moduleEvent .hostLink 0 0xF 0xC (w + r * 256) 0 0 o.isSome
  else s2

/-! ## Device memory -/

/-- CXL.cache and CXL.mem requests of the host arrive: the link runs in CXL mode, and their stream is not insecure (R338,
R363). -/
def Port.cacheMem (o : Port) : Bool := o.up && o.cxl && o.ideCm != 2

/-- CXL.mem is available (R337, R338). -/
def State.cxlMem (s : State) : Bool := s.port.cacheMem && s.port.flit256 && s.port.memActive

/-- HDM_DECODER_COMMIT: decoder `idx` is to map `size` bytes of device memory from DPA `base` (R337, R340, R351). -/
def hdmDecoderCommit (idx base size : Nat) (s : State) : State :=
  if !(s.configOpen && s.port.cxl) || 16 ≤ idx || (nth s.port.decoders idx).committed then s else
  let ok := s.port.flit256
  (s.setPort { s.port with decoders := modAt s.port.decoders idx fun _ =>
    { base := base, size := size, committed := ok, error := !ok } }).setReply (.decoder ok)

/-- A committed decoder maps this DPA (R351). -/
def State.decodes (s : State) (dpa : Nat) : Bool :=
  s.port.decoders.any fun d => d.committed && decide (d.base ≤ dpa) && decide (dpa < d.base + d.size)

/-- Partition, slab and partition address of a DPA (R351). -/
def dpaPart (dpa : Nat) : Nat := dpa / 2 ^ 40
def dpaSlab (dpa : Nat) : Nat := fld dpa 39 37
def dpaAddr (dpa : Nat) : Nat := fld dpa 36 0

/-- The partition's window is open to the host (R352, R366). -/
def State.hdmOpen (s : State) (p : Nat) : Bool :=
  (s.part p).live && s.fnExists p && (s.part p).q.hostAccess && (s.part p).session.isNone

/-- The flat memory of a live partition reaches this DPA. -/
def State.dpaInFlat (s : State) (dpa : Nat) : Bool :=
  decide (dpa < 2 ^ 44) && decide (dpaSlab dpa < s.slabCount) && decide (dpaAddr dpa < (s.part (dpaPart dpa)).flatSize (dpaSlab dpa))

/-- A DPA is backed (R352). -/
def State.backed (s : State) (dpa : Nat) : Bool := decide (dpa < 2 ^ 44) && s.hdmOpen (dpaPart dpa) && s.dpaInFlat dpa

/-- ST_HDM_UNMAPPED (R352, R476). -/
def State.hdmUnmapped (s : State) (dpa : Nat) (write : Bool) : State :=
  s.moduleEvent .hdmUnmapped 0 0xF 0xC (boolNat write) (dpa % 2 ^ 32) (dpa / 2 ^ 32 % 2 ^ 32)

/-- Lines that the snoop filter can record (R354). -/
def snoopLines : Nat := 524288

/-- A backed 64-byte read: the word in plaintext, or poison (R289, R352, R357). -/
def State.hdmWord (s : State) (dpa : Nat) : State :=
  let p := dpaPart dpa
  let k := dpaSlab dpa
  let a := dpaAddr dpa / 64 * 64
  match s.readHbm k p (inFlat p k a 64) (some (a, 64)) with
  | (s1, some inj) => (s1.draw.2.hbmUncorrEvent k (Config.freeNat s1.free % 3) (some (p, some a)) true inj).setReply .poison
  | (s1, none) => s1.setReply (.data (Memory.read (s1.flat p k) a 64))

/-- A host read of the word that holds a DPA: a full filter makes room first (R352, R354). -/
def State.hostReadDpa (s : State) (dpa : Nat) : State :=
  if !s.backed dpa then (s.hdmUnmapped dpa false).setReply .poison else
  let line := dpa / 64
  if s.port.snoop.contains line then s.hdmWord dpa
  else if snoopLines ≤ s.port.snoop.length then
    (s.setPort { s.port.backInvalidate (s.port.snoop.take 1) with hostWaits := s.port.hostWaits ++ [(dpa, none)] }).setReply .waits
  else
    (s.setPort { s.port with
      snoop := s.port.snoop ++ [line]
      dropped := s.port.dropped.filter fun x => x != line }).hdmWord dpa

/-- A host write of bytes inside one word (R352, R353, R355, R401). -/
def State.hostWriteDpa (s : State) (dpa : Nat) (bs : List Byte) : State :=
  if !s.backed dpa then (s.hdmUnmapped dpa true).setReply .none
  else if s.port.dropped.contains (dpa / 64) then s.setReply .none else
  let p := dpaPart dpa
  let k := dpaSlab dpa
  match s.needFlat p k (dpaAddr dpa) with
  | none => (s.hdmUnmapped dpa true).setReply .none
  | some s1 =>
    let s2 := s1.writeFlat p k (dpaAddr dpa) bs
    (if bs.length = 64 then s2.overwrite k (inFlat p k (dpaAddr dpa) 64) else s2).setReply .none

/-- A host access reaches the module: poison or nothing after a stop (R364); a wake first in Rest (R502). -/
def State.hostAccess (s : State) (dpa : Nat) (bs : Option (List Byte)) : State :=
  if s.hub.stop.isSome then s.setReply (if bs.isSome then .none else .poison)
  else if s.hub.rest ≠ .awake then
    ((s.wake).setPort { s.port with hostWaits := s.port.hostWaits ++ [(dpa, bs)] }).setReply .waits
  else match bs with
    | none => s.hostReadDpa dpa
    | some d => s.hostWriteDpa dpa d

/-- The host requests that wait are served again, in order. -/
def State.serveHost (s : State) : State :=
  s.port.hostWaits.foldl (fun s w => s.hostAccess w.1 w.2) (s.setPort { s.port with hostWaits := [] })

/-- HDM_READ (R352 to R354, R357); every read after a stop, also one of start-up, gets poison (R364). -/
def hdmRead (dpa : Nat) (s : State) : State :=
  if s.port.cacheMem && s.port.flit256 && s.decodes dpa
      && (s.hub.stop.isSome || (s.port.memActive && decide (s.hub.power = .up))) then s.hostAccess dpa none
  else s

/-- HDM_WRITE: the bytes lie in one 64-byte word (R352, R353). -/
def hdmWrite (dpa : Nat) (data : List Byte) (s : State) : State :=
  if s.cxlMem && s.decodes dpa && decide (s.hub.power = .up) && decide (0 < data.length) && decide (dpa % 64 + data.length ≤ 64) then
    s.hostAccess dpa (some data)
  else s

/-- REST_WAKE_END (R502): work is accepted, and the host's requests complete. -/
def wakeEnd (s : State) : State :=
  if s.running && decide (s.hub.rest = .waking) then (restWakeEnd s).serveHost else s

/-! ## Back-invalidation (R354 to R356) -/

/-- A line leaves the filter. -/
def Port.forget (o : Port) (line : Nat) : Port :=
  { o with
    snoop := o.snoop.filter fun x => x != line
    awaiting := o.awaiting.filter fun x => x != line }

/-- Modified data of a line written back in answer to a back-invalidation (R354, R356); one that finds no frame is not
backed (R352, R401). -/
def State.writeBack (s : State) (line : Nat) (bs : List Byte) : State :=
  let dpa := line * 64
  if !((s.part (dpaPart dpa)).live && s.dpaInFlat dpa) then s.hdmUnmapped dpa true else
  match s.needFlat (dpaPart dpa) (dpaSlab dpa) (dpaAddr dpa) with
  | none => s.hdmUnmapped dpa true
  | some s1 =>
    (s1.writeFlat (dpaPart dpa) (dpaSlab dpa) (dpaAddr dpa) (bytesAt bs 0 64)).overwrite (dpaSlab dpa)
      (inFlat (dpaPart dpa) (dpaSlab dpa) (dpaAddr dpa) 64)

/-- The transfers whose present descriptor waits for a line: slab, operation. -/
def State.waitingOn (s : State) (line : Nat) : List (Nat × OpE) :=
  (List.range 8).filterMap fun k =>
    match (s.slab k).transfer? with
    | none => none
    | some o => if o.op == 1 && (s.descLines k o (s.xfDescAt k o o.ext.1)).contains line then some (k, o) else none

/-- The content of a dropped line is not defined (R355, log 11). -/
def State.blurLine (s : State) (line : Nat) : State :=
  let dpa := line * 64
  let p := dpaPart dpa
  if ((s.part p).flatFrames.getD (dpaSlab dpa) []).contains (dpaAddr dpa / frameBytes) then
    s.draw.2.writeFlat p (dpaSlab dpa) (dpaAddr dpa) (freeBytes s.free 64)
  else s

/-- No response came for a line within 1,000 local µs (R355). -/
def State.biTimeout (s : State) (line : Nat) (inj : Bool) : State :=
  let s1 := (s.waitingOn line).foldl (fun s w =>
    if (s.slab w.1).transfer? = some w.2 then s.xfFault w.1 w.2 .biTimeout w.2.unit 0xFFFFFFFF inj else s) s
  let s2 := s1.setPort { s1.port.forget line with dropped := s1.port.dropped ++ [line] }
  (s2.blurLine line).serveHost

/-- BISNP_RESPONSE: the host answers a back-invalidation, with the line's data where it had modified it. Injection 0x0703
ignores the response, and the timeout follows; an insecure stream discards it (R363). -/
def bisnpResponse (line : Nat) (dirty : Option (List Byte)) (s : State) : State :=
  if !s.running || s.port.ideCm = 2 || !s.port.awaiting.contains line then s else
  match s.opportunity 0x0703 fun a => a.onPart (dpaPart (line * 64)) with
  | (some _, s1) => s1.biTimeout line true
  | (none, s1) =>
    let s2 := s1.setPort (s1.port.forget line)
    (match dirty with
      | some bs => s2.writeBack line bs
      | none => s2).serveHost

/-- BI_TIMEOUT (R355). -/
def biTimeout (line : Nat) (s : State) : State :=
  if s.running && s.port.awaiting.contains line then s.biTimeout line false else s

/-- HOST_SNOOP: the module answers for any line; what its device cache holds is a free value (R358, log 11). -/
def hostSnoop (_line : Nat) (s : State) : State :=
  if s.port.cacheMem then s.draw.2.setReply (.snoop (Config.freeBool s.free)) else s

/-! ## Host translations (R359, R546) -/

/-- An XF_RUN meets a refused translation at its first descriptor in host memory that has not run. -/
def State.refuseTransfer (s : State) (slab : Nat) (o : OpE) : State :=
  let s1 := (s.runDescs slab o XfDesc.usesHost o.descsLeft).1
  match (s1.slab slab).transfer? with
  | some q =>
    if q.id == o.id && (q.descsLeft.head?.map fun i => (s1.xfDescAt slab q i).usesHost).getD false then
      s1.xfFault slab q .hostAddr q.unit 0xFFFFFFFF false
    else s1
  | none => s1

/-- Some descriptor of an XF_RUN that has not run uses host memory. -/
def State.willUseHost (s : State) (slab : Nat) (o : OpE) : Bool :=
  o.op == 1 && o.descsLeft.any fun i => (s.xfDescAt slab o i).usesHost

/-- A refused translation for a transfer of a slab: the one under way, or the head of the queue. -/
def State.atsTransfer (s : State) (slab : Nat) : State :=
  match (s.slab slab).transfer? with
  | some o => if (s.fn o.part).ats && s.willUseHost slab o then s.refuseTransfer slab o else s
  | none =>
    match (s.queue slab 4).head? with
    | none => s
    | some o => if (s.fn o.part).ats && s.willUseHost slab o then fireRow 4 1 State.refuseTransfer slab s else s

/-- The write of a completion record is refused (R546): TAIL advances, the interrupt goes, the outcome stands. -/
def State.atsRecord (s : State) (seq : Nat) : State :=
  match s.flight? seq with
  | none => s
  | some f => if (s.fn f.fn).ats && (s.fn f.fn).masters then s.completeSeq f.fn seq true else s

/-- ATS_TRANSLATION_REFUSED (R359, R546): the function's ATS is enabled. -/
def atsTranslationRefused (use : AtsUse) (s : State) : State :=
  if !s.running then s else
  match use with
  | .transfer slab => s.atsTransfer slab
  | .command seq => s.setPort { s.port with refused := if s.port.refused.contains seq then s.port.refused else s.port.refused ++ [seq] }
  | .record seq => s.atsRecord seq
  | .ring r => if (s.fn (ringFn r)).ats then s.modRing r fun g => { g with blocked := true } else s

/-- Unsupported Request Error in the AER uncorrectable error status (R340, log 17). -/
def aerUnsupported : Nat := 2 ^ 20

/-- UNSUPPORTED_REQUEST: a request for an absent function, or an AtomicOp to a BAR (R299, R341): the completion says so, and
AER holds the error, of the physical function where the function is absent (log 17). -/
def unsupportedRequest (fn _off : Nat) (s : State) : State :=
  if s.port.up && s.port.ideIo != 2 then
    (s.modFn (if s.fnExists fn then fn else 0) fun g => { g with aer := g.aer ||| aerUnsupported }).setReply .unsupported
  else s

/-! ## Link encryption (R362, R363) -/

def streamNo : IdeStream → Nat
  | .io => 0
  | .cachemem => 1

/-- The state of a stream: 0 off, 1 secure, 2 insecure (R365). -/
def Port.ide (o : Port) (n : Nat) : Nat := if n = 0 then o.ideIo else o.ideCm

def Port.setIde (o : Port) (n v : Nat) : Port := if n = 0 then { o with ideIo := v } else { o with ideCm := v }

/-- IDE_INTEGRITY_FAIL: a check fails on a secure stream (R363), with injection 0x0701. -/
def ideIntegrityFail (stream : IdeStream) (s : State) : State :=
  let n := streamNo stream
  if !s.port.up || s.port.ide n ≠ 1 then s else
  let (o, s1) := s.opportunity 0x0701 fun a => a.onModule && fld a.param 0 0 == n
  let s2 := s1.setPort (s1.port.setIde n 2)
  if s2.running then s2.emit [16] (unitEvent s2 .ideFail 0 0xF 0xC n 0 0 o.isSome) (ideKey n) true else s2

def execHostLinkTrained (width rate : Nat) (flit256 lopt : Bool) (s : State) : Host.Outcome State Fault Refusal :=
  .next (hostLinkTrained width rate flit256 lopt s)
def execHdmDecoderCommit (idx base size : Nat) (s : State) : Host.Outcome State Fault Refusal :=
  .next (hdmDecoderCommit idx base size s)
def execHdmRead (dpa : Nat) (s : State) : Host.Outcome State Fault Refusal := .next (hdmRead dpa s)
def execHdmWrite (dpa : Nat) (data : List Byte) (s : State) : Host.Outcome State Fault Refusal := .next (hdmWrite dpa data s)
def execRestWakeEnd (s : State) : Host.Outcome State Fault Refusal := .next (wakeEnd s)
def execBisnpResponse (line : Nat) (dirty : Option (List Byte)) (s : State) : Host.Outcome State Fault Refusal :=
  .next (bisnpResponse line dirty s)
def execBiTimeout (line : Nat) (s : State) : Host.Outcome State Fault Refusal := .next (biTimeout line s)
def execHostSnoop (line : Nat) (s : State) : Host.Outcome State Fault Refusal := .next (hostSnoop line s)
def execAtsTranslationRefused (use : AtsUse) (s : State) : Host.Outcome State Fault Refusal :=
  .next (atsTranslationRefused use s)
def execUnsupportedRequest (fn off : Nat) (s : State) : Host.Outcome State Fault Refusal := .next (unsupportedRequest fn off s)
def execIdeIntegrityFail (stream : IdeStream) (s : State) : Host.Outcome State Fault Refusal :=
  .next (ideIntegrityFail stream s)

end Sys2Proof.Machine
end

