-- ==== Sys2Proof/Machine/Regs.lean ====
section
/-! DEFINITION. Regs.lean: what the registers of BAR0 read (R6, R115, R198, R282, R283, R316 to R318, R338, R344, R345,
R363 to R374, R404, R445, R468, R469, R474, R508 to R511, R524). Every one is computed from the state. -/

namespace Sys2Proof.Machine

/-- Fields of a register: value and lowest bit. -/
def pack (l : List (Nat × Nat)) : Nat := l.foldl (fun x f => x ||| f.1 <<< f.2) 0

/-! ## Hub and host port -/

def State.hubIdent (s : State) : Nat := pack [(s.partCode, 0), (stepping, 8), (s.slabCount, 16), (3 * s.slabCount, 20), (1, 28)]

def Port.linkStat (o : Port) : Nat :=
  pack [(boolNat o.up, 0), (boolNat o.cxl, 1), (boolNat o.flit256, 2), (boolNat o.lopt, 3), (o.width % 8, 4), (o.rate % 8, 8),
    (o.ideIo % 4, 12), (o.ideCm % 4, 14), (o.retrains, 32)]

def State.fnStat (s : State) (fn : Nat) : Nat :=
  let g := s.fn fn
  pack [(fn % 16, 0), (boolNat (fn == 0), 4), (boolNat g.bme, 5), (boolNat g.msix, 6), (boolNat (s.hdmOpen fn), 7),
    (boolNat (s.part fn).session.isSome, 8)]

def Port.sfStat (o : Port) : Nat :=
  pack [(o.snoop.length, 0), (boolNat (decide (snoopLines ≤ o.snoop.length)), 20), (o.bisnp, 32)]

def Startup.stat (u : Startup) : Nat :=
  pack [(u.step % 8, 0), (boolNat u.done, 4), (boolNat u.failed, 5), (if u.failed then u.code else 0, 8), (u.elapsed, 32)]

/-! ## Mailboxes, interrupts, rings -/

def State.inRestBit (s : State) : Bool := decide (s.hub.rest ≠ .awake)

def State.mbxStat (s : State) (fn : Nat) : Nat :=
  pack [(s.inflight fn, 0), (boolNat s.hub.service, 9), (boolNat s.inRestBit, 10), (boolNat (s.alarmBit fn), 11),
    (boolNat s.hub.stop.isSome, 12), ((s.hub.stop.map fun x => x.code.code).getD 0, 16)]

def Fn.mbx (g : Fn) (off : Nat) : Nat :=
  match off with
  | 0x1000 => g.cqAddr * 64
  | 0x1008 => pack [(boolNat g.en, 0), (g.log2n % 32, 1)]
  | 0x1010 => g.head
  | 0x1018 => g.tail
  | _ => 0

/-- A MSI-X table entry's half: address, then data and vector control. -/
def Fn.vecHalf (g : Fn) (i half : Nat) : Nat :=
  let e := g.vec i
  if half = 0 then e.addr else pack [(e.data, 0), (boolNat e.masked, 32)]

def slotStateCode : SlotState → Nat
  | .free => 0 | .owned => 1 | .accepted => 2 | .refused => 3

/-- The bits of a header byte that are not reserved (R17, R374): of the first word all but [23:18] and [31], and above the
tag those of SEQ, STATUS, STATE and SEAL. -/
def headerMask (i : Nat) : Byte :=
  if i = 2 then 0x03 else if i = 3 then 0x7F else if i < 8 then 0xFF else 0

/-- The bytes of a slot as the host reads them: SEAL and the reserved bits of the header read 0 (R17, R374). -/
def Slot.readByte (b : Slot) (i : Nat) : Byte :=
  if 8 ≤ i && i < 16 then BitVec.ofNat 8 (b.seq / 256 ^ (i - 8))
  else if 16 ≤ i && i < 18 then BitVec.ofNat 8 (b.status.code / 256 ^ (i - 16))
  else if i = 18 then BitVec.ofNat 8 (slotStateCode b.state)
  else if i < 32 then Memory.get b.area i &&& headerMask i
  else Memory.get b.area i

def State.ringReg (s : State) (r off : Nat) : Nat :=
  let g := s.ring r
  match off with
  | 0x00 => pack [(boolNat g.isSet, 0), (g.log2n % 32, 1), (g.vector % 128, 7), (boolNat (g.classes.any fun x => decide (0 < x.drops)), 16),
      ((s.viewAlarms r).length % 65536, 32)]
  | 0x08 => g.head
  | 0x10 => g.tail
  | 0x18 => ((s.viewAlarms r).head?.map fun a => a.code.code).getD 0
  | _ => 0

/-! ## Slab blocks -/

/-- The contexts that hold physical slots of a slab: partition, first slot, the context's slots there. -/
def State.slotHolders (s : State) (k : Nat) : List (Nat × Nat × List AccSlot) :=
  (List.range 16).flatMap fun p => ((s.part p).ctxs.filter Ctx.holds).filterMap fun c =>
    (c.onSlab? k).map fun d => (p, s.slotBase p c.num k, d.slots)

/-- The holder of physical slot j: its partition and the slot. -/
def State.slotOwner (s : State) (k j : Nat) : Option (Nat × AccSlot) :=
  (s.slotHolders k).findSome? fun h => if h.2.1 ≤ j then (h.2.2[j - h.2.1]?).map fun x => (h.1, x) else none

def State.accOwner (s : State) (k : Nat) : Nat :=
  (List.range 8).foldl (fun x j => x + (match s.slotOwner k j with | some o => (o.1 + 128) * 256 ^ j | none => 0)) 0

def State.accSat (s : State) (k : Nat) : Nat :=
  (List.range 8).foldl (fun x j => x + (match s.slotOwner k j with | some o => boolNat o.2.sat * 2 ^ j | none => 0)) 0

def State.vecCfg (s : State) (k : Nat) : Nat :=
  let owner := (s.slab k).owner
  let p := (owner.bind fun q => (s.slab k).live.find? fun l => l.seq == q).map Live.part
  pack [(boolNat (!s.hub.service), 0), (boolNat owner.isSome, 1), (p.getD 0 % 16, 8)]

def State.hbmCap (s : State) (k : Nat) : Nat :=
  let granted := sumBy (s.parts.filter Part.live) fun x => x.quotaOn k Quota.frames
  pack [((s.slab k).frames, 0), ((s.slab k).frames - granted, 20)]

def State.spadStat (s : State) (k : Nat) : Nat :=
  let used := sumBy s.parts fun x => x.quotaOn k Quota.spad + x.quotaOn k Quota.hot
  pack [(1024 - used, 0), ((s.slab k).spadCorrected, 32)]

/-- HF_LINK_STAT (R282). -/
def State.linkStat (s : State) (k t : Nat) : Nat :=
  let l := s.link k t
  pack [(boolNat l.up, 0), (boolNat (l.degraded.any id), 1), (maxNat l.spares % 4, 2),
    (if l.up then (if t = k then 15 else t) else 0, 8), (l.replays, 32)]

def State.gqStat (s : State) (k p : Nat) : Nat :=
  let q := nth (s.slab k).gqs p
  match q.bound with
  | none => 0
  | some (part, ctx, lidx) =>
    match (s.ctx? part ctx).bind fun c => c.groups.find? fun g => g.lidx == lidx with
    | none => 0
    | some g =>
      let waiting := match q.entries.head? with | some e => e.started && !e.met | none => false
      pack [(1, 0), (lidx, 4), (part, 8), (g.members.findIdx (fun m => m == k), 12), (g.members.length - 1, 16), (g.chunks, 19),
        (g.gshare, 24), (q.entries.length, 32), (boolNat waiting, 35)]

def Stack.stat (t : Stack) : Nat := pack [(t.temp % 256, 0), (t.level, 8), (t.repaired, 16), (t.corrected, 32)]

def State.partQuota (s : State) (k p : Nat) : Nat :=
  let x := s.part p
  if x.live && bitOf x.q.mask k then
    pack [(1, 0), (x.slotBase.getD k 0, 4), (x.q.slots, 8), (x.q.hbm, 12), (x.q.fab, 20), (x.q.spad, 28), (x.q.hot, 39),
      ((x.ctxs.filter fun c => decide (c.st = .resident) && c.holds && c.slabs.contains k && decide (0 < c.slots)).length, 50)]
  else 0

/-- A register of a slab block, as 64 bits. -/
def State.slabReg (s : State) (k off : Nat) : Nat :=
  if s.slabCount ≤ k then 0
  else if off = 0x40 then pack [(nth s.hub.fuse.spareRows k, 0), (nth s.hub.fuse.spareCols k, 4)]
  else if off = 0x48 then s.accOwner k
  else if off = 0x50 then s.accSat k
  else if off = 0x58 then s.vecCfg k
  else if off = 0x60 then s.hbmCap k
  else if off = 0x68 then s.spadStat k
  else if 0x100 ≤ off && off < 0x140 then s.linkStat k ((off - 0x100) / 8)
  else if 0x180 ≤ off && off < 0x200 then s.gqStat k ((off - 0x180) / 8)
  else if 0x200 ≤ off && off < 0x218 then (nth (s.slab k).hbm ((off - 0x200) / 8)).stat
  else if 0x300 ≤ off && off < 0x380 then s.partQuota k ((off - 0x300) / 8)
  else 0

/-! ## Geode, codec, power -/

def State.geoReg (s : State) (off : Nat) : Nat :=
  if off = 0 then
    pack [(boolNat s.geode.debug, 0), (boolNat s.geode.entOk, 1), (s.hub.fuse.svn.val, 8), (s.hub.svnFw.val, 16),
      (listMask ((List.range 16).filter fun p => (s.part p).session.isSome), 24)]
  else if 0x20 ≤ off && off < 0x40 then s.geode.chal.toNat / 2 ^ (8 * (off - 0x20)) % 2 ^ 64
  else 0

def Core.stat (c : Core) : Nat :=
  pack [(boolNat (c.holder != 0), 0), (boolNat c.running, 1), (if c.holder = 0 then 0 else c.part, 4), (c.marked, 16), (c.frames, 32)]

def State.pwrReg (s : State) (off : Nat) : Nat :=
  let p := s.power
  if off = 0 then
    pack [(p.vin % 65536, 0), (p.draw % 65536, 16), (boolNat (p.limited != 0), 32), (boolNat s.inRestBit, 33),
      (boolNat (p.domains.any fun d => d.fallback), 34), (boolNat (p.domains.any fun d => d.recal.isSome), 35),
      (maxNat p.tj % 256, 40)]
  else if 0x100 ≤ off && off < 0x140 then
    let k := (off - 0x100) / 8
    let d := nth p.domains k
    pack [(nth p.tj k % 256, 0), (boolNat (nth p.limitPower k), 8), (boolNat (nth p.limitTherm k), 9), (boolNat d.fallback, 10),
      (d.capture % 65536, 16), (d.load % 65536, 32)]
  else if 0x200 ≤ off && off < 0x2C0 then
    let d := nth p.domains (8 + (off - 0x200) / 8)
    pack [(d.capture % 256, 0), (d.load % 256, 8), (boolNat d.fallback, 16)]
  else 0

/-! ## BAR0 -/

/-- The first page of BAR0 (R344). -/
def State.page0 (s : State) (fn off : Nat) : Nat :=
  if off = 0 then s.hubIdent
  else if off = 0x10 then s.fnStat fn
  else if fn ≠ 0 then 0
  else if off = 0x08 then s.port.linkStat
  else if off = 0x18 then s.port.sfStat
  else if off = 0x20 then s.hub.startup.stat
  else 0

/-- The 64 bits at an offset of a function's BAR0 that is a multiple of 8 (R344). -/
def State.bar64 (s : State) (fn off : Nat) : Nat :=
  let g := s.fn fn
  if off < 0x1000 then s.page0 fn off
  else if off < 0x2000 then (if off = 0x1020 then s.mbxStat fn else g.mbx off)
  else if off < 0x2800 then g.vecHalf ((off - 0x2000) / 16) (off / 8 % 2)
  else if off = 0x3000 || off = 0x3008 then listMask ((g.pba.filter fun v => v / 64 == off / 8 % 2).map fun v => v % 64)
  else if 0x10000 ≤ off && off < 0x20000 then
    leNat ((List.range 8).map fun i => (g.slot ((off - 0x10000) / 256)).readByte (off % 256 + i))
  else if 0x20000 ≤ off && off < 0x20020 then s.ringReg fn (off - 0x20000)
  else if fn ≠ 0 then 0
  else if 0x20100 ≤ off && off < 0x20120 then s.ringReg 16 (off - 0x20100)
  else if 0x100000 ≤ off && off < 0x180000 then s.slabReg ((off - 0x100000) / 0x10000) (off % 0x10000)
  else if 0x200000 ≤ off && off < 0x210000 then s.geoReg (off - 0x200000)
  else if 0x210000 ≤ off && off < 0x210040 then (nth s.codec.cores ((off - 0x210000) / 8)).stat
  else if 0x220000 ≤ off && off < 0x230000 then s.pwrReg (off - 0x220000)
  else 0

/-- A read of BAR0 of a function is answered with register contents at this offset (R338, R342, R364, R522). -/
def State.barReads (s : State) (fn off : Nat) : Bool :=
  s.configOpen && s.fnAnswers fn &&
    (if !s.port.cxl then fn == 0 && decide (off < 0x1000) else s.hub.stop.isNone || decide (off < 0x1000))

/-- A read of `n` bytes at an offset of a function's BAR0 (R345). -/
def State.readBar (s : State) (fn off n : Nat) : Nat :=
  if regAccess off n && s.barReads fn off then s.bar64 fn (off / 8 * 8) / 2 ^ (8 * (off % 8)) % 2 ^ (8 * n) else 0

end Sys2Proof.Machine
end

