-- ==== Sys2Proof/Machine/Mgmt.lean ====
section
/-! DEFINITION. Mgmt.lean: the messages of the management endpoint (R487, R489, R520). -/

namespace Sys2Proof.Machine

/-- The endpoint answers while the hub is supplied: stopped, in PCIe-only mode and held in MOD_RST# too (R489). -/
def State.mgmtUp (s : State) : Bool := decide (s.hub.power ≠ .off)

/-- GET_STATE (R489). -/
def getState (s : State) : State :=
  if !s.mgmtUp then s else
  let al := s.viewAlarms 16
  s.setReply (.state s.hubIdent s.hub.stop.isSome ((s.hub.stop.map fun x => x.code.code).getD 0) s.hub.service s.inRestBit
    (s.port.linkStat % 2 ^ 16) al.length ((al.take 8).map fun a => a.code.code))

/-- GET_THERMAL (R489): every stack of the part, and the hottest junction reading. -/
def getThermal (s : State) : State :=
  if !s.mgmtUp then s else
  let t := (List.range (3 * s.slabCount)).map fun k =>
    let x := nth (s.slab (k / 3)).hbm (k % 3)
    (x.temp, x.level)
  s.setReply (.thermal t (maxNat s.power.tj))

/-- ALARM_ACK of the management endpoint acts on the module view (R481, R489). -/
def mgmtAlarmAck (code : Nat) (s : State) : State :=
  if !s.mgmtUp then s
  else if s.talus.canAck [16] code then (s.setTalus (s.talus.ackIn [16] code)).setReply (.acked true)
  else s.setReply (.acked false)

/-- INJECT_ARM (R487): a start-up point, while MOD_RST# is asserted; an arming of the same point is replaced. -/
def injectArm (point param : Nat) (s : State) : State :=
  if !s.mgmtUp then s
  else if s.hub.pins.modRst && isStartPoint point then
    (s.setTalus { s.talus with startup := (s.talus.startup.filter fun a => a.1 != point) ++ [(point, param)] }).setReply (.acked true)
  else s.setReply (.acked false)

/-- Bytes of the staging area of an image: 0 the Steward firmware, 1 the slab microcode (R520). -/
def stageSize (image : Nat) : Nat := if image = 0 then 4 * 2 ^ 20 else 2 ^ 20

def State.modStaged (s : State) (image : Nat) (f : Staged → Staged) : State :=
  s.setHub { s.hub with staged := modAt s.hub.staged image f }

/-- IMAGE_STAGE (R520). -/
def imageStage (image off : Nat) (data : List Byte) (s : State) : State :=
  if !s.mgmtUp then s
  else if s.hub.pins.modRst && decide (image < 2) && decide (data.length ≤ 64) && decide (off + data.length ≤ stageSize image) then
    (s.modStaged image fun g => { g with bytes := Memory.write g.bytes off data }).setReply (.acked true)
  else s.setReply (.acked false)

/-- IMAGE_SEAL (R520). -/
def imageSeal (image len : Nat) (s : State) : State :=
  if !s.mgmtUp then s
  else if s.hub.pins.modRst && decide (image < 2) && decide (len ≤ stageSize image) then
    (s.modStaged image fun g => { g with complete := some len }).setReply (.acked true)
  else s.setReply (.acked false)

/-- IMAGE_DISCARD (R520). -/
def imageDiscard (s : State) : State :=
  if !s.mgmtUp then s
  else if s.hub.pins.modRst then
    (s.setHub { s.hub with staged := [{ bytes := [], complete := none }, { bytes := [], complete := none }] }).setReply (.acked true)
  else s.setReply (.acked false)

def execGetState (s : State) : Host.Outcome State Fault Refusal := .next (getState s)
def execGetThermal (s : State) : Host.Outcome State Fault Refusal := .next (getThermal s)
def execMgmtAlarmAck (code : Nat) (s : State) : Host.Outcome State Fault Refusal := .next (mgmtAlarmAck code s)
def execInjectArm (point param : Nat) (s : State) : Host.Outcome State Fault Refusal := .next (injectArm point param s)
def execImageStage (image off : Nat) (data : List Byte) (s : State) : Host.Outcome State Fault Refusal :=
  .next (imageStage image off data s)
def execImageSeal (image len : Nat) (s : State) : Host.Outcome State Fault Refusal := .next (imageSeal image len s)
def execImageDiscard (s : State) : Host.Outcome State Fault Refusal := .next (imageDiscard s)

end Sys2Proof.Machine
end

