-- ==== Sys2Proof/Machine/Spdm.lean ====
section
/-! DEFINITION. Spdm.lean: the SPDM 1.3 responder (R362, R450, R466). The contents of its messages and its key schedule
are those of the published standard; the model keeps the parts that R466 lays down, over the uninterpreted functions of
Config (log 21). -/

namespace Sys2Proof.Machine

def transportNo : Transport → Nat
  | .doe => 0
  | .mctp => 1

/-- The responder answers: the module works, and for DOE configuration space is open (R466). -/
def State.spdmUp (s : State) (t : Transport) : Bool :=
  s.running && (match t with | .doe => s.configOpen | .mctp => true)

def State.spdm (s : State) (t : Transport) : Spdm := nth s.geode.spdm (transportNo t)

def State.putSpdm (s : State) (t : Transport) (x : Spdm) : State :=
  s.setGeode { s.geode with spdm := modAt s.geode.spdm (transportNo t) fun _ => x }

/-- Bytes that one response can carry; what is longer is fetched with CHUNK_GET (R466). -/
def spdmPiece : Nat := Nat.max 42 Config.spdmTransfer

/-- Answer with a named response: it joins the transcript; a large one is held for CHUNK_GET. Every response carries the
DEBUG flag (R467), which stands last here (log 21). -/
def State.spdmAnswer (s : State) (t : Transport) (what : String) (body : List (List Byte)) : State :=
  let x := s.spdm t
  let body := body ++ [toLe 1 (boolNat s.geode.debug)]
  let bytes := body.flatten
  if bytes.length ≤ spdmPiece then
    (s.putSpdm t { x with transcript := x.transcript ++ bytes, chunks := [] }).setReply (.spdm what body)
  else
    (s.putSpdm t { x with transcript := x.transcript ++ bytes, chunks := bytes }).setReply (.spdm "LARGE_RESPONSE" [])

def State.spdmRefuse (s : State) : State := s.setReply .spdmError

/-- An SPDM request, answered where the responder is up and the request is in order. -/
def State.spdmOn (s : State) (t : Transport) (ok : Spdm → Bool) (act : State → State) : State :=
  if !s.spdmUp t then s else if ok (s.spdm t) then act s else s.spdmRefuse

/-- A signature by the slot 0 key, or by the debug key, over the transcript and a response, with the DEBUG flag
(R450, R467). -/
def State.spdmSign (s : State) (t : Transport) (body : List Byte) : List Byte :=
  s.geode.signed ((s.spdm t).transcript ++ body ++ toLe 1 (boolNat s.geode.debug))

/-- GET_VERSION: SPDM 1.3; what was negotiated on the transport is gone. -/
def getVersion (t : Transport) (s : State) : State :=
  s.spdmOn t (fun _ => true) fun s =>
    (s.putSpdm t { Spdm.reset with version := true }).spdmAnswer t "VERSION" [toLe 1 0x13]

/-- The capability flags of the standard for what R466 supports: CERT, CHAL, MEAS with signature, CHUNK; over DOE, where
secured sessions are, ENCRYPT, MAC, KEY_EX, HBEAT and KEY_UPD too (log 21). -/
def spdmFlags (t : Transport) : Nat :=
  listMask [1, 2, 4, 17] + match t with | .doe => listMask [6, 7, 9, 13, 14] | .mctp => 0

/-- GET_CAPABILITIES: the flags and the bytes of one message. -/
def getCapabilities (t : Transport) (s : State) : State :=
  s.spdmOn t (fun x => x.version && x.session == 0) fun s =>
    (s.putSpdm t { s.spdm t with caps := true }).spdmAnswer t "CAPABILITIES" [toLe 4 (spdmFlags t), toLe 4 spdmPiece]

/-- An algorithm named by registry and number (R466). -/
def extAlg (id : Nat) : List Byte := toLe 1 0x03 ++ toLe 1 0 ++ toLe 2 id

/-- NEGOTIATE_ALGORITHMS: SHA3-512, ML-DSA-87, ML-KEM-1024 and AES-256-GCM, each selected if the requester offers it:
ML-DSA-87 and ML-KEM-1024 by Registry ID 0x03 and their Algorithm IDs (R466), the hash and AEAD by the standard's bits (log
21). -/
def negotiateAlgorithms (t : Transport) (sha3 mldsa mlkem gcm : Bool) (s : State) : State :=
  s.spdmOn t (fun x => x.caps && x.session == 0) fun s =>
    (s.putSpdm t { s.spdm t with algs := sha3 && mldsa && mlkem && gcm }).spdmAnswer t "ALGORITHMS"
      [toLe 4 (if sha3 then 0x20 else 0), if mldsa then extAlg 0x1F01 else [], if mlkem then extAlg 0x1F02 else [],
       toLe 2 (if gcm then 2 else 0)]

/-- GET_DIGESTS: the chain of slot 0. -/
def getDigests (t : Transport) (s : State) : State :=
  s.spdmOn t (fun x => x.algs) fun s => s.spdmAnswer t "DIGESTS" [digest s.certChain]

/-- GET_CERTIFICATE: a portion of the chain of slot 0 (R450). -/
def getCertificate (t : Transport) (slot off len : Nat) (s : State) : State :=
  s.spdmOn t (fun x => x.algs && slot == 0 && decide (off < s.certChain.length)) fun s =>
    let n := Nat.min len (s.certChain.length - off)
    s.spdmAnswer t "CERTIFICATE" [(s.certChain.drop off).take n, toLe 4 (s.certChain.length - off - n)]

/-- Digests of the module and its configuration (R452, R453, R466). -/
def State.measureBlock (s : State) (i : Nat) : Option (List Byte) :=
  if i = 1 then some (digest Config.bedrock)
  else if i = 2 then some (bytesAt s.hub.mFw 0 64)
  else if i = 3 then some (bytesAt s.hub.mUcode 0 64)
  else if i = 4 then some (digest (s.configRecord 0))
  else if i = 5 then some (toLe 1 s.hub.svnFw.val ++ toLe 1 s.hub.fuse.svn.val)
  else if 0x10 ≤ i && i < 0x20 then
    some (if (s.part (i - 0x10)).live then digest (s.reportBody (i - 0x10) 0 (List.replicate 32 0) []) else List.replicate 64 0)
  else none

/-- The indices of the measurement blocks. -/
def measureIndices : List Nat := [1, 2, 3, 4, 5] ++ (List.range 16).map fun p => 0x10 + p

def State.entropyBytes (s : State) (n : Nat) : List Byte × State :=
  (toLe n (Config.entropy s.geode.draws).toNat, s.entropyDraw.2)

/-- CHALLENGE of slot 0: CHALLENGE_AUTH with the chain's digest, a nonce, the measurements' digest and a signature. -/
def challenge (t : Transport) (slot : Nat) (nonce : List Byte) (s : State) : State :=
  s.spdmOn t (fun x => x.algs && slot == 0) fun s =>
    let (own, s1) := s.entropyBytes 32
    let all := (measureIndices.filterMap s1.measureBlock).flatten
    let body := digest s.certChain ++ own ++ digest all
    s1.spdmAnswer t "CHALLENGE_AUTH" [digest s.certChain, own, digest all, s1.spdmSign t (bytesAt nonce 0 32 ++ body)]

/-- GET_MEASUREMENTS: 0 the number of blocks, 0xFF every block, else one; signed (R450, R466). -/
def getMeasurements (t : Transport) (index : Nat) (nonce : List Byte) (s : State) : State :=
  s.spdmOn t (fun x => x.algs && (index == 0 || index == 0xFF || (s.measureBlock index).isSome)) fun s =>
    let (own, s1) := s.entropyBytes 32
    let blocks := if index = 0 then [toLe 1 measureIndices.length]
      else if index = 0xFF then measureIndices.filterMap fun i => (s1.measureBlock i).map fun b => toLe 1 i ++ b
      else [(s1.measureBlock index).getD []]
    s1.spdmAnswer t "MEASUREMENTS" (blocks ++ [own, s1.spdmSign t (bytesAt nonce 0 32 ++ blocks.flatten ++ own)])

/-- KEY_EXCHANGE: the requester's encapsulation key, answered with the ciphertext; the shared secret takes the place of
the DHE secret. Secured sessions are over DOE (R466). -/
def keyExchange (t : Transport) (ek : List Byte) (s : State) : State :=
  s.spdmOn t (fun x => decide (t = .doe) && x.algs && x.session == 0 && ek.length == 1568) fun s =>
    let (d, s1) := s.entropyDraw
    let (own, s2) := s1.entropyBytes 32
    let (ct, ss) := Config.kemEncaps ek d
    let sig := s2.spdmSign t (ek ++ bytesAt ct 0 1568 ++ own)
    let x := s2.spdm t
    let secret := Config.spdmKeys (bytesAt ss 0 32) (x.transcript ++ ek ++ bytesAt ct 0 1568)
    (s2.putSpdm t { x with session := 1, secret := secret }).spdmAnswer t "KEY_EXCHANGE_RSP"
      [bytesAt ct 0 1568, own, sig, Config.spdmMac secret (x.transcript ++ ek ++ bytesAt ct 0 1568)]

/-- FINISH: the requester's code over the transcript completes the handshake; a wrong one ends it. -/
def finish (t : Transport) (mac : List Byte) (s : State) : State :=
  s.spdmOn t (fun x => x.session == 1) fun s =>
    let x := s.spdm t
    if mac = Config.spdmMac x.secret x.transcript then
      (s.putSpdm t { x with session := 2, secret := Config.spdmKeys x.secret x.transcript }).spdmAnswer t "FINISH_RSP" []
    else (s.putSpdm t { x with session := 0, secret := [] }).spdmRefuse

/-- HEARTBEAT of a secured session. -/
def heartbeat (t : Transport) (s : State) : State :=
  s.spdmOn t (fun x => x.session == 2) fun s => s.spdmAnswer t "HEARTBEAT_ACK" []

/-- KEY_UPDATE: the requester's keys, or all. -/
def keyUpdate (t : Transport) (all : Bool) (s : State) : State :=
  s.spdmOn t (fun x => x.session == 2) fun s =>
    let x := s.spdm t
    (s.putSpdm t { x with secret := Config.spdmKeys x.secret (toLe 1 (boolNat all)) }).spdmAnswer t "KEY_UPDATE_ACK" []

/-- END_SESSION. -/
def endSession (t : Transport) (s : State) : State :=
  s.spdmOn t (fun x => x.session == 2) fun s =>
    (s.putSpdm t { s.spdm t with session := 0, secret := [] }).spdmAnswer t "END_SESSION_ACK" []

/-- CHUNK_GET: a piece of the large response that is held. -/
def chunkGet (t : Transport) (index : Nat) (s : State) : State :=
  s.spdmOn t (fun x => decide (index * spdmPiece < x.chunks.length)) fun s =>
    s.setReply (.spdm "CHUNK_RESPONSE" [((s.spdm t).chunks.drop (index * spdmPiece)).take spdmPiece])

/-- VENDOR_DEFINED_REQUEST for IDE_KM: in a secured session over DOE it keys a stream, which is then secure
(R362, R363, R466). -/
def vendorDefinedRequest (t : Transport) (stream : IdeStream) (key : List Byte) (s : State) : State :=
  s.spdmOn t (fun x => x.session == 2 && decide (t = .doe) && key.length == 32) fun s =>
    let p := s.port.setIde (streamNo stream) 1
    (s.setPort (match stream with
      | .io => { p with keyIo := key }
      | .cachemem => { p with keyCm := key })).spdmAnswer t "VENDOR_DEFINED_RESPONSE" []

def execGetVersion (t : Transport) (s : State) : Host.Outcome State Fault Refusal := .next (getVersion t s)
def execGetCapabilities (t : Transport) (s : State) : Host.Outcome State Fault Refusal := .next (getCapabilities t s)
def execNegotiateAlgorithms (t : Transport) (sha3 mldsa mlkem gcm : Bool) (s : State) : Host.Outcome State Fault Refusal :=
  .next (negotiateAlgorithms t sha3 mldsa mlkem gcm s)
def execGetDigests (t : Transport) (s : State) : Host.Outcome State Fault Refusal := .next (getDigests t s)
def execGetCertificate (t : Transport) (slot off len : Nat) (s : State) : Host.Outcome State Fault Refusal :=
  .next (getCertificate t slot off len s)
def execChallenge (t : Transport) (slot : Nat) (nonce : List Byte) (s : State) : Host.Outcome State Fault Refusal :=
  .next (challenge t slot nonce s)
def execGetMeasurements (t : Transport) (index : Nat) (nonce : List Byte) (s : State) : Host.Outcome State Fault Refusal :=
  .next (getMeasurements t index nonce s)
def execKeyExchange (t : Transport) (ek : List Byte) (s : State) : Host.Outcome State Fault Refusal := .next (keyExchange t ek s)
def execFinish (t : Transport) (mac : List Byte) (s : State) : Host.Outcome State Fault Refusal := .next (finish t mac s)
def execHeartbeat (t : Transport) (s : State) : Host.Outcome State Fault Refusal := .next (heartbeat t s)
def execKeyUpdate (t : Transport) (all : Bool) (s : State) : Host.Outcome State Fault Refusal := .next (keyUpdate t all s)
def execEndSession (t : Transport) (s : State) : Host.Outcome State Fault Refusal := .next (endSession t s)
def execChunkGet (t : Transport) (index : Nat) (s : State) : Host.Outcome State Fault Refusal := .next (chunkGet t index s)
def execVendorDefinedRequest (t : Transport) (stream : IdeStream) (key : List Byte) (s : State) :
    Host.Outcome State Fault Refusal := .next (vendorDefinedRequest t stream key s)

end Sys2Proof.Machine
end

