-- ==== Sys2Proof/Machine/VectorB.lean ====
section
/-! DEFINITION. VectorB.lean: the operations of vector B: special functions, compress, expand, permute, Gumbel noise,
crop-and-resize (R184 to R192, R201, R229 to R235, R249, R250). -/

namespace Sys2Proof.Machine

/-- An operation of each element of the SRC1 band alone. -/
def State.mapBand (s : State) (slab : Nat) (o : OpE) (f : Word → Res) : State :=
  let x := o.bits.toNat
  s.putBand slab o (vDst x) (((s.slab slab).band (vSrc1 x) (vN x)).toList.map f)

/-- A special function on a band, in the passage's mode (R188 to R192). -/
def State.specialBand (s : State) (slab : Nat) (o : OpE) (f : SFn) : State :=
  s.mapBand slab o (special f (s.serviceOf slab o))

def vbExpAct (s : State) (slab : Nat) (o : OpE) : State := s.specialBand slab o .exp
def vbLogAct (s : State) (slab : Nat) (o : OpE) : State := s.specialBand slab o .log
def vbRsqrtAct (s : State) (slab : Nat) (o : OpE) : State := s.specialBand slab o .rsqrt
def vbRcpAct (s : State) (slab : Nat) (o : OpE) : State := s.specialBand slab o .rcp
def vbSigmoidAct (s : State) (slab : Nat) (o : OpE) : State := s.specialBand slab o .sigmoid
def vbTanhAct (s : State) (slab : Nat) (o : OpE) : State := s.specialBand slab o .tanh
def vbGeluAct (s : State) (slab : Nat) (o : OpE) : State := s.specialBand slab o .gelu
def vbSiluAct (s : State) (slab : Nat) (o : OpE) : State := s.specialBand slab o .silu
def vbSinAct (s : State) (slab : Nat) (o : OpE) : State := s.specialBand slab o .sin
def vbCosAct (s : State) (slab : Nat) (o : OpE) : State := s.specialBand slab o .cos

/-- VB_GUMBEL raises no flag (R249). -/
def vbGumbelAct (s : State) (slab : Nat) (o : OpE) : State := s.mapBand slab o fun x => (gumbel x, 0)

/-- An active mask element (R184). -/
def maskActive (x : Word) : Bool := x != 0 && x != 0x80000000#32

/-- Positions of the active elements of a mask band. -/
def activeAt (mask : List Word) : List Nat := (mask.zipIdx.filter fun p => maskActive p.1).map Prod.snd

/-- VB_COMPRESS (R185): its count is written to the count register when it ends (R170). -/
def vbCompressAct (s : State) (slab : Nat) (o : OpE) : State :=
  let x := o.bits.toNat
  let b := s.slab slab
  let a := b.band (vSrc1 x) (vN x)
  let pos := activeAt (b.band (vSrc2 x) (vN x)).toList
  let vs := pos.map fun e => if bitOf (vAux x) 0 then BitVec.ofNat 32 (e + vImm x * 1024) else a.getD e 0
  (s.putRegs slab (vDst x) (vs ++ List.replicate (1024 * vN x - vs.length) 0)).modStarted slab o.id fun p =>
    { p with ext := (pos.length, 0) }

/-- The elements of VB_EXPAND: at active positions the next source element, else +0 or the old one (R186). -/
def expandBand (keep : Bool) : List (Word × Word) → List Word → List Word
  | [], _ => []
  | (m, d) :: t, src =>
    if maskActive m then (match src with | x :: r => x :: expandBand keep t r | [] => 0 :: expandBand keep t [])
    else (if keep then d else 0) :: expandBand keep t src

/-- VB_EXPAND (R186). -/
def vbExpandAct (s : State) (slab : Nat) (o : OpE) : State :=
  let x := o.bits.toNat
  let b := s.slab slab
  s.putRegs slab (vDst x) (expandBand (bitOf (vAux x) 0)
    ((b.band (vSrc2 x) (vN x)).toList.zip (b.band (vDst x) (vN x)).toList) (b.band (vSrc1 x) (vN x)).toList)

/-- VB_PERMUTE transposes each register (R201). -/
def vbPermuteAct (s : State) (slab : Nat) (o : OpE) : State :=
  let x := o.bits.toNat
  let a := (s.slab slab).band (vSrc1 x) (vN x)
  s.putRegs slab (vDst x) ((bandElems (vN x)).map fun e => a.getD (1024 * e.1 + 32 * e.2.2 + e.2.1) 0)

/-! ## Crop-and-resize (R229 to R235) -/

/-- The operation's own fields (R229). -/
structure Crop where
  chans : Nat
  boxes : Nat
  fmt : Nat
  list : Nat
  oh : Nat
  ow : Nat
  deriving DecidableEq, Repr, Inhabited

def cropOf (x : Nat) : Crop :=
  { chans := 32 * (mReg x + 1), boxes := cropBoxes x, fmt := mFmt x, list := mAddr x * 64, oh := fld x 73 68 + 1
    ow := fld x 79 74 + 1 }

/-- Bytes of a box's source and output (R231). DESIGN CHOICE, log 58: with a PITCH above the row's width the source region
that R234 checks is the one span from its first byte to its last, the gaps between rows among it. -/
def Crop.srcBytes (k : Crop) (b : Box) : Nat :=
  if b.h = 0 || b.w = 0 then 0 else (b.h - 1) * b.pitch * 64 + b.w * k.chans * fmtBytes k.fmt
def Crop.outBytes (k : Crop) : Nat := k.oh * k.ow * k.chans * fmtBytes k.fmt

/-- The first check of R234 that a box fails. Regions come first. -/
def State.boxFails (s : State) (slab : Nat) (o : OpE) (k : Crop) (b : Box) : Option St :=
  let src := b.src * 64
  let dst := b.dst * 64
  if !s.readable o.part o.ctx o.seq slab src (k.srcBytes b) || !s.writable o.part o.ctx slab dst k.outBytes then some .vecRange
  else if b.h = 0 || b.w = 0 || decide (b.pitch * 64 < b.w * k.chans * fmtBytes k.fmt) || b.rsvd
      || overlaps dst k.outBytes src (k.srcBytes b) || overlaps dst k.outBytes k.list (64 * k.boxes) then some .cropDesc
  else none

/-- floor of a position, and the fraction left with its flags (R232: exact). The floor of an infinity lies outside every
map, and the infinity less its floor is a NaN made (R129). -/
def floorOf (y : Word) : Int × Res :=
  match valOf y with
  | .fin s m e =>
    let f : Int := if 0 ≤ e then signedMag s (m <<< e.toNat) else (signedMag s m).ediv (2 ^ (-e).toNat)
    let r := Val.sub (.fin s m e) (valOfInt f)
    (f, if r.isZero then (0, 0) else (BitVec.ofNat 32 (fp32.round r).1, 0))
  | .inf _ => (-2, nan32, flNan)
  | .nan => (-2, nan32, 0)

/-- lerp of R232. -/
def lerp (a b : Res) (f : Word) : Res :=
  if (valOf f).isZero then a else
  let d := fSub b.1 a.1
  let p := fMul f d.1
  let r := fAdd a.1 p.1
  (r.1, a.2 ||| b.2 ||| d.2 ||| p.2 ||| r.2)

/-- An output position along one axis: (e0 + (i + 0.5) * step) - 0.5, with its flags (R232). -/
def samplePos (e0 step : Word) (i : Nat) : Res :=
  let half := BitVec.ofNat 32 (fp32.round (.fin false (2 * i + 1) (-1))).1
  (((fMul half step).andThen fun v => fAdd e0 v)).andThen fun v => fSub v 0x3F000000#32

/-- p(y, x, c) of R232: a source element widened, or EXTRAP outside the map. -/
def Box.sample (b : Box) (k : Crop) (src : Array Byte) (y x : Int) (c : Nat) : Res :=
  if 0 ≤ y ∧ y < (b.h : Int) ∧ 0 ≤ x ∧ x < (b.w : Int) then
    let w := fmtBytes k.fmt
    let a := y.toNat * b.pitch * 64 + (x.toNat * k.chans + c) * w
    (widen (fmtOf k.fmt) (leNat ((List.range w).map fun i => src.getD (a + i) 0)), 0)
  else (widen bf16 b.extrap, 0)

/-- One sample of a box, before conversion (R232). -/
def Box.value (b : Box) (k : Crop) (src : Array Byte) (y x : Res) (c : Nat) : Res :=
  let fy := floorOf y.1
  let fx := floorOf x.1
  let row := fun yi =>
    lerp (b.sample k src yi fx.1 c) (if (valOf fx.2.1).isZero then (0, 0) else b.sample k src yi (fx.1 + 1) c) fx.2.1
  let top := row fy.1
  let v := if (valOf fy.2.1).isZero then top else lerp top (row (fy.1 + 1)) fy.2.1
  (v.1, v.2 ||| y.2 ||| x.2 ||| fy.2.2 ||| fx.2.2)

/-- sy and sx of a box (R232). -/
def Box.steps (b : Box) (k : Crop) : Res × Res :=
  ((fSub b.y1 b.y0).andThen fun v => fDiv v (BitVec.ofNat 32 (fp32.round (.fin false k.oh 0)).1),
    (fSub b.x1 b.x0).andThen fun v => fDiv v (BitVec.ofNat 32 (fp32.round (.fin false k.ow 0)).1))

/-- The corners and steps of a box are finite (R233). -/
def Box.finite (b : Box) (k : Crop) : Bool :=
  [b.y0, b.x0, b.y1, b.x1, (b.steps k).1.1, (b.steps k).2.1].all fin32

/-- Rows or columns of the map, `n` of them, that a position reads: its floor, and the next where its weight is not zero. -/
def axisReads (p : Word) (n : Nat) : List Nat :=
  let f := floorOf p
  ((if (valOf f.2.1).isZero then [f.1] else [f.1, f.1 + 1]).filter fun i => decide (0 ≤ i) && decide (i < (n : Int))).map Int.toNat

/-- The source bytes that a box reads: a neighbour of weight zero is never read (R232). -/
def Box.sources (b : Box) (k : Crop) : List (Nat × Nat) :=
  if !b.finite k then [] else
  (List.range k.oh).flatMap fun i => (List.range k.ow).flatMap fun j =>
    (axisReads (samplePos b.y0 (b.steps k).1.1 i).1 b.h).flatMap fun y =>
      (axisReads (samplePos b.x0 (b.steps k).2.1 j).1 b.w).map fun x =>
        (b.src * 64 + y * b.pitch * 64 + x * k.chans * fmtBytes k.fmt, k.chans * fmtBytes k.fmt)

/-- The output elements of a box, in order (R231 to R233). -/
def Box.results (b : Box) (k : Crop) (src : Array Byte) : List Res :=
  let st := b.steps k
  let n := k.oh * k.ow * k.chans
  if !b.finite k then List.replicate n (nan32, flNan ||| st.1.2 ||| st.2.2) else
  (List.range n).map fun e =>
    let y := samplePos b.y0 st.1.1 (e / k.chans / k.ow)
    let x := samplePos b.x0 st.2.1 (e / k.chans % k.ow)
    let v := b.value k src (y.1, y.2 ||| st.1.2) (x.1, x.2 ||| st.2.2) (e % k.chans)
    v

/-- The boxes of VB_CROP in list order (R234, R235). `m` gathers what they raise. -/
def State.cropBoxesFrom (s : State) (slab : Nat) (o : OpE) (k : Crop) (inj : Bool) : List Nat → Marks → State
  | [], m => s.mark slab o 3 m inj
  | i :: t, m =>
    let box := boxOf (leNat (s.opBytes slab o (k.list + 64 * i) 64))
    match s.eccShare o.part o.ctx o.seq slab [(k.list + 64 * i, 64)] with
    | (s1, some j) => (s1.mark slab o 3 m inj).contextFault o.part o.ctx (lineFault .spadUncorr slab o o.unit 0xFFFFFFFF j)
    | (s1, none) =>
      match s1.boxFails slab o k box with
      | some code => (s1.mark slab o 3 m inj).opFault slab o code i
      | none =>
        match s1.eccShare o.part o.ctx o.seq slab (box.sources k) with
        | (s2, some j) => (s2.mark slab o 3 m inj).contextFault o.part o.ctx (lineFault .spadUncorr slab o o.unit 0xFFFFFFFF j)
        | (s2, none) =>
          let c := codeRow k.fmt (withNan (inj && i == 0) (box.results k (s2.opBytes slab o (box.src * 64) (k.srcBytes box)).toArray))
          let w := fmtBytes k.fmt
          let s3 := s2.opWrite slab o (box.dst * 64) (c.codes.flatMap (toLe w))
          s3.cropBoxesFrom slab o k inj t
            (m.add (marksOf (c.flags.zipIdx.map fun f => (sharePos (box.dst * 64 + f.2 * w), f.1))))

/-- VB_CROP (R229 to R235). -/
def vbCropAct (s : State) (slab : Nat) (o : OpE) : State :=
  let k := cropOf o.bits.toNat
  let (inj, s1) := s.nanInjected o
  s1.cropBoxesFrom slab o k inj (List.range k.boxes) Marks.none

def execVbExp (slab : Nat) (s : State) : Host.Outcome State Fault Refusal := .next (fireRow 3 0x01 vbExpAct slab s)
def execVbLog (slab : Nat) (s : State) : Host.Outcome State Fault Refusal := .next (fireRow 3 0x02 vbLogAct slab s)
def execVbRsqrt (slab : Nat) (s : State) : Host.Outcome State Fault Refusal := .next (fireRow 3 0x03 vbRsqrtAct slab s)
def execVbRcp (slab : Nat) (s : State) : Host.Outcome State Fault Refusal := .next (fireRow 3 0x04 vbRcpAct slab s)
def execVbSigmoid (slab : Nat) (s : State) : Host.Outcome State Fault Refusal := .next (fireRow 3 0x05 vbSigmoidAct slab s)
def execVbTanh (slab : Nat) (s : State) : Host.Outcome State Fault Refusal := .next (fireRow 3 0x06 vbTanhAct slab s)
def execVbGelu (slab : Nat) (s : State) : Host.Outcome State Fault Refusal := .next (fireRow 3 0x07 vbGeluAct slab s)
def execVbSilu (slab : Nat) (s : State) : Host.Outcome State Fault Refusal := .next (fireRow 3 0x08 vbSiluAct slab s)
def execVbSin (slab : Nat) (s : State) : Host.Outcome State Fault Refusal := .next (fireRow 3 0x09 vbSinAct slab s)
def execVbCos (slab : Nat) (s : State) : Host.Outcome State Fault Refusal := .next (fireRow 3 0x0A vbCosAct slab s)
def execVbCompress (slab : Nat) (s : State) : Host.Outcome State Fault Refusal := .next (fireRow 3 0x10 vbCompressAct slab s)
def execVbExpand (slab : Nat) (s : State) : Host.Outcome State Fault Refusal := .next (fireRow 3 0x11 vbExpandAct slab s)
def execVbPermute (slab : Nat) (s : State) : Host.Outcome State Fault Refusal := .next (fireRow 3 0x12 vbPermuteAct slab s)
def execVbGumbel (slab : Nat) (s : State) : Host.Outcome State Fault Refusal := .next (fireRow 3 0x20 vbGumbelAct slab s)
def execVbCrop (slab : Nat) (s : State) : Host.Outcome State Fault Refusal := .next (fireRow 3 0x30 vbCropAct slab s)

end Sys2Proof.Machine
end

