-- ==== Sys2Proof/Machine/Dispatch.lean ====
section
/-! DEFINITION. Dispatch.lean: one arm per row of the opcode table, each one call of its meaning. -/

namespace Sys2Proof.Machine

def exec (i : Instr) (s : State) : Host.Outcome State Fault Refusal :=
  match i with
  | .statusGet fn k => Sys2Proof.Machine.execStatusGet fn k s
  | .serviceEnter fn k => Sys2Proof.Machine.execServiceEnter fn k s
  | .serviceModeSwitch => Sys2Proof.Machine.execServiceModeSwitch s
  | .restEnter fn k => Sys2Proof.Machine.execRestEnter fn k s
  | .restEntryEnd => Sys2Proof.Machine.execRestEntryEnd s
  | .restWakeEnd => Sys2Proof.Machine.execRestWakeEnd s
  | .partCreate fn k => Sys2Proof.Machine.execPartCreate fn k s
  | .partDestroy fn k => Sys2Proof.Machine.execPartDestroy fn k s
  | .partSet fn k => Sys2Proof.Machine.execPartSet fn k s
  | .ctxCreate fn k => Sys2Proof.Machine.execCtxCreate fn k s
  | .ctxDestroy fn k => Sys2Proof.Machine.execCtxDestroy fn k s
  | .ctxSave fn k => Sys2Proof.Machine.execCtxSave fn k s
  | .ctxRestore fn k => Sys2Proof.Machine.execCtxRestore fn k s
  | .modelLoad fn k => Sys2Proof.Machine.execModelLoad fn k s
  | .modelDrop fn k => Sys2Proof.Machine.execModelDrop fn k s
  | .modelPin fn k => Sys2Proof.Machine.execModelPin fn k s
  | .modelUnpin fn k => Sys2Proof.Machine.execModelUnpin fn k s
  | .quarryStat fn k => Sys2Proof.Machine.execQuarryStat fn k s
  | .regionCreate fn k => Sys2Proof.Machine.execRegionCreate fn k s
  | .regionDestroy fn k => Sys2Proof.Machine.execRegionDestroy fn k s
  | .regionMap fn k => Sys2Proof.Machine.execRegionMap fn k s
  | .regionUnmap fn k => Sys2Proof.Machine.execRegionUnmap fn k s
  | .progLoad fn k => Sys2Proof.Machine.execProgLoad fn k s
  | .runPassage fn k => Sys2Proof.Machine.execRunPassage fn k s
  | .fetch fn k => Sys2Proof.Machine.execFetch fn k s
  | .resultDrop fn k => Sys2Proof.Machine.execResultDrop fn k s
  | .groupCreate fn k => Sys2Proof.Machine.execGroupCreate fn k s
  | .groupDestroy fn k => Sys2Proof.Machine.execGroupDestroy fn k s
  | .copy fn k => Sys2Proof.Machine.execCopy fn k s
  | .fill fn k => Sys2Proof.Machine.execFill fn k s
  | .codecOpen fn k => Sys2Proof.Machine.execCodecOpen fn k s
  | .codecClose fn k => Sys2Proof.Machine.execCodecClose fn k s
  | .codecEncode fn k => Sys2Proof.Machine.execCodecEncode fn k s
  | .codecDecode fn k => Sys2Proof.Machine.execCodecDecode fn k s
  | .attest fn k => Sys2Proof.Machine.execAttest fn k s
  | .sessionOpen fn k => Sys2Proof.Machine.execSessionOpen fn k s
  | .sessionClose fn k => Sys2Proof.Machine.execSessionClose fn k s
  | .signerAdd fn k => Sys2Proof.Machine.execSignerAdd fn k s
  | .signerRemove fn k => Sys2Proof.Machine.execSignerRemove fn k s
  | .debugUnlock fn k => Sys2Proof.Machine.execDebugUnlock fn k s
  | .ringSet fn k => Sys2Proof.Machine.execRingSet fn k s
  | .alarmAck fn k => Sys2Proof.Machine.execAlarmAck fn k s
  | .inject fn k => Sys2Proof.Machine.execInject fn k s
  | .injectClear fn k => Sys2Proof.Machine.execInjectClear fn k s
  | .sealUnknownOpcode fn k => Sys2Proof.Machine.execSealUnknownOpcode fn k s
  | .orderedStart fn seq => Sys2Proof.Machine.execOrderedStart fn seq s
  | .commandCompletion fn seq => Sys2Proof.Machine.execCommandCompletion fn seq s
  | .mbxCqCfgWrite fn v => Sys2Proof.Machine.execMbxCqCfgWrite fn v s
  | .mbxCqHeadWrite fn v => Sys2Proof.Machine.execMbxCqHeadWrite fn v s
  | .talHeadWrite fn ofModule v => Sys2Proof.Machine.execTalHeadWrite fn ofModule v s
  | .pwrWakeWrite v => Sys2Proof.Machine.execPwrWakeWrite v s
  | .geoSvnCommitWrite v => Sys2Proof.Machine.execGeoSvnCommitWrite v s
  | .registerWrite fn off data => Sys2Proof.Machine.execRegisterWrite fn off data s
  | .passageEnqueue slab => Sys2Proof.Machine.execPassageEnqueue slab s
  | .passageSelect slab => Sys2Proof.Machine.execPassageSelect slab s
  | .lineIssue slab => Sys2Proof.Machine.execLineIssue slab s
  | .opEnd slab unit idx => Sys2Proof.Machine.execOpEnd slab unit idx s
  | .passageEnd slab seq => Sys2Proof.Machine.execPassageEnd slab seq s
  | .passageStall slab seq => Sys2Proof.Machine.execPassageStall slab seq s
  | .hsTimeout src initiator d1 => Sys2Proof.Machine.execHsTimeout src initiator d1 s
  | .nop slab unit => Sys2Proof.Machine.execNop slab unit s
  | .mm slab => Sys2Proof.Machine.execMm slab s
  | .mmList slab => Sys2Proof.Machine.execMmList slab s
  | .mmListEntryRead slab => Sys2Proof.Machine.execMmListEntryRead slab s
  | .mmChain slab => Sys2Proof.Machine.execMmChain slab s
  | .mmArrive slab => Sys2Proof.Machine.execMmArrive slab s
  | .accClear slab => Sys2Proof.Machine.execAccClear slab s
  | .accSpill slab => Sys2Proof.Machine.execAccSpill slab s
  | .accResume slab => Sys2Proof.Machine.execAccResume slab s
  | .accDrain slab => Sys2Proof.Machine.execAccDrain slab s
  | .accGate slab => Sys2Proof.Machine.execAccGate slab s
  | .accSatclr slab => Sys2Proof.Machine.execAccSatclr slab s
  | .vAdd slab => Sys2Proof.Machine.execVAdd slab s
  | .vSub slab => Sys2Proof.Machine.execVSub slab s
  | .vMul slab => Sys2Proof.Machine.execVMul slab s
  | .vFma slab => Sys2Proof.Machine.execVFma slab s
  | .vMax slab => Sys2Proof.Machine.execVMax slab s
  | .vMin slab => Sys2Proof.Machine.execVMin slab s
  | .vAbs slab => Sys2Proof.Machine.execVAbs slab s
  | .vNeg slab => Sys2Proof.Machine.execVNeg slab s
  | .vScale slab => Sys2Proof.Machine.execVScale slab s
  | .vAddi slab => Sys2Proof.Machine.execVAddi slab s
  | .vCvt slab => Sys2Proof.Machine.execVCvt slab s
  | .vDither slab => Sys2Proof.Machine.execVDither slab s
  | .vGadd slab => Sys2Proof.Machine.execVGadd slab s
  | .vRsum slab => Sys2Proof.Machine.execVRsum slab s
  | .vRmax slab => Sys2Proof.Machine.execVRmax slab s
  | .vRwel slab => Sys2Proof.Machine.execVRwel slab s
  | .vArgmax slab => Sys2Proof.Machine.execVArgmax slab s
  | .vEpi slab => Sys2Proof.Machine.execVEpi slab s
  | .vOsm slab => Sys2Proof.Machine.execVOsm slab s
  | .vDwconv slab => Sys2Proof.Machine.execVDwconv slab s
  | .vGconv slab => Sys2Proof.Machine.execVGconv slab s
  | .vLd slab pipeB => Sys2Proof.Machine.execVLd slab pipeB s
  | .vSt slab pipeB => Sys2Proof.Machine.execVSt slab pipeB s
  | .vbExp slab => Sys2Proof.Machine.execVbExp slab s
  | .vbLog slab => Sys2Proof.Machine.execVbLog slab s
  | .vbRsqrt slab => Sys2Proof.Machine.execVbRsqrt slab s
  | .vbRcp slab => Sys2Proof.Machine.execVbRcp slab s
  | .vbSigmoid slab => Sys2Proof.Machine.execVbSigmoid slab s
  | .vbTanh slab => Sys2Proof.Machine.execVbTanh slab s
  | .vbGelu slab => Sys2Proof.Machine.execVbGelu slab s
  | .vbSilu slab => Sys2Proof.Machine.execVbSilu slab s
  | .vbSin slab => Sys2Proof.Machine.execVbSin slab s
  | .vbCos slab => Sys2Proof.Machine.execVbCos slab s
  | .vbCompress slab => Sys2Proof.Machine.execVbCompress slab s
  | .vbExpand slab => Sys2Proof.Machine.execVbExpand slab s
  | .vbPermute slab => Sys2Proof.Machine.execVbPermute slab s
  | .vbGumbel slab => Sys2Proof.Machine.execVbGumbel slab s
  | .vbCrop slab => Sys2Proof.Machine.execVbCrop slab s
  | .xfRun slab => Sys2Proof.Machine.execXfRun slab s
  | .xfPaged slab => Sys2Proof.Machine.execXfPaged slab s
  | .cAllredSum slab => Sys2Proof.Machine.execCAllredSum slab s
  | .cAllredMax slab => Sys2Proof.Machine.execCAllredMax slab s
  | .cAllredWelf slab => Sys2Proof.Machine.execCAllredWelf slab s
  | .cRedscat slab => Sys2Proof.Machine.execCRedscat slab s
  | .cBcast slab => Sys2Proof.Machine.execCBcast slab s
  | .cAll2all slab => Sys2Proof.Machine.execCAll2all slab s
  | .cAllgather slab => Sys2Proof.Machine.execCAllgather slab s
  | .cGatherArrive slab => Sys2Proof.Machine.execCGatherArrive slab s
  | .cBarrier slab => Sys2Proof.Machine.execCBarrier slab s
  | .collectiveMeet part ctx lidx => Sys2Proof.Machine.execCollectiveMeet part ctx lidx s
  | .gatherUnitArrive slab queue unit => Sys2Proof.Machine.execGatherUnitArrive slab queue unit s
  | .collWatchdogExpire slab queue => Sys2Proof.Machine.execCollWatchdogExpire slab queue s
  | .flDraw slab => Sys2Proof.Machine.execFlDraw slab s
  | .loopBegin slab => Sys2Proof.Machine.execLoopBegin slab s
  | .loopEnd slab => Sys2Proof.Machine.execLoopEnd slab s
  | .loopr slab => Sys2Proof.Machine.execLoopr slab s
  | .twait slab => Sys2Proof.Machine.execTwait slab s
  | .fence slab => Sys2Proof.Machine.execFence slab s
  | .quarryLoadEnd part handle idx slab => Sys2Proof.Machine.execQuarryLoadEnd part handle idx slab s
  | .ctxSwitchOutEnd part ctx => Sys2Proof.Machine.execCtxSwitchOutEnd part ctx s
  | .ctxSwitchInEnd part ctx => Sys2Proof.Machine.execCtxSwitchInEnd part ctx s
  | .ctxTeardownEnd part ctx => Sys2Proof.Machine.execCtxTeardownEnd part ctx s
  | .encodeFrameStart session => Sys2Proof.Machine.execEncodeFrameStart session s
  | .encodeFrameEnd session => Sys2Proof.Machine.execEncodeFrameEnd session s
  | .decodeFrameEnd session => Sys2Proof.Machine.execDecodeFrameEnd session s
  | .decodeBudgetExpire session => Sys2Proof.Machine.execDecodeBudgetExpire session s
  | .flitReceive slab link rx flit => Sys2Proof.Machine.execFlitReceive slab link rx flit s
  | .replayWindowEnd slab link => Sys2Proof.Machine.execReplayWindowEnd slab link s
  | .scrubPass slab hbm found => Sys2Proof.Machine.execScrubPass slab hbm found s
  | .coalesceWindowEnd ring idx => Sys2Proof.Machine.execCoalesceWindowEnd ring idx s
  | .evtDroppedRecord ring cls => Sys2Proof.Machine.execEvtDroppedRecord ring cls s
  | .alarmConditionEnd idx => Sys2Proof.Machine.execAlarmConditionEnd idx s
  | .stackTempReading stack temp => Sys2Proof.Machine.execStackTempReading stack temp s
  | .junctionTempReading unit temp => Sys2Proof.Machine.execJunctionTempReading unit temp s
  | .drawLimitReached watts mask => Sys2Proof.Machine.execDrawLimitReached watts mask s
  | .powerLimitEpisodeEnd watts => Sys2Proof.Machine.execPowerLimitEpisodeEnd watts s
  | .calLoadSample domain load => Sys2Proof.Machine.execCalLoadSample domain load s
  | .recalStart domain => Sys2Proof.Machine.execRecalStart domain s
  | .recalEnd domain valid => Sys2Proof.Machine.execRecalEnd domain valid s
  | .vinExcursion millivolts => Sys2Proof.Machine.execVinExcursion millivolts s
  | .vinDebounceExpire => Sys2Proof.Machine.execVinDebounceExpire s
  | .pwrGoodInDeassert ns => Sys2Proof.Machine.execPwrGoodInDeassert ns s
  | .supplyShutdown => Sys2Proof.Machine.execSupplyShutdown s
  | .wakePin ns => Sys2Proof.Machine.execWakePin ns s
  | .powerOn millivolts straps => Sys2Proof.Machine.execPowerOn millivolts straps s
  | .modRstAssert ns => Sys2Proof.Machine.execModRstAssert ns s
  | .modRstRelease => Sys2Proof.Machine.execModRstRelease s
  | .startupStepEnd r => Sys2Proof.Machine.execStartupStepEnd r s
  | .startupTimeout => Sys2Proof.Machine.execStartupTimeout s
  | .perstAssert ns => Sys2Proof.Machine.execPerstAssert ns s
  | .perstRelease => Sys2Proof.Machine.execPerstRelease s
  | .functionLevelReset fn => Sys2Proof.Machine.execFunctionLevelReset fn s
  | .vfEnableClear => Sys2Proof.Machine.execVfEnableClear s
  | .busMasterEnableWrite fn on => Sys2Proof.Machine.execBusMasterEnableWrite fn on s
  | .hostLinkTrained width rate flit256 lopt => Sys2Proof.Machine.execHostLinkTrained width rate flit256 lopt s
  | .hdmDecoderCommit idx base size => Sys2Proof.Machine.execHdmDecoderCommit idx base size s
  | .hdmRead dpa => Sys2Proof.Machine.execHdmRead dpa s
  | .hdmWrite dpa data => Sys2Proof.Machine.execHdmWrite dpa data s
  | .bisnpResponse line dirty => Sys2Proof.Machine.execBisnpResponse line dirty s
  | .biTimeout line => Sys2Proof.Machine.execBiTimeout line s
  | .hostSnoop line => Sys2Proof.Machine.execHostSnoop line s
  | .atsTranslationRefused use => Sys2Proof.Machine.execAtsTranslationRefused use s
  | .unsupportedRequest fn off => Sys2Proof.Machine.execUnsupportedRequest fn off s
  | .ideIntegrityFail stream => Sys2Proof.Machine.execIdeIntegrityFail stream s
  | .getState => Sys2Proof.Machine.execGetState s
  | .getThermal => Sys2Proof.Machine.execGetThermal s
  | .mgmtAlarmAck code => Sys2Proof.Machine.execMgmtAlarmAck code s
  | .injectArm point param => Sys2Proof.Machine.execInjectArm point param s
  | .imageStage image off data => Sys2Proof.Machine.execImageStage image off data s
  | .imageSeal image len => Sys2Proof.Machine.execImageSeal image len s
  | .imageDiscard => Sys2Proof.Machine.execImageDiscard s
  | .getVersion t => Sys2Proof.Machine.execGetVersion t s
  | .getCapabilities t => Sys2Proof.Machine.execGetCapabilities t s
  | .negotiateAlgorithms t sha3 mldsa mlkem gcm => Sys2Proof.Machine.execNegotiateAlgorithms t sha3 mldsa mlkem gcm s
  | .getDigests t => Sys2Proof.Machine.execGetDigests t s
  | .getCertificate t slot off len => Sys2Proof.Machine.execGetCertificate t slot off len s
  | .challenge t slot nonce => Sys2Proof.Machine.execChallenge t slot nonce s
  | .getMeasurements t index nonce => Sys2Proof.Machine.execGetMeasurements t index nonce s
  | .keyExchange t ek => Sys2Proof.Machine.execKeyExchange t ek s
  | .finish t mac => Sys2Proof.Machine.execFinish t mac s
  | .heartbeat t => Sys2Proof.Machine.execHeartbeat t s
  | .keyUpdate t all => Sys2Proof.Machine.execKeyUpdate t all s
  | .endSession t => Sys2Proof.Machine.execEndSession t s
  | .chunkGet t index => Sys2Proof.Machine.execChunkGet t index s
  | .vendorDefinedRequest t stream key => Sys2Proof.Machine.execVendorDefinedRequest t stream key s
  | .entropyHealthFail => Sys2Proof.Machine.execEntropyHealthFail s
  | .vfEnableSet num => Sys2Proof.Machine.execVfEnableSet num s

end Sys2Proof.Machine
end

