-- ==== Sys2Proof/Safety.lean ====
section
/-! DEFINITION. Safety.lean: the invariant of the machine, and what it takes for a sealed command to perform, in the terms
that claims use. -/

namespace Sys2Proof.Machine

/-- The tables of the state have the sizes that the spec gives them, and host memory keeps its canonical form: 16
functions (R342), 16 partitions (R397), 8 slabs (R1), 17 rings (R471), 8 codec cores (R418), 32 calibration domains
(R504). -/
structure State.Inv (s : State) : Prop where
  fns : s.fns.length = 16
  parts : s.parts.length = 16
  slabs : s.slabs.length = 8
  rings : s.talus.rings.length = 17
  cores : s.codec.cores.length = 8
  domains : s.power.domains.length = 32
  host : Memory.wf s.host = true

/-- The row of a command: the seal of slot k of function fn. -/
def Cmd.row (c : Cmd) (fn k : Nat) : Instr :=
  match c with
  | .statusGet => .statusGet fn k
  | .serviceEnter => .serviceEnter fn k
  | .restEnter => .restEnter fn k
  | .partCreate => .partCreate fn k
  | .partDestroy => .partDestroy fn k
  | .partSet => .partSet fn k
  | .ctxCreate => .ctxCreate fn k
  | .ctxDestroy => .ctxDestroy fn k
  | .ctxSave => .ctxSave fn k
  | .ctxRestore => .ctxRestore fn k
  | .modelLoad => .modelLoad fn k
  | .modelDrop => .modelDrop fn k
  | .modelPin => .modelPin fn k
  | .modelUnpin => .modelUnpin fn k
  | .quarryStat => .quarryStat fn k
  | .regionCreate => .regionCreate fn k
  | .regionDestroy => .regionDestroy fn k
  | .regionMap => .regionMap fn k
  | .regionUnmap => .regionUnmap fn k
  | .progLoad => .progLoad fn k
  | .runPassage => .runPassage fn k
  | .fetch => .fetch fn k
  | .resultDrop => .resultDrop fn k
  | .groupCreate => .groupCreate fn k
  | .groupDestroy => .groupDestroy fn k
  | .copy => .copy fn k
  | .fill => .fill fn k
  | .codecOpen => .codecOpen fn k
  | .codecClose => .codecClose fn k
  | .codecEncode => .codecEncode fn k
  | .codecDecode => .codecDecode fn k
  | .attest => .attest fn k
  | .sessionOpen => .sessionOpen fn k
  | .sessionClose => .sessionClose fn k
  | .signerAdd => .signerAdd fn k
  | .signerRemove => .signerRemove fn k
  | .debugUnlock => .debugUnlock fn k
  | .ringSet => .ringSet fn k
  | .alarmAck => .alarmAck fn k
  | .inject => .inject fn k
  | .injectClear => .injectClear fn k

/-- The command of slot k of a function as it would be accepted now (R374, R376). -/
def State.sealed (s : State) (c : Cmd) (fn k : Nat) : Flight := flightOf fn s.hub.seq c ((s.fn fn).slot k)

/-- The state in which an accepted command performs: its slot is accepted with the next sequence number, and it is in
flight (R35, R376). -/
def State.accepting (s : State) (c : Cmd) (fn k : Nat) : State :=
  let slot : Slot := { (s.fn fn).slot k with state := .accepted, status := .ok, seq := s.hub.seq }
  let hub : Hub :=
    { s.hub with seq := s.hub.seq + 1, acceptService := s.hub.acceptService || decide (c = .serviceEnter) }
  ((s.setSlot fn slot).setHub hub).setFlights (s.flights ++ [s.sealed c fn k])

/-- The seal of slot k starts a command at once: BAR0 is open to the function, the slot is the host's and holds the
command, the module works and is awake, R376 refuses nothing, and no earlier command holds it back (R79, R382, R456). -/
def State.starts (s : State) (c : Cmd) (fn k : Nat) : Bool :=
  let b := (s.fn fn).slot k
  decide (fn < 16) && decide (s.fns.length = 16) && decide (k < 256) && s.barOpen fn && decide (b.state ≠ .owned)
    && b.opcode == c.code && s.hub.stop.isNone && decide (s.hub.rest = .awake) && (s.refuses fn c b).isNone
    && !s.held (s.sealed c fn k)

/-- ... and the command performs at once: its function is in no tenant session, and may send requests where the command
reads host memory (R340, R347). -/
def State.ready (s : State) (c : Cmd) (fn k : Nat) : Bool :=
  s.starts c fn k && (s.part fn).session.isNone && (!(s.sealed c fn k).readsHost || (s.fn fn).masters)

/-- The operation at the head of a unit's queue, where it has this opcode, is not coupled, and can fire (R71). -/
def State.firing (s : State) (slab u op : Nat) : Option OpE :=
  (s.queue slab u).head?.filter fun o => o.op == op && !o.coupled && s.canFire slab o o.waits

/-- The coupled consumer of a unit, where it has this opcode, its pair has fired and its data has not moved (R76). -/
def State.joining (s : State) (slab u op : Nat) : Option OpE := (s.joined? slab u op).filter fun _ => s.running

/-- Nothing stands in the way of a read on a slab: no damaged word there, and no injection point armed. -/
def State.clean (s : State) (slab : Nat) : Prop := (s.slab slab).bad = [] ∧ s.talus.armed = []

end Sys2Proof.Machine
end

