-- ==== Sys2Proof/Certificates/Slice0/Obligations.lean ====
section
/-! DEFINITION. Obligations.lean: the statements for the provers. In the statements about sealed commands, `s.sealed c fn k`
is the command of slot k as it is accepted, `s.accepting c fn k` is the state in which it performs, and `s.ready c fn k` says
that its seal starts it at once (Safety.lean). -/

open Sys2Proof Sys2Proof.Machine

/-! ## Commands of the mailbox -/

/-- The seal of a slot whose command is ready: the command takes the next sequence number and performs at once (R35, R375,
R376, R378).
In the model a seal is accepted and started in its own step (log 5). -/
def Obligations.ReadyCommandPerformsAtItsSeal : Prop :=
  ∀ (c : Cmd) (fn k : Nat) (s : State), s.ready c fn k = true →
    exec (c.row fn k) s = .next ((s.accepting c fn k).perform (s.sealed c fn k))

/-- A slot whose header or arguments hold a reserved bit, outside a session, is refused with ST_RSVD_SET, whatever its
command; an OPCODE of no command is refused with ST_OPCODE. Only the slot changes (R376).
The seal of a slot that the Steward owns already, or of a slot of a function that does not exist, changes nothing
(R342, R375).
While the module is stopped, a sealed slot waits and nothing else changes (R377).
In the model a seal is accepted and started in its own step (log 5). -/
def Obligations.SealsThatPerformNothing : Prop :=
  (∀ (fn k : Nat) (s : State), fn < 16 → s.fns.length = 16 → k < 256 → s.barOpen fn = true → s.hub.stop = none →
    s.hub.rest = .awake → ((s.fn fn).slot k).state ≠ .owned →
    (Cmd.ofCode ((s.fn fn).slot k).opcode = none →
      exec (.sealUnknownOpcode fn k) s =
        .next (s.setSlot fn { (s.fn fn).slot k with state := .refused, status := .opcode })) ∧
    (∀ c : Cmd, ((s.fn fn).slot k).opcode = c.code → (s.part fn).session = none →
      (((s.fn fn).slot k).headerClean = false ∨ c.argsClean ((s.fn fn).slot k).args = false) →
      exec (c.row fn k) s = .next (s.setSlot fn { (s.fn fn).slot k with state := .refused, status := .rsvdSet }))) ∧
  (∀ (c : Cmd) (fn k : Nat) (s : State), (((s.fn fn).slot k).state = .owned ∨ s.fnExists fn = false) →
    exec (c.row fn k) s = .next s ∧ exec (.sealUnknownOpcode fn k) s = .next s) ∧
  (∀ (c : Cmd) (fn k : Nat) (s : State), s.barOpen fn = true → s.hub.stop ≠ none → k < 256 →
    ((s.fn fn).slot k).state ≠ .owned → ((s.fn fn).slot k).opcode = c.code →
    exec (c.row fn k) s = .next (s.setSlot fn { (s.fn fn).slot k with state := .owned }))

/-- STATUS_GET answers the status block of R394, SERVICE_ENTER waits (R526), REST_ENTER succeeds when nothing else is in
flight and fails with ST_NOT_IDLE otherwise (R500).
In the model a seal is accepted and started in its own step (log 5). -/
def Obligations.StatusServiceAndRestCommands : Prop :=
  ∀ (fn k : Nat) (s : State),
    (s.ready .statusGet fn k = true →
      let a := s.accepting .statusGet fn k
      let f := s.sealed .statusGet fn k
      bufOk (f.arg 0 8) (f.arg 8 4) = true → 64 ≤ f.arg 8 4 →
      exec (.statusGet fn k) s = .next (a.okCmd f 0
        [{ addr := f.arg 0 8, len := f.arg 8 4, bytes := a.statusBlock fn, index := 1, epoch := true }])) ∧
    (s.ready .serviceEnter fn k = true →
      exec (.serviceEnter fn k) s = .next ((s.accepting .serviceEnter fn k).busyCmd (s.sealed .serviceEnter fn k))) ∧
    (s.ready .restEnter fn k = true →
      let a := s.accepting .restEnter fn k
      let f := s.sealed .restEnter fn k
      (s.flights.any (fun g => g.seq != s.hub.seq) = false → exec (.restEnter fn k) s = .next (a.okCmd f)) ∧
      (s.flights.any (fun g => g.seq != s.hub.seq) = true → exec (.restEnter fn k) s = .next (a.failCmd f .notIdle)))

/-- PART_CREATE makes the partition with its quotas, its blocks and a fresh HBM key, its ring unset (R297, R397, R398, R471);
PART_SET changes quotas and blocks only, and waits for the lines of a window that it closes (R356, R400); PART_DESTROY
removes the partition and what it holds (R402).
In the model a seal is accepted and started in its own step (log 5). -/
def Obligations.PartitionCommands : Prop :=
  ∀ (fn k : Nat) (s : State),
    (s.ready .partCreate fn k = true →
      let a := s.accepting .partCreate fn k
      let f := s.sealed .partCreate fn k
      let p := f.arg 0 1
      let q := quotaOfArgs f
      1 ≤ p → p ≤ 15 → a.quotaInRange q = true → (s.part p).live = false →
      ∀ bases, a.placeBlocks p q = some bases → a.quotaFits p q = true →
      exec (.partCreate fn k) s = .next ((((a.setGeode { s.geode with draws := s.geode.draws + 1 }).modPart p fun _ =>
        { Part.absent with live := true, q := q, slotBase := bases, key := s.geode.draws }).modRing p fun r =>
        { Ring.reset with classes := r.classes }).okCmd f)) ∧
    (s.ready .partSet fn k = true →
      let a := s.accepting .partSet fn k
      let f := s.sealed .partSet fn k
      let p := f.arg 0 1
      let q := quotaOfArgs f
      p ≤ 15 → a.quotaInRange q = true → (s.part p).live = true →
      ∀ bases, a.placeBlocks p q = some bases → a.quotaFits p q = true → a.setBusy p q bases = false →
      let t := a.modPart p fun x => { x with q := q, slotBase := bases }
      (((s.part p).q.hostAccess = false ∨ q.hostAccess = true ∨ (t.closeWindow p).windowClosed p = true) →
        exec (.partSet fn k) s = .next (t.okCmd f)) ∧
      ((s.part p).q.hostAccess = true → q.hostAccess = false → (t.closeWindow p).windowClosed p = false →
        exec (.partSet fn k) s = .next ((t.closeWindow p).busyCmd f))) ∧
    (s.ready .partDestroy fn k = true →
      let f := s.sealed .partDestroy fn k
      let p := f.arg 0 1
      s.parts.length = 16 → 1 ≤ p → p ≤ 15 → (s.part p).live = true →
      ∃ t, exec (.partDestroy fn k) s = .next t ∧ t.part p = Part.absent ∧ (∀ j, j ≠ p → t.part j = s.part j) ∧
        (t.codec.sessions = s.codec.sessions.filter fun x => x.part != p) ∧ t.hub.stop = s.hub.stop ∧ t.power = s.power ∧
        t.port = s.port ∧ t.geode = s.geode ∧
        ((∀ b ∈ s.slabs, b.live = [] ∧ b.started = []) → t.host = s.host ∧ t.fns = (s.accepting .partDestroy fn k).fns))

/-- CTX_CREATE makes a context under the lowest free number, without a program: resident where there is room, else once its
victims are out (R405, R408, R409); CTX_DESTROY removes one without passages (R417); CTX_SAVE of an Out context gives the
handle of its image, of an idle resident one switches it out first (R413); CTX_RESTORE puts an image from HBM or from host
memory that passes R414 into its context.
In the model a seal is accepted and started in its own step (log 5). -/
def Obligations.ContextCommands : Prop :=
  ∀ (fn k : Nat) (s : State),
    (s.ready .ctxCreate fn k = true →
      let a := s.accepting .ctxCreate fn k
      let f := s.sealed .ctxCreate fn k
      let p := s.part fn
      let slabs := maskList (f.arg 0 1) 8
      fn < s.parts.length → f.arg 0 1 ≠ 0 → slabs.all (fun k => bitOf p.q.mask k) = true →
      f.arg 1 1 ∈ [2, 4, 8] → f.arg 1 1 ≤ p.q.slots → 1 ≤ f.arg 2 2 → f.arg 2 2 ≤ p.q.spad →
      ∀ num vs, (List.range 256).find? (fun n => !p.ctxs.any fun c => c.num == n) = some num →
      a.victims fn (f.arg 1 1) (f.arg 2 2) slabs = some vs → a.imagesFit fn vs = true →
      ∃ t c, exec (.ctxCreate fn k) s = .next t ∧
        (t.part fn).ctxs = (modWhere p.ctxs (fun x => vs.contains x.num) fun x => { x with switching := .goingOut }) ++ [c] ∧
        c.num = num ∧ c.slabs = slabs ∧ c.slots = f.arg 1 1 ∧ c.spad = f.arg 2 2 ∧ c.st = .resident ∧
        c.switching = (if vs = [] then .none else .comingIn) ∧ c.prog = none ∧ c.groups = [] ∧
        t.flights = (if vs = [] then (a.okCmd f num).flights
          else ((a.modFlight s.hub.seq fun x => { x with value := num }).busyCmd f vs).flights) ∧
        t.slabs = s.slabs ∧ t.host = s.host ∧ ∀ j, j ≠ fn → t.part j = s.part j) ∧
    (s.ready .ctxDestroy fn k = true →
      let a := s.accepting .ctxDestroy fn k
      let f := s.sealed .ctxDestroy fn k
      ∀ c, a.needCtx fn (f.arg 0 2) = .ok c → a.passaging fn c.num s.hub.seq = false →
      exec (.ctxDestroy fn k) s = .next ((((a.teardown fn c.num).orphan fn c.num s.hub.seq).modPart fn fun q =>
        { q with ctxs := q.ctxs.filter fun x => x.num != c.num }).okCmd f)) ∧
    (s.ready .ctxSave fn k = true →
      let a := s.accepting .ctxSave fn k
      let f := s.sealed .ctxSave fn k
      f.arg 8 8 % 64 = 0 → ∀ c, a.needCtx fn (f.arg 0 2) = .ok c →
      (c.st = .out → c.switching = .none →
        (f.arg 8 8 = 0 → exec (.ctxSave fn k) s = .next (a.saveImage f c.num)) ∧
        (∀ a1, a.cairnRead fn c = (a1, none) → f.arg 8 8 ≠ 0 →
          exec (.ctxSave fn k) s = .next (a1.saveImage f c.num))) ∧
      (a.idle fn c s.hub.seq = true → a.imagesFit fn [c.num] = true →
        exec (.ctxSave fn k) s = .next ((a.sendOut fn [c.num]).busyCmd f [c.num]))) ∧
    (s.ready .ctxRestore fn k = true →
      let a := s.accepting .ctxRestore fn k
      let f := s.sealed .ctxRestore fn k
      ∀ c, a.needCtx fn (f.arg 0 2) = .ok c →
      (a.idle fn c s.hub.seq = true ∨ (c.st = .out ∧ c.switching = .none)) →
      (bitOf (f.arg 8 8) 63 = true → fld (f.arg 8 8) 62 0 % 64 = 0 →
        ∀ a1 b, a.hostCairn f c (fld (f.arg 8 8) 62 0) = (a1, .ok b) → a1.cairnMatches c b.word b.hash = true →
        (c.st ≠ .out → exec (.ctxRestore fn k) s = .next ((a1.loadImage fn c.num b.secs).okCmd f)) ∧
        (c.st = .out → ∀ a2, a1.switchFor fn s.hub.seq c = some a2 →
          exec (.ctxRestore fn k) s = .next ((a2.loadImage fn c.num b.secs).busyCmd f [c.num]))) ∧
      (bitOf (f.arg 8 8) 63 = false → f.arg 8 8 ≠ 0 →
        ∀ x a1, (s.part fn).ctxs.find? (fun x => x.cairn == f.arg 8 8 && f.arg 8 8 != 0 && decide (x.st = .out)) = some x →
        a.cairnMatches c x.imgWord x.imgHash = true → (c.st = .out → (a.switchFor fn s.hub.seq c).isSome = true) →
        a.cairnRead fn x = (a1, none) →
        let secs := x.data.map fun d => (d.share, d.slots)
        ∀ a2, (if c.st = .out then a1.switchFor fn s.hub.seq c else some a1) = some a2 →
        (x.num = c.num → exec (.ctxRestore fn k) s = .next (
          if c.st = .out then (a2.loadImage fn c.num secs).busyCmd f [c.num] else (a2.loadImage fn c.num secs).okCmd f)) ∧
        (x.num ≠ c.num → ∀ a3, ((a2.ctx? fn x.num).bind fun y => a2.switchFor fn s.hub.seq y) = some a3 →
          exec (.ctxRestore fn k) s = .next (((((a3.modCtx fn x.num Ctx.blank).dropBad fun u => placeOfCtx u fn x.num).loadImage
            fn c.num secs)).busyCmd f (if c.st = .out then [c.num, x.num] else [x.num])))))

/-- A switch out ends with the context Out and its image recorded, and completes a CTX_SAVE that waits for it; a switch in,
once its victims are out, ends with the context resident and its handle released, and counts for a CTX_RESTORE that waits for
it; a teardown ends with the faulted context usable again (R410, R411, R413, R414, R416). Other states ignore the events.
In the model a row whose condition does not hold changes nothing (log 3). -/
def Obligations.ContextSwitchAndTeardownEnds : Prop :=
  ∀ (p n : Nat) (s : State) (c : Ctx), s.ctx? p n = some c → s.running = true →
    (c.leaving = true → ∀ t, s.switchRead p c = (t, none) →
      let u := (t.modCtx p n fun c =>
        { c with st := .out, switching := if c.switching = .outThenIn then .comingIn else .none,
                 imgWord := c.imageWord, imgHash := c.imageHash }).dropBad fun x => placeOfCtx x p n
      ((∀ f ∈ t.flights, f.cmd ≠ .ctxSave) → exec (.ctxSwitchOutEnd p n) s = .next u) ∧
      (∀ f, t.flights.find? (fun f => f.fn == p && decide (f.cmd = .ctxSave) && decide (f.phase = .busy) && f.waits == [n]) = some f →
        f.arg 8 8 = 0 → exec (.ctxSwitchOutEnd p n) s = .next (u.saveImage f n))) ∧
    (c.switching = .comingIn → c.st = .out →
      (∀ x ∈ (s.part p).ctxs, x.leaving = true → ∀ k ∈ x.slabs, k ∉ c.slabs) →
      let t := s.modCtx p n fun x => { x with st := .resident, switching := .none, cairn := 0, imgWord := 0, imgHash := [] }
      ((∀ f ∈ s.flights, f.cmd ≠ .ctxRestore) → ∀ u, t.cairnRead p c = (u, none) →
        exec (.ctxSwitchInEnd p n) s = .next (u.dropBad fun x => placeOfCtx x p n)) ∧
      ((s.flights.any fun f => f.fn == p && decide (f.cmd = .ctxRestore) && decide (f.phase = .busy) && f.waits.contains n) = true →
        exec (.ctxSwitchInEnd p n) s = .next (t.restoreArrived p n))) ∧
    (c.st = .faulted → exec (.ctxTeardownEnd p n) s = .next (s.teardown p n)) ∧
    (c.leaving = false → exec (.ctxSwitchOutEnd p n) s = .next s) ∧
    (c.switching ≠ .comingIn → exec (.ctxSwitchInEnd p n) s = .next s) ∧
    (c.st ≠ .faulted → exec (.ctxTeardownEnd p n) s = .next s)

/-- MODEL_LOAD keeps the parts that it reads under a fresh handle, or in the place of an idle model, and makes hot copies
where they are asked for and fit; MODEL_DROP removes an idle model; MODEL_PIN pins what is hot and waits for what loads;
MODEL_UNPIN unpins; QUARRY_STAT answers a record for each part on each slab (R302, R303, R310, R311, R389).
In the model a seal is accepted and started in its own step (log 5). -/
def Obligations.ModelCommands : Prop :=
  ∀ (fn k : Nat) (s : State),
    (s.ready .modelLoad fn k = true →
      let a := s.accepting .modelLoad fn k
      let f := s.sealed .modelLoad fn k
      let p := s.part fn
      let n := f.arg 0 1
      let h := f.arg 4 4
      1 ≤ n → n ≤ 64 →
      (h ≠ 0 → ∃ m, p.model? h = some m ∧ m.isLoading = false) →
      ∀ a1 bs, a.hostIn f f.cmd.code 1 (f.arg 8 8) (80 * n) = (a1, .ok bs) →
      let as := (List.range n).map (partArgAt bs)
      (∀ x ∈ as, x.clean = true ∧ 1 ≤ x.size ∧ x.size ≤ 1024 ∧ x.mask ≠ 0 ∧ ∀ k ∈ maskList x.mask 8, bitOf p.q.mask k = true) →
      (∀ k < 8, (as.filter fun x => bitOf x.mask k).length ≤ 8) →
      (h ≠ 0 → a1.modelHeld fn h = false) → (h = 0 → p.models.length < 256) →
      let old := ((p.model? h).map fun m => m.parts.map fun x => (x.size, x.mask)).getD []
      (∀ k < 8, partFrames (as.map fun x => (x.size, x.mask)) k ≤ a1.framesFree fn k + partFrames old k) →
      ∀ a2 l, a1.readParts f (bitOf (f.arg 1 1) 1) 0 as = (a2, .ok l) →
      let g := if h = 0 then a2.nextHandle else h
      let parts := l.map fun x =>
        ({ size := x.1.size, mask := x.1.mask, bytes := Memory.write [] 0 x.2,
           places := (maskList x.1.mask 8).map fun k =>
            { slab := k, hot := false, pinned := false, lastUse := 0, damaged := false, loading := [] } } : MPart)
      let b := (if h = 0 then a2.setNextHandle (a2.nextHandle + 1) else a2).modPart fn fun q =>
        { q with models := (q.models.filter fun m => m.handle != g) ++ [{ handle := g, parts := parts }] }
      let spots := ((List.range n).map fun i => (maskList (nth parts i).mask 8).map fun k => (i, k, (nth parts i).size)).flatten
      let r := if bitOf (f.arg 1 1) 0 then b.heat fn g s.hub.seq spots else (b, 2 ^ n - 1)
      exec (.modelLoad fn k) s = .next ((r.1.dropBad fun x => match x with
        | .cold q m _ _ _ | .hot q m _ _ _ => q == fn && m == g
        | _ => false).okCmd f r.2 [] g)) ∧
    (s.ready .modelDrop fn k = true →
      let a := s.accepting .modelDrop fn k
      let f := s.sealed .modelDrop fn k
      ∀ m, (s.part fn).model? (f.arg 0 4) = some m → a.modelHeld fn (f.arg 0 4) = false → m.isLoading = false →
      exec (.modelDrop fn k) s = .next ((a.modPart fn fun q =>
        { q with models := q.models.filter fun m => m.handle != f.arg 0 4 }).okCmd f)) ∧
    (s.ready .modelPin fn k = true →
      let a := s.accepting .modelPin fn k
      let f := s.sealed .modelPin fn k
      ∀ m s1, (s.part fn).model? (f.arg 0 4) = some m → a.startLoads fn s.hub.seq m.spots = .ok s1 →
      let t := m.spots.foldl (fun s x => s.modPlace fn x.1 x.2.1 x.2.2 fun y => { y with pinned := y.pinned || y.hot }) s1
      (t.allHot fn m.spots = true → exec (.modelPin fn k) s = .next (t.okCmd f)) ∧
      (t.allHot fn m.spots = false → exec (.modelPin fn k) s = .next (t.busyCmd f [m.handle]))) ∧
    (s.ready .modelUnpin fn k = true →
      let f := s.sealed .modelUnpin fn k
      ∀ m, (s.part fn).model? (f.arg 0 4) = some m →
      exec (.modelUnpin fn k) s = .next ((m.spots.foldl (fun s x =>
        s.modPlace fn x.1 x.2.1 x.2.2 fun y => { y with pinned := false }) (s.accepting .modelUnpin fn k)).okCmd f)) ∧
    (s.ready .quarryStat fn k = true →
      let a := s.accepting .quarryStat fn k
      let f := s.sealed .quarryStat fn k
      let l := ((s.part fn).models.map Model.spots).flatten
      bufOk (f.arg 0 8) (f.arg 8 4) = true →
      exec (.quarryStat fn k) s = .next (a.okCmd f l.length
        [{ addr := f.arg 0 8, len := f.arg 8 4, bytes := ((l.take (f.arg 8 4 / 16)).map (a.quarryRecord fn)).flatten,
           index := 1, epoch := true }]))

/-- REGION_CREATE makes an empty region under a fresh handle (R202); REGION_MAP adds the entries of a free range, which read
+0 (R205); REGION_UNMAP and REGION_DESTROY take effect at once and wait for the passages selected on the home slab that have
not ended (R206, R207, R209).
In the model a seal is accepted and started in its own step (log 5). -/
def Obligations.RegionCommands : Prop :=
  ∀ (fn k : Nat) (s : State),
    (s.ready .regionCreate fn k = true →
      let a := s.accepting .regionCreate fn k
      let f := s.sealed .regionCreate fn k
      let size := f.arg 0 8
      let home := f.arg 8 1
      size % 2 ^ 21 = 0 → 1 ≤ size → size ≤ 2 ^ 36 → home < 8 → bitOf (s.part fn).q.mask home = true →
      (s.part fn).regions.length < 4096 →
      exec (.regionCreate fn k) s = .next (((a.setNextHandle (s.nextHandle + 1)).modPart fn fun q =>
        { q with regions := q.regions ++ [{ handle := s.nextHandle, size := size, home := home, pages := [], lingering := [],
                                            bytes := [] }] }).okCmd f s.nextHandle)) ∧
    (s.ready .regionMap fn k = true →
      let a := s.accepting .regionMap fn k
      let f := s.sealed .regionMap fn k
      let big := bitOf (f.arg 4 1) 0
      let unit := if big then 2 ^ 21 else 2 ^ 16
      let n := f.arg 16 4
      ∀ r, (s.part fn).region? (f.arg 0 4) = some r → f.arg 8 8 % unit = 0 → 1 ≤ n → f.arg 8 8 + n * unit ≤ r.size →
      ((List.range (n * (unit / 2 ^ 16))).all fun i => (r.entry? (f.arg 8 8 / 2 ^ 16 + i)).isNone) = true →
      let r2 := { r with pages := r.pages ++ (List.range n).map fun i =>
        ({ num := f.arg 8 8 / 2 ^ 16 + i * (unit / 2 ^ 16), big := big, ro := bitOf (f.arg 4 1) 1 } : Page) }
      r2.frames ≤ a.framesFree fn r.home + r.frames →
      exec (.regionMap fn k) s = .next (((a.modRegion fn r.handle fun _ =>
        { r2 with bytes := Memory.clear r.bytes (f.arg 8 8) (n * unit) }).dropBad
          (inPages fn r.handle (f.arg 8 8) (n * unit))).okCmd f)) ∧
    (s.ready .regionUnmap fn k = true →
      let a := s.accepting .regionUnmap fn k
      let f := s.sealed .regionUnmap fn k
      ∀ r, (s.part fn).region? (f.arg 0 4) = some r → f.arg 8 8 % 2 ^ 16 = 0 → f.arg 16 8 % 2 ^ 16 = 0 →
      f.arg 8 8 + f.arg 16 8 ≤ r.size →
      (∀ g ∈ r.pages, g.big = true → overlaps (g.num * 2 ^ 16) (2 ^ 21) (f.arg 8 8) (f.arg 16 8) = true →
        f.arg 8 8 ≤ g.num * 2 ^ 16 ∧ g.num * 2 ^ 16 + 2 ^ 21 ≤ f.arg 8 8 + f.arg 16 8) →
      let w := s.selected r.home
      let t := a.modRegion fn r.handle fun r => r.unmap (f.arg 8 8) (f.arg 16 8) s.hub.seq (!w.isEmpty)
      (w = [] → exec (.regionUnmap fn k) s = .next (t.okCmd f)) ∧
      (w ≠ [] → exec (.regionUnmap fn k) s = .next (t.busyCmd f w))) ∧
    (s.ready .regionDestroy fn k = true →
      let a := s.accepting .regionDestroy fn k
      let f := s.sealed .regionDestroy fn k
      ∀ r, (s.part fn).region? (f.arg 0 4) = some r → a.regionBusy fn r.handle = false →
      let w := s.selected r.home
      (w = [] → exec (.regionDestroy fn k) s =
        .next ((a.modPart fn fun q => { q with regions := q.regions.filter fun x => x.handle != r.handle }).okCmd f)) ∧
      (w ≠ [] → exec (.regionDestroy fn k) s =
        .next ((a.modRegion fn r.handle fun r => r.unmap 0 r.size s.hub.seq true).busyCmd f w)))

/-- PROG_LOAD reads its image from host memory or from flat memory (R389) and, where every check passes, places its text and
constants and makes it the context's program (R326 to R329); a failing check leaves the context as it was.
In the model a seal is accepted and started in its own step (log 5). -/
def Obligations.ProgLoadPlacesACheckedImage : Prop :=
  ∀ (fn k : Nat) (s : State), s.ready .progLoad fn k = true →
    let a := s.accepting .progLoad fn k
    let f := s.sealed .progLoad fn k
    let addr := f.arg 8 8
    let len := f.arg 16 8
    (f.arg 2 1 = 0 ∨ f.arg 2 1 = 1 ∧ spaceOf addr = 3 ∧ a.inFlatSize fn (fld addr 59 56) (fld addr 55 0) len = true) →
    ∀ c, a.needCtx fn (f.arg 0 2) = .ok c → a.idle fn c s.hub.seq = true →
    ∀ a1 img, a.imageBytes f = (a1, .ok img) →
    (∀ b, a1.imageCheck fn c img len = .ok b → exec (.progLoad fn k) s =
      .next (((c.slabs.zipIdx.foldl (fun s x => s.placeImage fn c b x.1 x.2) a1).modCtx fn c.num fun x =>
        { x with prog := some (programOf b) }).okCmd f)) ∧
    (∀ e, a1.imageCheck fn c img len = .error e → exec (.progLoad fn k) s = .next (a1.failCmd f e))

/-- RUN_PASSAGE of a checked run starts its loads and its switch-in and is queued on every slab with room (R79, R307, R331,
R389, R409); a run with a zero extent writes its identity entries and nothing else (R333); a shape that no bucket covers
fails with ST_SHAPE_OVER (R331). FETCH returns a held result and releases it, RESULT_DROP releases it (R387).
In the model a seal is accepted and started in its own step (log 5). -/
def Obligations.RunAndHeldResultCommands : Prop :=
  ∀ (fn k : Nat) (s : State),
    (s.ready .runPassage fn k = true →
      let f := s.sealed .runPassage fn k
      let q := s.hub.seq
      let a0 := (s.accepting .runPassage fn k).modCtx fn (f.arg 0 2) fun x => { x with lastUse := q }
      let models := f.handles 96 8
      let regions := f.handles 32 16
      ∀ a outs c g, f.arg 3 1 ≤ 16 → a0.outEntries f = (a, .ok outs) → a.needCtx fn (f.arg 0 2) = .ok c →
      (∀ h ∈ regions, h ≠ 0 → ((a.part fn).region? h).isSome = true) → (∀ h ∈ models, h ≠ 0 → a.holds fn h = true) →
      c.prog = some g → (∀ o ∈ outs, o.slab < c.slabs.length) → f.arg 2 1 < g.npass →
      (g.classify (f.handles 4 4) = .over → exec (.runPassage fn k) s = .next (a.failCmd f .shapeOver)) ∧
      (g.classify (f.handles 4 4) = .zero →
        let es := g.idents.filter fun e => e.passage == f.arg 2 1
        (∀ e ∈ es, a.identFits fn c outs e = true) →
        ∀ t, es.foldl (fun o e => o.bind fun s => s.writeIdent fn c e) (some a) = some t →
        exec (.runPassage fn k) s = .next ((t.setFree (t.free + 1)).okCmd f 0 (t.identOuts f es outs))) ∧
      (∀ b, g.classify (f.handles 4 4) = .bucket b → c.groupsOk g = true → a.windowsOk fn c g models = true →
        a.heldFull fn (outs.filter fun o => o.host == 0).length = false →
        let need := a.bound fn g.binds models c.slabs
        ∀ s1 s2, a.startLoads fn q need = .ok s1 →
        (if c.st = .out ∧ c.switching = .none ∨ c.switching = .goingOut then s1.switchFor fn q c else some s1) = some s2 →
        let r : RunInfo :=
          { ctx := c.num, passage := f.arg 2 1, bucket := b, w := (nth g.table (b * g.npass + f.arg 2 1)).w,
            shape := (List.range 4).map fun j => if j < g.ndim then f.arg (4 + 4 * j) 4 else 0,
            step := f.arg 20 4, seed := f.arg 24 8, regions := regions, models := models, outs := outs,
            slabs := c.slabs, queued := [], ended := [], wrote := [] }
        exec (.runPassage fn k) s = .next (c.slabs.foldl (fun s k => if s.canQueue q k then s.enqueue q k else s)
          ((s2.touch fn q need).modFlight q fun x => { x with phase := .busy, value := b, run := some r })))) ∧
    (s.ready .fetch fn k = true →
      let a := s.accepting .fetch fn k
      let f := s.sealed .fetch fn k
      ∀ x t, bufOk (f.arg 8 8) (f.arg 16 4) = true → (s.part fn).held? (f.arg 0 8) = some x → a.claimed f x = false →
      x.bytes.length ≤ f.arg 16 4 → a.readHbm x.slab fn (heldPlace fn (f.arg 0 8)) none = (t, none) →
      exec (.fetch fn k) s = .next (((t.release fn (f.arg 0 8)).okCmd f x.bytes.length
        [{ addr := f.arg 8 8, len := f.arg 16 4, bytes := x.bytes, index := 1, epoch := true }]).modFlight s.hub.seq fun g =>
          { g with waits := [x.slab] })) ∧
    (s.ready .resultDrop fn k = true →
      let a := s.accepting .resultDrop fn k
      let f := s.sealed .resultDrop fn k
      ∀ x, (s.part fn).held? (f.arg 0 8) = some x → a.claimed f x = false →
      exec (.resultDrop fn k) s = .next ((a.release fn (f.arg 0 8)).okCmd f))

/-- GROUP_CREATE binds the group to the lowest free queue on each member (R260, R261); GROUP_DESTROY releases its queues
(R262); COPY and FILL move and fill bytes between shares, flat memory and the host (R389).
In the model a seal is accepted and started in its own step (log 5). -/
def Obligations.GroupCopyAndFillCommands : Prop :=
  ∀ (fn k : Nat) (s : State),
    (s.ready .groupCreate fn k = true →
      let a := s.accepting .groupCreate fn k
      let f := s.sealed .groupCreate fn k
      ∀ c, a.groupArgs f = true → a.needCtx fn (f.arg 0 2) = .ok c → (c.st = .resident → a.idle fn c s.hub.seq = true) →
      (∀ e, a.groupRefused c (groupOfArgs f) = some e → exec (.groupCreate fn k) s = .next (a.failCmd f e)) ∧
      (a.groupRefused c (groupOfArgs f) = none →
        exec (.groupCreate fn k) s = .next ((a.bindGroup fn c.num (groupOfArgs f)).okCmd f))) ∧
    (s.ready .groupDestroy fn k = true →
      let a := s.accepting .groupDestroy fn k
      let f := s.sealed .groupDestroy fn k
      ∀ c, f.arg 2 1 ≤ 15 → a.needCtx fn (f.arg 0 2) = .ok c → (c.groups.any fun x => x.lidx == f.arg 2 1) = true →
      a.passaging fn c.num s.hub.seq = false →
      exec (.groupDestroy fn k) s = .next (((a.releaseGroup fn c.num (f.arg 2 1)).modCtx fn c.num fun x =>
        { x with groups := x.groups.filter fun g => g.lidx != f.arg 2 1 }).okCmd f)) ∧
    (s.ready .copy fn k = true →
      let a := s.accepting .copy fn k
      let f := s.sealed .copy fn k
      let n := f.arg 16 8
      ∀ src dst s1 bs s2, n % 512 = 0 → spaceOf (f.arg 0 8) ∈ [2, 3, 5] → spaceOf (f.arg 8 8) ∈ [2, 3, 5] →
      a.copyCtx f = .ok () → a.side f (f.arg 0 8) n = .ok src → a.side f (f.arg 8 8) n = .ok dst →
      a.sideRead f n src = (s1, .ok bs) → s1.sideWrite f bs dst = some s2 →
      exec (.copy fn k) s = .next (s2.okCmd f 0 (match dst with
        | .host x => [{ addr := x, len := n, bytes := bs, index := 2, epoch := false }]
        | _ => []))) ∧
    (s.ready .fill fn k = true →
      let a := s.accepting .fill fn k
      let f := s.sealed .fill fn k
      ∀ dst s1, spaceOf (f.arg 0 8) ∈ [2, 3] → a.copyCtx f = .ok () → a.side f (f.arg 0 8) (f.arg 8 8) = .ok dst →
      a.sideWrite f ((List.range (f.arg 8 8)).map fun i => BitVec.ofNat 8 (f.arg 16 8 / 256 ^ (i % 8))) dst = some s1 →
      exec (.fill fn k) s = .next (s1.okCmd f))

/-- CODEC_OPEN takes its cores and opens a session under a fresh handle (R418, R420); CODEC_CLOSE returns them (R421);
CODEC_ENCODE waits for its frames (R433, R434); CODEC_DECODE waits for its turn, and takes it where the session is free (R421,
R439).
In the model a seal is accepted and started in its own step (log 5).
The sizes of its buffers are the model's reading (log 20), and which free cores it takes is free (log 16). -/
def Obligations.CodecCommands : Prop :=
  ∀ (fn k : Nat) (s : State),
    (s.ready .codecOpen fn k = true →
      let f := s.sealed .codecOpen fn k
      let kind := f.arg 0 1
      ∀ a p, kind ≤ 2 → f.arg 16 4 = 64 → (s.accepting .codecOpen fn k).hostIn f f.cmd.code 1 (f.arg 8 8) 64 = (a, .ok p) →
      (if kind = 0 then encParamOk p else decParamOk p) = true →
      a.coresHeld fn (kind == 0) + codecCores kind p ≤ (if kind = 0 then (a.part fn).q.enc else (a.part fn).q.dec) →
      codecFrames kind p ≤ a.framesFree fn (codecHome kind p) →
      8 + (a.part fn).declaredOn (codecHome kind p) ≤
        (a.part fn).quotaOn (codecHome kind p) Quota.hbm - a.codecReserve fn (codecHome kind p) →
      let cores := (a.freeCores (kind == 0)).take (codecCores kind p)
      exec (.codecOpen fn k) s = .next ((((a.setFree (a.free + 8)).setNextHandle (a.nextHandle + 1)).setCodec
        { cores := a.codec.cores.zipIdx.map fun x =>
            if cores.contains x.2 then { x.1 with holder := a.nextHandle, part := fn, running := false } else x.1,
          sessions := a.codec.sessions ++
            [{ handle := a.nextHandle, part := fn, kind := kind, param := p, cores := cores, home := codecHome kind p,
               filling := [], committed := [], marks := List.replicate 9 0, history := [], running := false, output := [],
               capped := [], done := 0, input := [], consumed := 0, index := 0, damaged := [],
               slots := List.replicate 16 none, waiting := [], ready := [], good := none }] }).okCmd f a.nextHandle)) ∧
    (s.ready .codecClose fn k = true →
      let a := s.accepting .codecClose fn k
      let f := s.sealed .codecClose fn k
      ∀ c, a.ownSession fn (f.arg 0 4) = some c → a.codecInFlight fn c.handle = false →
      exec (.codecClose fn k) s = .next ((a.setCodec
        { cores := s.codec.cores.zipIdx.map fun x =>
            if c.cores.contains x.2 then { x.1 with holder := 0, part := 0, running := false } else x.1,
          sessions := s.codec.sessions.filter fun x => x.handle != c.handle }).okCmd f)) ∧
    (s.ready .codecEncode fn k = true →
      let a := s.accepting .codecEncode fn k
      let f := s.sealed .codecEncode fn k
      ∀ c, 1 ≤ f.arg 4 2 → f.arg 4 2 ≤ 256 → bufOk (f.arg 8 8) (f.arg 16 4) = true → a.sink? fn (f.arg 0 4) = some c →
      (fld (f.arg 24 8) 31 0 = 0 ∨ 4096 ≤ fld (f.arg 24 8) 31 0) → fld (f.arg 24 8) 63 33 = 0 →
      (f.arg 8 8 = 0 → a.heldFull fn 1 = false) →
      exec (.codecEncode fn k) s = .next (a.busyCmd f [c.handle])) ∧
    (s.ready .codecDecode fn k = true →
      let a := s.accepting .codecDecode fn k
      let f := s.sealed .codecDecode fn k
      ∀ x c, f.arg 6 1 < s.slabCount → a.needCtx fn (f.arg 4 2) = .ok x → a.ownSession fn (f.arg 0 4) = some c → c.kind ≠ 0 →
      (x.onSlab? (f.arg 6 1)).isSome = true → f.arg 20 4 * 512 + frMax c.param * decFrameBytes c.param ≤ x.shareBytes →
      x.st = .resident → x.switching = .none →
      let b := a.busyCmd f [c.handle]
      exec (.codecDecode fn k) s = .next (b.nextDecode c.handle b.flights.length))

/-- ATTEST answers a report signed by Geode's key and, outside a session, leaves a pending key (R452, R455). SIGNER_ADD and
SIGNER_REMOVE change one signer entry (R465).
In the model a seal is accepted and started in its own step (log 5).
Signatures and digests are functions that nothing is known of (log 9). -/
def Obligations.AttestAndSignerCommands : Prop :=
  ∀ (fn k : Nat) (s : State),
    (s.ready .attest fn k = true →
      let a := s.accepting .attest fn k
      let f := s.sealed .attest fn k
      let len := 6611 + 80 * (s.part fn).ctxs.length
      let kem := bytesAt (Config.kemPublic s.geode.draws) 0 1568
      let b := a.setGeode { s.geode with draws := s.geode.draws + 1 }
      let body := b.reportBody fn s.hub.seq (bytesAt f.args 16 32) kem
      bufOk (f.arg 0 8) (f.arg 8 4) = true → len ≤ f.arg 8 4 →
      exec (.attest fn k) s = .next ((b.modPart fn fun q => { q with pendKey := some (s.geode.draws, digest body) }).okCmd f len
        [{ addr := f.arg 0 8, len := f.arg 8 4, bytes := body ++ b.geode.signed body, index := 1, epoch := true }])) ∧
    (s.ready .signerAdd fn k = true →
      let f := s.sealed .signerAdd fn k
      ∀ a key, f.arg 8 1 ≤ 7 → nth (s.part fn).signers (f.arg 8 1) = [] →
      (s.accepting .signerAdd fn k).hostIn f f.cmd.code 1 (f.arg 0 8) 2592 = (a, .ok key) →
      exec (.signerAdd fn k) s =
        .next ((a.modPart fn fun q => { q with signers := modAt q.signers (f.arg 8 1) fun _ => key }).okCmd f)) ∧
    (s.ready .signerRemove fn k = true →
      let f := s.sealed .signerRemove fn k
      f.arg 0 1 ≤ 7 → nth (s.part fn).signers (f.arg 0 1) ≠ [] →
      exec (.signerRemove fn k) s = .next (((s.accepting .signerRemove fn k).modPart fn fun q =>
        { q with signers := modAt q.signers (f.arg 0 1) fun _ => [] }).okCmd f))

/-- Under a tenant session a command starts with its argument area opened: it fails with ST_AUTH_FAIL or ST_REPLAY where that
fails; else its counter is used up, and its plaintext is checked and then performed (R456, R460). SESSION_CLOSE then ends the
session that it names (R464).
In the model a seal is accepted and started in its own step (log 5).
The layout of the additional data is the model's reading (log 9). -/
def Obligations.SessionCommandsOpenTheirArguments : Prop :=
  ∀ (c : Cmd) (fn k : Nat) (s : State) (ses : Session), s.starts c fn k = true → (s.part fn).session = some ses →
    let a := s.accepting c fn k
    let f := s.sealed c fn k
    (∀ e, ses.openArgs f = .error e → exec (c.row fn k) s = .next (a.failCmd f e)) ∧
    (∀ ctr args, ses.openArgs f = .ok (ctr, args) →
      let g : Flight := { f with args := args, ctr := ctr, prot := true }
      let b := (a.modPart fn fun q => { q with session := some { ses with used := ctr :: ses.used } }).modFlight s.hub.seq fun _ => g
      (c.argsClean args = false → exec (c.row fn k) s = .next (b.failCmd g .rsvdSet)) ∧
      (c.argsClean args = true → ∀ e, c.barred fn a.hub.acceptService args = some e →
        exec (c.row fn k) s = .next (b.failCmd g e)) ∧
      (c.argsClean args = true → c.barred fn a.hub.acceptService args = none →
        exec (c.row fn k) s = .next (b.proceed g)) ∧
      (c = .sessionClose → c.argsClean args = true → fn < s.parts.length → ses.handle = numAt args 0 4 →
        exec (.sessionClose fn k) s = .next ((((b.abortPart fn s.hub.seq).endSession fn).okCmd g).modFlight s.hub.seq fun x =>
          { x with prot := false })))

/-- SESSION_OPEN of an empty partition with a pending key opens a session under a fresh handle, with no signers (R456, R457);
the fresh HBM key pair and the outcome come once the host has given back the window's lines (R457); outside a session
SESSION_CLOSE fails (R464); DEBUG_UNLOCK takes a good token once and draws a new challenge after a failure (R467, R469).
In the model a seal is accepted and started in its own step (log 5).
That a token of another length is a bad one is the model's reading (log 28). -/
def Obligations.SessionAndDebugCommands : Prop :=
  ∀ (fn k : Nat) (s : State),
    (s.ready .sessionOpen fn k = true →
      let f := s.sealed .sessionOpen fn k
      let q := s.hub.seq
      ∀ d dig a ct, bufOk (f.arg 8 8) (f.arg 16 4) = true → 128 ≤ f.arg 16 4 →
      (s.accepting .sessionOpen fn k).sessionBusy f = false → (s.part fn).pendKey = some (d, dig) →
      (s.accepting .sessionOpen fn k).hostIn f f.cmd.code 1 (f.arg 0 8) 1568 = (a, .ok ct) →
      let okm := bytesAt (Config.shake256 (bytesAt (Config.kemDecaps d ct) 0 32 ++ dig ++
        [0x4E, 0x46, 0x2D, 0x53, 0x45, 0x53, 0x53, 0x49, 0x4F, 0x4E, 0x2D, 0x31]) 64) 0 64
      let h := a.nextHandle
      let ses : Session := { handle := h, kIn := okm.take 32, kOut := okm.drop 32, used := [], saves := [] }
      let receipt := bytesAt (toLe 4 h ++ toLe 1 fn ++ List.replicate 59 0 ++ dig) 0 (f.arg 16 4)
      let b := (((a.setNextHandle (h + 1)).modPart fn fun q =>
        { q with pendKey := none, session := some ses, signers := List.replicate 8 [] }).closeWindow fn).modFlight q fun g =>
          { g with phase := .busy, value := h,
                   outs := [{ addr := f.arg 8 8, len := protSize (f.arg 16 4), index := 0, epoch := true,
                              bytes := sealBuffer ses.kOut fn f.cmd.code 0 0 receipt }] }
      (b.windowClosed fn = true → exec (.sessionOpen fn k) s =
        .next (((b.setGeode { b.geode with draws := b.geode.draws + 1 }).rekey fn b.geode.draws).modFlight q fun g =>
          { g with status := .ok, phase := .done })) ∧
      (b.windowClosed fn = false → exec (.sessionOpen fn k) s = .next b)) ∧
    (s.ready .sessionClose fn k = true →
      exec (.sessionClose fn k) s = .next ((s.accepting .sessionClose fn k).failCmd (s.sealed .sessionClose fn k) .handleBad)) ∧
    (s.ready .debugUnlock fn k = true →
      let f := s.sealed .debugUnlock fn k
      let q := s.hub.seq
      let tries : State × Except St (List Byte) :=
        if f.arg 8 4 = 4691 then (s.accepting .debugUnlock fn k).hostIn f f.cmd.code 1 (f.arg 0 8) 4691
        else (s.accepting .debugUnlock fn k, .ok [])
      let redrawn : State → State := fun a =>
        a.setGeode { a.geode with draws := a.geode.draws + 1, chal := Config.entropy a.geode.draws }
      (∀ a t, tries = (a, .ok t) → a.tokenOk t = true →
        exec (.debugUnlock fn k) s = .next ((((((List.range 15).foldl (fun s i =>
          if (s.part (i + 1)).live then s.destroyPart (i + 1) q else s) a).rekey 0 0).modPart 0 fun q =>
            { q with pendKey := none }).openDebug (numAt t 24 4)).okCmd f)) ∧
      (∀ a t, tries = (a, .ok t) → a.tokenOk t = false →
        exec (.debugUnlock fn k) s = .next ((redrawn a).failCmd f .debugToken)) ∧
      (∀ a e, tries = (a, .error e) → exec (.debugUnlock fn k) s = .next ((redrawn a).failCmd f e)))

/-- RING_SET sets the ring of a function, or the module ring, and empties it (R471, R472); ALARM_ACK acknowledges a code in
the views of its function (R481); INJECT arms a point, or acts at once where the point does, and INJECT_CLEAR disarms (R485,
R487).
In the model a seal is accepted and started in its own step (log 5). The order of RING_SET's checks and what it keeps are the
model's reading (log 32), as is the view of ALARM_ACK (log 31). -/
def Obligations.TalusCommands : Prop :=
  ∀ (fn k : Nat) (s : State),
    (s.ready .ringSet fn k = true →
      let a := s.accepting .ringSet fn k
      let f := s.sealed .ringSet fn k
      let r := if f.arg 10 1 % 2 = 1 then 16 else fn
      (f.arg 0 8 % 64 = 0 → f.arg 0 8 ≠ 0 → 6 ≤ f.arg 8 1 → f.arg 8 1 ≤ 16 → f.arg 9 1 ≤ 127 → (f.arg 10 1 % 2 = 0 ∨ fn = 0) →
        exec (.ringSet fn k) s = .next (((a.modRing r fun g =>
        { g with isSet := true, base := f.arg 0 8, log2n := f.arg 8 1, vector := f.arg 9 1, head := 0, tail := 0,
                 written := 0, blocked := false }).okCmd f).flushDrops r)) ∧
      (f.arg 0 8 = 0 → 6 ≤ f.arg 8 1 → f.arg 8 1 ≤ 16 → f.arg 9 1 ≤ 127 → (f.arg 10 1 % 2 = 0 ∨ fn = 0) →
        exec (.ringSet fn k) s = .next (((a.modRing r fun g =>
          { g with isSet := false, base := 0, head := 0, tail := 0, written := 0, blocked := false }).okCmd f).flushDrops r))) ∧
    (s.ready .alarmAck fn k = true →
      let a := s.accepting .alarmAck fn k
      let f := s.sealed .alarmAck fn k
      (s.talus.canAck (ackViews fn) (f.arg 0 2) = true →
        exec (.alarmAck fn k) s = .next ((a.setTalus (s.talus.ackIn (ackViews fn) (f.arg 0 2))).okCmd f)) ∧
      (s.talus.canAck (ackViews fn) (f.arg 0 2) = false → exec (.alarmAck fn k) s = .next (a.failCmd f .argRange))) ∧
    (s.ready .inject fn k = true →
      let a := s.accepting .inject fn k
      let f := s.sealed .inject fn k
      let rest := s.talus.armed.filter fun x => !(x.fn == fn && x.point == f.arg 0 2)
      (pointScopes (f.arg 0 2)).contains (f.arg 2 1) = true → a.targetExists fn (f.arg 2 1) (f.arg 4 2) = true →
      (f.arg 2 1 = 0 → ((a.ctx? fn (f.arg 4 2)).any fun c => decide (c.st = .faulted)) = false) →
      ((f.arg 0 2 == 0x0B01 || f.arg 0 2 == 0x0B02) && (pathClass (f.arg 0 2) (f.arg 8 8)).isNone) = false →
      (rest.filter fun x => x.fn == fn).length < 16 →
      (immediatePoint (f.arg 0 2) = true → exec (.inject fn k) s =
        .next ((a.actTimes f (f.arg 0 2) (f.arg 2 1) (f.arg 8 8) (if f.arg 3 1 = 0 then 1 else f.arg 3 1)).okCmd f)) ∧
      (immediatePoint (f.arg 0 2) = false → exec (.inject fn k) s = .next ((a.setTalus { s.talus with armed := rest ++
        [{ fn := fn, point := f.arg 0 2, scope := f.arg 2 1, ctx := f.arg 4 2, param := f.arg 8 8,
           left := if f.arg 3 1 = 0 then none else some (f.arg 3 1) }] }).okCmd f))) ∧
    (s.ready .injectClear fn k = true →
      let f := s.sealed .injectClear fn k
      exec (.injectClear fn k) s = .next (((s.accepting .injectClear fn k).setTalus { s.talus with armed := s.talus.armed.filter fun x =>
        !(x.fn == fn && (f.arg 0 2 == 0xFFFF || x.point == f.arg 0 2)) }).okCmd f))

/-- A completion writes its results, then each epoch word, then the record at the next entry of the area, then counts it and
sends the interrupt asked for; the command is no longer in flight (R379, R381, R384). A REST_ENTER that succeeded then takes
the module towards Rest (R500). A command that has no outcome yet stays, and so does one whose function may not send requests
(R340, R347). A command held back starts once nothing holds it (R79, R382, R456).
Interrupts sent are kept in a field of the model's own (log 12). -/
def Obligations.CompletionsAndHeldCommands : Prop :=
  (∀ (fn q : Nat) (s : State) (f : Flight), s.running = true → (s.fn fn).masters = true → s.flight? q = some f → f.fn = fn →
    (f.phase = .done → ∀ s1, (if f.outs = [] then (s, none) else s.hostOpen f) = (s1, none) →
      let g := s1.outsNow f
      let s2 := g.outs.foldl (fun s o =>
        let w := s.stewardWrite fn o.addr (outBytes s g f.cmd.code o)
        if o.epoch then w.stewardWrite fn (o.addr + epochOfs g o) (toLe 8 q) else w) s1
      ∀ s3, s2.atsInjected fn = (false, s3) →
      let x := s2.fn fn
      let n := 2 ^ x.log2n
      let s4 := (s3.stewardWrite fn (x.cqAddr * 64 + 64 * (x.written % n)) (s3.record g (x.written / n % 2 == 0))).modFn fn fun y =>
        { y with tail := (y.tail + 1) % 2 ^ 17, written := y.written + 1 }
      let s5 := if f.irq then s4.sendMsix fn f.vector else s4
      let s6 := s5.setFlights (s5.flights.filter fun y => y.seq != q)
      exec (.commandCompletion fn q) s =
        .next (if f.cmd = .restEnter ∧ f.status = .ok then s6.setHub { s6.hub with rest := .entering } else s6)) ∧
    ((f.phase = .ordered ∨ f.phase = .bme) → exec (.commandCompletion fn q) s = .next s)) ∧
  (∀ (fn q : Nat) (s : State), (s.running = false ∨ (s.fn fn).masters = false) → exec (.commandCompletion fn q) s = .next s) ∧
  (∀ (fn q : Nat) (s : State) (f : Flight), s.flight? q = some f → f.fn = fn → f.phase = .ordered → s.running = true →
    s.hub.rest = .awake → exec (.orderedStart fn q) s = .next (if s.held f then s else s.start f))

/-- Writes to MBX_CQ_HEAD and TAL_HEAD take effect only if they move HEAD forward by at most TAIL - HEAD, modulo 2^17; any
other is ignored (R373). Records dropped for want of room may then be reported (R478). -/
def Obligations.HeadWritesMoveForward : Prop :=
  ∀ (fn : Nat) (v : Word) (s : State), s.barOpen fn = true →
    let h := v.toNat % 2 ^ 17
    let fits : Nat → Nat → Prop := fun head tail => (h + 2 ^ 17 - head) % 2 ^ 17 ≤ (tail + 2 ^ 17 - head) % 2 ^ 17
    (fits (s.fn fn).head (s.fn fn).tail → exec (.mbxCqHeadWrite fn v) s = .next (s.modFn fn fun g => { g with head := h })) ∧
    (¬ fits (s.fn fn).head (s.fn fn).tail → exec (.mbxCqHeadWrite fn v) s = .next s) ∧
    (∀ m : Bool, (m = false ∨ fn = 0) →
      let r := if m then 16 else fn
      let reported : State → State := fun t => if s.hub.stop = none then t.flushDrops r else t
      (fits (s.ring r).head (s.ring r).tail →
        exec (.talHeadWrite fn m v) s = .next (reported (s.modRing r fun g => { g with head := h }))) ∧
      (¬ fits (s.ring r).head (s.ring r).tail → exec (.talHeadWrite fn m v) s = .next (reported s)))

/-- EN of MBX_CQ_CFG is set with a size from 8 to 16, which empties the area, and cleared with nothing in flight; else the
write is ignored (R369, R372). A write of PWR_WAKE in Rest wakes the module (R509), one of GEO_SVN_COMMIT with the running
version raises the fuse and never lowers it (R448, R470). A host write of the base of the completion area is taken while EN
is 0 and discarded while it is 1 (R368, R372); one of the MSI-X table changes its entry and lets vectors out that are no
longer masked (R361); a write into a slot that the Steward does not own changes the bytes the host may write; a write
elsewhere is discarded (R345, R375).
In the model a row whose condition does not hold changes nothing (log 3). -/
def Obligations.RegisterWrites : Prop :=
  (∀ (fn : Nat) (v : Word) (s : State), s.barOpen fn = true →
    let l := fld v.toNat 5 1
    ((s.fn fn).en = false → bitOf v.toNat 0 = true → 8 ≤ l → l ≤ 16 →
      exec (.mbxCqCfgWrite fn v) s = .next (s.modFn fn fun g =>
        { g with en := true, log2n := l, head := 0, tail := 0, written := 0 })) ∧
    ((s.fn fn).en = true → bitOf v.toNat 0 = false → s.inflight fn = 0 →
      exec (.mbxCqCfgWrite fn v) s = .next (s.modFn fn fun g => { g with en := false })) ∧
    ((s.fn fn).en = true → (bitOf v.toNat 0 = true ∨ 1 ≤ s.inflight fn) → exec (.mbxCqCfgWrite fn v) s = .next s)) ∧
  (∀ (v : Word) (s : State), s.running = true → s.port.up = true → s.port.cxl = true →
    (bitOf v.toNat 0 = true → s.hub.rest = .inRest →
      exec (.pwrWakeWrite v) s = .next (s.setHub { s.hub with rest := .waking })) ∧
    (bitOf v.toNat 0 = false → exec (.pwrWakeWrite v) s = .next s) ∧
    (s.hub.service = false → v.toNat = 0x5F4E0000 + s.hub.svnFw.val →
      exec (.geoSvnCommitWrite v) s =
        .next (s.setHub { s.hub with fuse := { s.hub.fuse with svn := max s.hub.fuse.svn s.hub.svnFw } })) ∧
    ((s.hub.service = true ∨ v.toNat ≠ 0x5F4E0000 + s.hub.svnFw.val) → exec (.geoSvnCommitWrite v) s = .next s)) ∧
  (∀ (fn : Nat) (data : List Byte) (s : State), s.barOpen fn = true →
    (data.length = 4 → (s.fn fn).en = false →
      exec (.registerWrite fn 0x1000 data) s =
        .next (s.modFn fn fun g => { g with cqAddr := g.cqAddr / 2 ^ 26 * 2 ^ 26 + numAt data 0 4 / 64 }) ∧
      exec (.registerWrite fn 0x1004 data) s =
        .next (s.modFn fn fun g => { g with cqAddr := g.cqAddr % 2 ^ 26 + numAt data 0 4 * 2 ^ 26 })) ∧
    (data.length = 4 → (s.fn fn).en = true → exec (.registerWrite fn 0x1000 data) s = .next s) ∧
    (∀ k i, k < 128 → i < 4 → data.length = 4 → exec (.registerWrite fn (0x2000 + 16 * k + 4 * i) data) s =
      .next ((s.modFn fn fun g => g.putVec k i (numAt data 0 4)).flushPba fn)) ∧
    (∀ k i, k < 256 → i < 256 → data.length = 4 → i % 4 = 0 → exec (.registerWrite fn (0x10000 + 256 * k + i) data) s =
      .next (s.setSlot fn (((s.fn fn).slot k).write i data))) ∧
    (∀ off, 0x20000 ≤ off → off < 0x400000 → exec (.registerWrite fn off data) s = .next s))

/-- The input out of range is noted at once (R491) and stops the module after the debounce time; before start-up the wait
begins again (R517); outside 30 V to 66 V the hub's own supply goes too, once the others have (R493). PWR_GOOD_IN low past its
filter stops the module (R492), a glitch that the filter ignores does not (R535). After a power or thermal stop the supplies
go, and with them every byte of the slabs and stacks (R493).
A fatal code stops a module that is up or starts: the stop is recorded, THERM_TRIP# falls for a trip, HUB_START keeps the code
of a start-up that failed (R524), and viral is signalled where it is enabled (R364, R371, R483). Of the hub nothing else but
the number the event takes changes. A stopped module does not stop again.
In the model a row whose condition does not hold changes nothing (log 3).
SRC and UNIT of the stop records, and that every event takes a number, are the model's reading (logs 19, 29). -/
def Obligations.InputSupplyAndStops : Prop :=
  (∀ (s : State),
    (∀ mv, 40000 ≤ mv → mv ≤ 60000 →
      exec (.vinExcursion mv) s = .next (s.setPower { s.power with vin := mv, excursion := false })) ∧
    (∀ mv, (mv < 40000 ∨ 60000 < mv) → s.hub.power = .up →
      exec (.vinExcursion mv) s = .next (s.setPower { s.power with vin := mv, excursion := true })) ∧
    (∀ mv, (mv < 40000 ∨ 60000 < mv) → s.hub.power = .starting → s.hub.startup.step = 0 → s.hub.stop = none →
      exec (.vinExcursion mv) s = .next ((s.setPower { s.power with vin := mv, excursion := true }).setHub
        { s.hub with power := .off, startup := Startup.reset })) ∧
    (s.power.excursion = true → s.hub.power = .up → s.hub.stop = none →
      exec .vinDebounceExpire s = .next (s.stopModule .vinRange 0xF 0xF 0xF 0xFFFFFFFF)) ∧
    (s.power.excursion = false → exec .vinDebounceExpire s = .next s) ∧
    (∀ ns, 20000 ≤ ns → s.hub.power = .up →
      exec (.pwrGoodInDeassert ns) s =
        .next ((s.setHub { s.hub with pins := { s.hub.pins with pwrGood := false } }).stopModule .pwrGood 0xF 0xF 0xF 0xFFFFFFFF)) ∧
    (∀ ns, ns ≤ 18000 → exec (.pwrGoodInDeassert ns) s = .next s) ∧
    (∀ x, s.hub.stop = some x → x.suppliesOff = false → x.code ∈ [St.vinRange, .pwrGood, .thermTrip, .hbmTrip] →
      let dark : State → State := fun t => ((t.setHub { t.hub with stop := some { x with suppliesOff := true } }).setParts
        (t.parts.map fun p => { p with flat := List.replicate 8 [], flatFrames := List.replicate 8 [], regions := [],
                                       models := [], held := [], ctxs := [] })).setSlabs
        (t.slabs.map fun b => { b with regs := [], bad := [] })
      (30000 ≤ s.power.vin → s.power.vin ≤ 66000 → exec .supplyShutdown s = .next (dark s)) ∧
      ((s.power.vin < 30000 ∨ 66000 < s.power.vin) → exec .supplyShutdown s = .next ((dark s).loseHub.backToWaiting)))) ∧
  (∀ (s : State) (c : St) (src unit d0 d1 : Nat) (inj : Bool),
    (s.hub.power = .up ∨ s.hub.power = .starting → s.hub.stop = none →
      let t := s.stopModule c src unit d0 d1 inj
      t.hub = { s.hub with
        seq := t.hub.seq,
        stop := some { code := c, src := src, unit := unit, d0 := d0, d1 := d1, inj := inj, suppliesOff := false },
        pins := { s.hub.pins with thermTrip := s.hub.pins.thermTrip || (decide (c = .thermTrip) || decide (c = .hbmTrip)) },
        startup := if s.hub.power = .starting then
            { s.hub.startup with failed := true, code := c.code, elapsed := Nat.min (2 ^ 32 - 1) (s.powTime - s.hub.startup.began) }
          else s.hub.startup } ∧
      s.hub.seq < t.hub.seq ∧ t.port = { s.port with viral := s.port.viral || s.port.viralOn } ∧
      t.slabs = s.slabs ∧ t.parts = s.parts ∧ t.flights = s.flights ∧ t.codec = s.codec ∧ t.geode = s.geode) ∧
    (s.hub.stop ≠ none → s.stopModule c src unit d0 d1 inj = s))

/-- A stack reading of 85 °C or more throttles a stack, at most one level a local ms and down to the third; one of at most 80
°C for 10 local ms lifts a level; each change is an event (R293). A stack at 95 °C stops the module (R295). A junction of 100
°C limits its slab, with an event where it was not limited, and 95 °C or less for 10 local ms lifts the limit (R498, R499);
one of 110 °C, of a slab or the hub, stops the module. A draw at the sustained limit starts an episode that limits the slabs
named, with an event, and one below it does not; the episode ends at 95 percent of the limit (R496, R499).
In the model a row whose condition does not hold changes nothing (log 3).
That a reading which trips passes the lower limit first is the model's reading (log 30). -/
def Obligations.TemperatureAndPowerLimits : Prop :=
  (∀ (s : State), s.running = true → s.talus.armed = [] →
    (∀ k temp, k < 3 * s.slabCount →
      let u := nth (s.slab (k / 3)).hbm (k % 3)
      let now := nth (s.slab (k / 3)).timers 9
      let cool := if temp ≤ 80 then some (u.coolSince.getD now) else none
      let v : Stack :=
        if 85 ≤ temp ∧ (u.level = 0 ∨ u.level < 3 ∧ u.steppedAt + 1000 ≤ now) then
          { u with temp := temp, coolSince := none, level := u.level + 1, steppedAt := now }
        else if temp ≤ 80 ∧ u.level ≠ 0 ∧ u.coolSince.getD now + 10000 ≤ now then
          { u with temp := temp, level := u.level - 1, coolSince := some now }
        else { u with temp := temp, coolSince := cool }
      let t := s.modSlab (k / 3) fun b => { b with hbm := modAt b.hbm (k % 3) fun _ => v }
      (temp < 95 → v.level = u.level → exec (.stackTempReading k temp) s = .next t) ∧
      (temp < 95 → v.level ≠ u.level → exec (.stackTempReading k temp) s =
        .next (t.moduleEvent .hbmThrottle 0 (k / 3) 0x9 (k % 3 + v.level * 256 + temp * 65536) 0 0)) ∧
      (95 ≤ temp → ∃ t x, exec (.stackTempReading k temp) s = .next t ∧ t.hub.stop = some x ∧ x.code = .hbmTrip ∧ x.d0 = k)) ∧
    (∀ u temp, u < s.slabCount →
      let p := s.power
      let cool := if temp ≤ 95 then some ((nth p.coolSince u).getD s.powTime) else none
      let lift := temp ≤ 95 ∧ (nth p.coolSince u).getD s.powTime + 10000 ≤ s.powTime
      let read : (Bool → Bool) → State := fun g => s.setPower
        { p with tj := modAt p.tj u fun _ => temp, coolSince := modAt p.coolSince u fun _ => cool, limitTherm := modAt p.limitTherm u g }
      (temp < 100 → ¬ lift → exec (.junctionTempReading u temp) s = .next (read fun b => b)) ∧
      (lift → exec (.junctionTempReading u temp) s = .next (read fun _ => false)) ∧
      (100 ≤ temp → temp < 110 → nth p.limitTherm u = true → exec (.junctionTempReading u temp) s = .next (read fun _ => true)) ∧
      (100 ≤ temp → temp < 110 → nth p.limitTherm u = false →
        exec (.junctionTempReading u temp) s = .next ((read fun _ => true).powerLimitEvent true false)) ∧
      (110 ≤ temp → ∃ t x, exec (.junctionTempReading u temp) s = .next t ∧ t.hub.stop = some x ∧ x.code = .thermTrip ∧ x.d0 = u)) ∧
    (∀ temp,
      (temp < 110 → exec (.junctionTempReading 8 temp) s = .next (s.setPower { s.power with tj := modAt s.power.tj 8 fun _ => temp })) ∧
      (110 ≤ temp → ∃ t x, exec (.junctionTempReading 8 temp) s = .next t ∧ t.hub.stop = some x ∧ x.code = .thermTrip ∧ x.d0 = 0xF))) ∧
  (∀ (s : State) (w mask : Nat), s.running = true → s.talus.armed = [] →
    (w < s.sustained ∨ s.power.episode = true → exec (.drawLimitReached w mask) s = .next (s.setPower { s.power with draw := w })) ∧
    (s.sustained ≤ w → s.power.episode = false → exec (.drawLimitReached w mask) s = .next ((s.setPower
      { s.power with draw := w, episode := true,
                     limitPower := (List.range 8).map fun k => decide (k < s.slabCount) && bitOf mask k }).powerLimitEvent false false)) ∧
    (s.power.episode = true → w * 100 ≤ s.sustained * 95 → exec (.powerLimitEpisodeEnd w) s = .next (s.setPower
      { s.power with draw := w, episode := false, limitPower := List.replicate 8 false })) ∧
    (s.sustained * 95 < w * 100 → exec (.powerLimitEpisodeEnd w) s = .next s))

/-- A load more than 1.10 times the capture load puts a domain on its factory tables, with an event unless it is on them
(R505); a recalibration starts after 5 local ms in fallback and ends with a new record, or with the event of a failure
(R506). -/
def Obligations.CalibrationEvents : Prop :=
  ∀ (s : State) (d load : Nat), s.running = true → s.talus.armed = [] → s.domainExists d = true →
    let x := nth s.power.domains d
    (load * 100 ≤ x.capture * 110 → exec (.calLoadSample d load) s =
      .next (s.modDomain d fun x => { x with load := load, fallback := false, recal := none })) ∧
    (x.capture * 110 < load * 100 → x.fallback = true → exec (.calLoadSample d load) s =
      .next (s.modDomain d fun x => { x with load := load, fallback := true, recal := x.recal.map (Nat.min load) })) ∧
    (x.capture * 110 < load * 100 → x.fallback = false → d < s.power.domains.length →
      exec (.calLoadSample d load) s = .next ((s.modDomain d fun x =>
        { x with load := load, fallback := true, since := s.powTime, recal := x.recal.map (Nat.min load) }).moduleEvent
          .calStale 0 0xF 0xF (domainCode d) x.capture load)) ∧
    (s.hub.rest = .awake → x.fallback = true → x.recal = none → x.since + 5000 ≤ s.powTime →
      exec (.recalStart d) s = .next (s.modDomain d fun x => { x with recal := some x.load })) ∧
    (∀ m, x.recal = some m → exec (.recalEnd d true) s = .next (s.modDomain d fun x =>
      { x with capture := m, recal := none, fallback := loadOver x.load m, since := s.powTime })) ∧
    (∀ m, x.recal = some m → d < s.power.domains.length → exec (.recalEnd d false) s =
      .next ((s.modDomain d fun x => { x with recal := none, since := s.powTime }).moduleEvent .calStale 0 0xF 0xF
        (domainCode d + 256) x.capture x.load))

/-- Rest is entered after the REST_ENTER record, abandoning recalibrations (R500, R503); a low pulse of WAKE# that passes its
filter wakes the module and one that does not leaves it (R502, R535); at the end of the wake the slots that wait are taken, in
function and slot order, and the host's requests are served (R377, R502). Service mode begins when every earlier command has
completed, disarms every point but 0x0501, and completes its SERVICE_ENTER (R191, R487, R526).
In the model a row whose condition does not hold changes nothing (log 3). -/
def Obligations.RestAndServiceTransitions : Prop :=
  ∀ (s : State), s.running = true →
    (s.hub.rest = .entering → exec .restEntryEnd s = .next ((s.setHub { s.hub with rest := .inRest }).setPower
      { s.power with domains := s.power.domains.map fun x => { x with recal := none } })) ∧
    (∀ ns, 1000 ≤ ns → s.hub.rest = .inRest → exec (.wakePin ns) s = .next (s.setHub { s.hub with rest := .waking })) ∧
    (∀ ns, ns ≤ 800 → exec (.wakePin ns) s = .next s) ∧
    (s.hub.rest = .waking →
      let taken := (List.range 16).foldl (fun s i =>
        let own := ((s.fn i).slots.filter fun b => decide (b.state = .owned)).map Slot.idx
        (sortBy id own).foldl (fun s k => s.take i k) s) (s.setHub { s.hub with rest := .awake })
      exec .restWakeEnd s =
        .next (taken.port.hostWaits.foldl (fun s w => s.hostAccess w.1 w.2) (taken.setPort { taken.port with hostWaits := [] }))) ∧
    (∀ f, s.flights.find? (fun f => decide (f.cmd = .serviceEnter) && decide (f.phase = .busy)) = some f →
      (∀ g ∈ s.flights, f.seq ≤ g.seq) →
      exec .serviceModeSwitch s = .next (((s.setHub { s.hub with service := true }).setTalus
        { s.talus with armed := s.talus.armed.filter fun a => a.point == 0x0501 }).okCmd f)) ∧
    (∀ f, s.flights.find? (fun f => decide (f.cmd = .serviceEnter) && decide (f.phase = .busy)) = some f →
      (∃ g ∈ s.flights, g.seq < f.seq) → exec .serviceModeSwitch s = .next s)

/-! ## Slabs: passages, issue and the control unit -/

/-- A held passage enters a slab's queue in SEQ order (R79); the passage at the head of the queue is selected when its
context is resident and hot and every line before it has issued, and its shape record is written to region kind 3 (R80,
R332).
In the model a row whose condition does not hold changes nothing (log 3). -/
def Obligations.PassagesEnterTheSlab : Prop :=
  ∀ (slab : Nat) (s : State), s.running = true →
    (∀ f, leastBy Flight.seq (s.flights.filter fun g => decide (g.phase = .busy) && g.run.any fun r =>
        r.slabs.contains slab && !r.queued.contains slab) = some f → s.canQueue f.seq slab = true →
      exec (.passageEnqueue slab) s = .next ((s.modSlab slab fun b => { b with passq := b.passq ++ [f.seq] }).modFlight f.seq fun g =>
        { g with run := g.run.map fun r => { r with queued := r.queued ++ [slab] } })) ∧
    (∀ q rest f r c g, (s.slab slab).passq = q :: rest → s.flight? q = some f → f.run = some r → s.ctx? f.fn r.ctx = some c →
      c.prog = some g →
      (s.selectable slab f r c g = true → (∀ a ∈ s.talus.armed, a.point ≠ 0x0501) →
        let img := c.slabs.idxOf slab
        let l : Live :=
          { seq := f.seq, part := f.fn, ctx := r.ctx, img := img
            first := nth (nth g.table (r.bucket * g.npass + r.passage)).lines img, pc := 0, loops := [], looprWait := 0
            looprCount := none, allIssued := false, tokens := List.replicate 64 0, count := 0, cursors := List.replicate 16 0
            diag := !s.hub.service, wrote := [] }
        let t := s.modSlab slab fun b => { b with passq := rest, live := b.live ++ [l] }
        exec (.passageSelect slab) s = .next (match g.region? 3 img with
          | some (a, _) => t.writeShare f.fn c.num slab a
              ((r.shape.map (toLe 4)).flatten ++ toLe 1 r.bucket ++ List.replicate 47 0)
          | none => t)) ∧
      (s.selectable slab f r c g = false → exec (.passageSelect slab) s = .next s))

/-- LINE_ISSUE: a line whose slots pass the issue checks enters their queues with the next identities, and its effect on the
context's slots is recorded (R52, R60, R104, R109, R156); one that fails a check faults its context with the check's code
(R105, R145, R174); one that finds a queue full, or a list open on the slots it names, waits (R52, R544); a LOOPR issues
alone, and its body is skipped on a count of 0 (R545).
The read of the line draws one free value, for the place of a bit that an injection would flip (log 11). -/
def Obligations.LinesIssueInOrder : Prop :=
  ∀ (slab : Nat) (s : State) (l : Live) (c : Ctx) (g : Program), s.running = true → s.clean slab →
    (s.slab slab).live.find? (fun l => !l.allIssued) = some l → l.looprWait = 0 → s.ctx? l.part l.ctx = some c → c.prog = some g →
    let ln := leNat (Memory.read (s.share l.part l.ctx slab) (l.lineAddr g) 64)
    let t := nextFree s 1
    let b := s.slab slab
    let slots := ((c.onSlab? slab).map CtxSlab.slots).getD []
    (∀ us left, l.plan ln = .slots us left →
      let waits := us.any (fun u => 16 ≤ (nth b.queues u).length) ||
        (us.any (fun u => u < 2 && slotOp u (lineSlot ln u) != 0) && b.ops.any fun p => p.part == l.part && p.ctx == l.ctx && b.listOpen p)
      let i : Issue := { line := ln, units := us }
      let os := us.zipIdx.map fun x => opOf l ln x.1 (b.nextId + x.2) b.nextId (i.extent slots)
      (waits = true → exec (.lineIssue slab) s = .next t) ∧
      (waits = false → t.issueFails l.part c g l.seq slab i slots = none → exec (.lineIssue slab) s = .next
        (((t.modSlab slab fun x => { x.enqueueOps os with nextId := x.nextId + us.length + 1 }).modCtx l.part l.ctx fun c =>
          c.modSlab slab fun d => { d with slots := i.effect g d.slots }).modLive slab l.seq fun l => l.advance ln left)) ∧
      (∀ u code, waits = false → t.issueFails l.part c g l.seq slab i slots = some (u, code) → exec (.lineIssue slab) s =
        .next (t.contextFault l.part l.ctx (lineFault code slab (opOf l ln u 0 0 (0, 0)) 0x7)))) ∧
    (l.plan ln = .loopr → (s.queue slab 7).length < 16 → exec (.lineIssue slab) s = .next
      ((t.modSlab slab fun x => { x.enqueueOps [opOf l ln 7 b.nextId b.nextId (0, 0)] with nextId := b.nextId + 1 }).modLive
        slab l.seq fun l => { l with looprWait := b.nextId })) ∧
    (l.plan ln = .skip →
      let (n, last) := bodyEnd (t.textFrom l g slab) 0
      exec (.lineIssue slab) s = .next (t.modLive slab l.seq fun l =>
        { l with pc := l.pc + (if last then 0 else n), allIssued := last, looprCount := none }))

/-- The control unit: NOP, LOOP, ENDLOOP and TWAIT take their tokens and have no other effect (R55, R67, R71); LOOPR reads the
count register and faults over its limit (R69); FENCE also waits for every earlier operation of its context on the slab.
In the model a row whose condition does not hold changes nothing (log 3). -/
def Obligations.ControlOperations : Prop :=
  ∀ (slab : Nat) (s : State) (o : OpE),
    (∀ u, s.firing slab u 0 = some o → exec (.nop slab u) s = .next (s.fire slab o)) ∧
    (s.firing slab 7 1 = some o → exec (.loopBegin slab) s = .next (s.fire slab o)) ∧
    (s.firing slab 7 2 = some o → exec (.loopEnd slab) s = .next (s.fire slab o)) ∧
    (s.firing slab 7 4 = some o → exec (.twait slab) s = .next (s.fire slab o)) ∧
    (∀ l, s.firing slab 7 3 = some o → s.live? slab o.seq = some l → slab < s.slabs.length →
      (l.count ≤ ctlArg o.bits.toNat → exec (.loopr slab) s = .next ((s.fire slab o).modLive slab o.seq fun l =>
        { l with looprWait := 0, looprCount := some l.count })) ∧
      (ctlArg o.bits.toNat < l.count → exec (.loopr slab) s = .next ((s.fire slab o).contextFault o.part o.ctx
        (lineFault .loopOver slab o o.unit)))) ∧
    (s.firing slab 7 5 = some o →
      exec (.fence slab) s = .next (if (s.slab slab).ops.any fun p => p.sameCtx o && decide (p.lineId < o.lineId) then s
        else s.fire slab o))

/-- The rows of unit operations, with their units and opcodes. While the head of the unit's queue is not that operation, or
waits for a token or for an earlier operation, the row changes nothing (R52, R66, R71, R106, R168, R169).
In the model a row whose condition does not hold changes nothing (log 3). -/
def Obligations.UnitOperationsWait : Prop :=
  ∀ (slab : Nat) (s : State),
    (∀ r ∈ ([(.mm slab, 0, 1), (.mmList slab, 0, 2), (.mmArrive slab, 0, 4), (.accClear slab, 1, 1), (.accSpill slab, 1, 2),
        (.accResume slab, 1, 3), (.accSatclr slab, 1, 6), (.vAdd slab, 2, 0x01), (.vSub slab, 2, 0x02), (.vMul slab, 2, 0x03),
        (.vFma slab, 2, 0x04), (.vMax slab, 2, 0x05), (.vMin slab, 2, 0x06), (.vAbs slab, 2, 0x07), (.vNeg slab, 2, 0x08),
        (.vScale slab, 2, 0x09), (.vAddi slab, 2, 0x0A), (.vCvt slab, 2, 0x0C), (.vDither slab, 2, 0x0D),
        (.vGadd slab, 2, 0x0E), (.vRsum slab, 2, 0x10), (.vRmax slab, 2, 0x11), (.vRwel slab, 2, 0x12),
        (.vArgmax slab, 2, 0x13), (.vDwconv slab, 2, 0x30), (.vGconv slab, 2, 0x31), (.vLd slab false, 2, 0x40),
        (.vLd slab true, 3, 0x40), (.vSt slab false, 2, 0x41), (.vSt slab true, 3, 0x41), (.vbExp slab, 3, 0x01),
        (.vbLog slab, 3, 0x02), (.vbRsqrt slab, 3, 0x03), (.vbRcp slab, 3, 0x04), (.vbSigmoid slab, 3, 0x05),
        (.vbTanh slab, 3, 0x06), (.vbGelu slab, 3, 0x07), (.vbSilu slab, 3, 0x08), (.vbSin slab, 3, 0x09),
        (.vbCos slab, 3, 0x0A), (.vbCompress slab, 3, 0x10), (.vbExpand slab, 3, 0x11), (.vbPermute slab, 3, 0x12),
        (.vbGumbel slab, 3, 0x20), (.vbCrop slab, 3, 0x30), (.xfPaged slab, 4, 2), (.flDraw slab, 6, 1),
        (.loopBegin slab, 7, 1), (.loopEnd slab, 7, 2), (.loopr slab, 7, 3), (.twait slab, 7, 4), (.fence slab, 7, 5)] :
        List (Instr × Nat × Nat)), s.firing slab r.2.1 r.2.2 = none → exec r.1 s = .next s) ∧
    (∀ r ∈ ([(.mmChain slab, 0, 3), (.vEpi slab, 2, 0x20), (.vOsm slab, 2, 0x21)] : List (Instr × Nat × Nat)),
      s.joining slab r.2.1 r.2.2 = none → exec r.1 s = .next s)

/-- OP_END: an operation that has done its work leaves the started ones; its token goes up by one, and over 15 its context
faults (R72, R73); a VB_COMPRESS writes the count register (R170), an MM_ARRIVE counts as a read of its unit (R278). -/
def Obligations.OperationsEndWithATokenEach : Prop :=
  ∀ (slab unit idx : Nat) (s : State) (o : OpE), s.running = true →
    ((s.slab slab).started.filter fun o => o.unit == unit)[idx]? = some o →
    (unit ≠ 5 ∨ o.op = 0) → (s.slab slab).canEnd o = true →
    let b := (s.modSlab slab fun b =>
      { b with started := b.started.filter (fun p => p.id != o.id), lists := b.lists.filter fun l => l.id != o.id }).modLive slab o.seq
        fun l => { l with wrote := l.wrote.filter fun w => !(w.op == o.id && w.kind == 4) }
    let c := if unit = 3 ∧ o.op = 0x10 then b.modLive slab o.seq fun l => { l with count := o.ext.1 } else b
    let d := match (if unit = 0 ∧ o.op = 4 then c.groupQueue? o.part o.ctx (arrGroup o.bits.toNat) slab else none) with
      | some (_, q) => c.modQueue slab q fun k => { k with gather := k.gather.map fun t => t.addRead (arrChunk o.bits.toNat) }
      | none => c
    (slotEmit unit o.bits.toNat = none → exec (.opEnd slab unit idx) s = .next d) ∧
    (∀ t, slotEmit unit o.bits.toNat = some t →
      (((d.live? slab o.seq).any fun l => decide (15 ≤ nth l.tokens t)) = false → exec (.opEnd slab unit idx) s =
        .next (d.modLive slab o.seq fun l => { l with tokens := modAt l.tokens t (· + 1) })) ∧
      (((d.live? slab o.seq).any fun l => decide (15 ≤ nth l.tokens t)) = true → exec (.opEnd slab unit idx) s =
        .next (d.contextFault o.part o.ctx (lineFault .tokenOver slab o o.unit))))

/-- A passage whose lines have all issued and whose operations have all ended leaves the slab, and on its last slab the run
finishes (R78, R392); with a token left, or a slot still gated, its context faults instead (R75, R157). A passage that stalls
faults its context, once every passage selected before it on the slab has ended and no collective of it waits (R83).
What transfers have written to other shares is visible by then (R74, R78).
In the model a row whose condition does not hold changes nothing (log 3).
That tokens are tested before gates is the model's reading (log 23). -/
def Obligations.PassagesEnd : Prop :=
  ∀ (slab q : Nat) (s : State) (l : Live), s.live? slab q = some l → s.running = true →
    (l.allIssued = true → (s.slab slab).ops.any (fun o => o.seq == q) = false → s.endWithheld l = false →
      let gated := ((s.ctx? l.part l.ctx).bind fun c => c.onSlab? slab).any fun d => d.slots.any fun a => a.gated
      ((∀ t ∈ l.tokens, t = 0) → gated = false →
        let t := (s.modSlab slab fun b =>
          { b with live := b.live.filter fun x => x.seq != l.seq, owner := if b.owner = some l.seq then none else b.owner }).modFlight
            l.seq fun f => { f with run := f.run.map fun r =>
              { r with ended := r.ended ++ [slab], wrote := l.wrote.filter (fun w => w.kind != 4) ++ r.wrote } }
        (∀ f r, t.flight? l.seq = some f → f.run = some r →
          ((r.slabs.all fun k => r.ended.contains k) = true →
            exec (.passageEnd slab q) s = .next ((t.landAll l.seq).finishRun f r)) ∧
          ((r.slabs.all fun k => r.ended.contains k) = false → exec (.passageEnd slab q) s = .next t))) ∧
      ((∃ t ∈ l.tokens, t ≠ 0) → exec (.passageEnd slab q) s =
        .next ((s.spoil l).contextFault l.part l.ctx (passageFault .tokenLeft slab l false))) ∧
      ((∀ t ∈ l.tokens, t = 0) → gated = true → exec (.passageEnd slab q) s =
        .next (s.contextFault l.part l.ctx (passageFault .gateOrder slab l false)))) ∧
    ((l.allIssued = false ∨ (s.slab slab).ops.any (fun o => o.seq == q) = true) → exec (.passageEnd slab q) s = .next s) ∧
    ((s.slab slab).watched q = true → (∀ a ∈ s.talus.armed, a.point ≠ 0x0401) →
      exec (.passageStall slab q) s = .next (s.contextFault l.part l.ctx (passageFault .passageStall slab l false))) ∧
    ((s.slab slab).watched q = false → exec (.passageStall slab q) s = .next s)

/-! ## Slabs: the array, the accumulators and the vector pipes -/

/-- What the rows of M streamed elements and a tile leave in a slot: each element is the sum of its chunks in order, each
chunk summed exactly and rounded once into the slot (R97 to R100); its SAT bit is set by a saturation; the context's other
slots, every share and every other partition stay. -/
def Obligations.ChunkSumsGoIntoTheSlot : Prop :=
  ∀ (s : State) (slab : Nat) (o : OpE) (a w : Operand) (t : Target), s.talus.armed = [] →
    let x := o.bits.toNat
    let n := shapeN (arrShape x)
    let rs := (List.range (arrM x * n)).map fun e =>
      outElement a.cells w.cells (arrShape x) t.acc (Memory.get (s.slot o.part o.ctx slab t.slot).vals (t.r0 * n + e)) (e / n) (e % n)
    let r := s.multiply slab o a w t
    r.parts = (s.modSlot o.part o.ctx slab t.slot fun b =>
      { b with vals := Memory.write b.vals (t.r0 * n) (rs.map Prod.fst), sat := b.sat || rs.any fun r => bitOf r.2 0 }).parts ∧
    (s.diagOf slab o.seq = false → r.host = s.host) ∧ r.port = s.port ∧ r.codec = s.codec ∧ r.geode = s.geode ∧
    (∀ k, k ≠ slab → r.slab k = s.slab k) ∧ (r.slab slab).regs = (s.slab slab).regs

/-- MM, MM_ARRIVE and MM_CHAIN multiply the streamed rows (from the share, a gathered ring unit, or the drained slot) with
the weights into their slot (R97, R146, R152, R154, R279). A bad expansion header faults (R135), as does an MM_ARRIVE
without its gather.
MM_LIST reads its header and becomes the list in progress, and a bad header faults; each entry read runs the product of
the entry's operands into the entry's slot, whose extent and count take the write in, and a bad entry faults with its number
(R112, R113, R544).
In the model an operation's data moves when it fires (log 6). -/
def Obligations.ArrayProducts : Prop :=
  (∀ (slab : Nat) (s : State) (o : OpE), s.clean slab →
    let x := o.bits.toNat
    let a := s.fire slab o
    let d := (s.progOf o).bind fun g => fuseAt g 0 x
    let w := arrW x * 512
    let into : Target := { slot := arrSlot x, acc := arrAcc x, r0 := 0 }
    let badHeader : State → Bool := fun s => arrWfmt x == 7 && s.expandFails slab o w (shapeK (arrShape x)) (shapeN (arrShape x))
    (s.firing slab 0 1 = some o →
      (badHeader a = false → ∃ n, exec (.mm slab) s =
        .next ((nextFree a n).multiply slab o (a.streamed slab o d (arrA x * 512)) (a.opWeights slab o w) into)) ∧
      (badHeader a = true → exec (.mm slab) s = .next (a.contextFault o.part o.ctx (lineFault .expHeader slab o o.unit)))) ∧
    (s.firing slab 0 4 = some o →
      (∀ g q t, s.groupQueue? o.part o.ctx (arrGroup x) slab = some (g, q) → a.gatherAt? slab q = some t → arrChunk x < t.total →
        badHeader a = false → ∃ n, exec (.mmArrive slab) s = .next ((nextFree a n).multiply slab o
          (a.streamed slab o d (g.unitAddr t.chunks (arrChunk x))) (a.opWeights slab o w) into)) ∧
      (s.groupQueue? o.part o.ctx (arrGroup x) slab = none →
        exec (.mmArrive slab) s = .next (a.contextFault o.part o.ctx (lineFault .collDesc slab o o.unit)))) ∧
    (s.joining slab 0 3 = some o →
      let b := s.join slab o
      ∀ q, b.drainOf slab o = some q → badHeader b = false → ∃ n, exec (.mmChain slab) s =
        .next ((nextFree b n).multiply slab o (b.chained slab o d (accSlot q.bits.toNat)) (b.opWeights slab o w) into))) ∧
  (∀ (slab : Nat) (s : State) (o : OpE), s.clean slab →
    let x := o.bits.toNat
    let a := s.fire slab o
    let h := leNat (a.opBytes slab o (arrA x * 512) 16)
    let p := fld h 7 0 + 1
    let can := fun n => a.readable o.part o.ctx o.seq slab (arrA x * 512) n
    (s.firing slab 0 2 = some o →
      (can 16 = true → fld h 127 8 = 0 → can (16 + 16 * p) = true → ∃ n, exec (.mmList slab) s =
        .next ((nextFree a n).modSlab slab fun b =>
          { b with lists := b.lists ++ [{ id := o.id, total := p, read := 0, slots := [], flags := 0, births := 0, pos := 0, inj := false }] })) ∧
      (can 16 = false → exec (.mmList slab) s = .next (a.contextFault o.part o.ctx (lineFault .listEntry slab o o.unit)))) ∧
    (∀ r, (s.slab slab).lists.find? (fun l => decide (l.read < l.total)) = some r →
      (s.slab slab).started.find? (fun p => p.id == r.id) = some o → s.running = true →
      let e := listEntryOf (leNat (s.opBytes slab o (arrA x * 512 + 16 + 16 * r.read) 16))
      let d := (s.progOf o).bind fun g => fuseAt g 0 x
      let k := shapeK (arrShape x)
      let n := shapeN (arrShape x)
      ((s.slab slab).slotFree o e.slot = false → exec (.mmListEntryRead slab) s = .next s) ∧
      ((s.slab slab).slotFree o e.slot = true →
        (∀ code, s.entryFails slab o d e = some code → ∃ m, exec (.mmListEntryRead slab) s =
          .next ((nextFree s m).contextFault o.part o.ctx (lineFault code slab o o.unit r.read))) ∧
        (s.entryFails slab o d e = none →
          let bad := arrWfmt x == 7 && s.expandFails slab o (e.w * 512) k n
          (bad = true → ∃ m, exec (.mmListEntryRead slab) s =
            .next ((nextFree s m).contextFault o.part o.ctx (lineFault .expHeader slab o o.unit r.read))) ∧
          (bad = false →
            let w : ArrWrite := { slot := e.slot, acc := e.acc, cols := n, rows := e.row0 + arrM x, chunks := shapeChunks (arrShape x) }
            let b := (s.modSlot o.part o.ctx slab e.slot fun b => b.after w).modSlab slab fun b =>
              { b with lists := modWhere b.lists (fun l => l.id == r.id) fun l => { l with read := l.read + 1, slots := e.slot :: l.slots } }
            (arrWfmt x == 7 && b.expandFails slab o (e.w * 512) k n) = false →
            ∃ m, exec (.mmListEntryRead slab) s = .next ((nextFree b m).multiply slab o (b.streamed slab o d (e.a * 512))
              (b.opWeights slab o (e.w * 512)) { slot := e.slot, acc := e.acc, r0 := e.row0 }))))))

/-- ACC_CLEAR empties its slot and clears SAT (R104), ACC_SATCLR clears SAT alone; ACC_SPILL adds the slot into its long-sum
entry and leaves it +0, ACC_RESUME takes hi back (R110, R111).
In the model an operation's data moves when it fires (log 6). -/
def Obligations.AccumulatorOperations : Prop :=
  ∀ (slab : Nat) (s : State) (o : OpE), s.clean slab →
    let k := accSlot o.bits.toNat
    let a := s.fire slab o
    let e := a.entryAddr slab o
    let hi := rowWordsOf (a.opBytes slab o e (2 ^ 21)) slotValues
    let lo := rowWordsOf (a.opBytes slab o (e + 2 ^ 21) (2 ^ 21)) slotValues
    (s.firing slab 1 1 = some o → ∃ t, exec (.accClear slab) s = .next t ∧
      t.parts = (s.modSlot o.part o.ctx slab k fun b => { b with vals := [], sat := false }).parts ∧ t.host = s.host ∧
      t.flights = s.flights) ∧
    (s.firing slab 1 6 = some o → exec (.accSatclr slab) s = .next (a.modSlot o.part o.ctx slab k fun b => { b with sat := false })) ∧
    (s.firing slab 1 2 = some o → s.diagOf slab o.seq = false →
      let vs := Memory.read (s.slot o.part o.ctx slab k).vals 0 slotValues
      let ps := (hi.zip (lo.zip vs)).map fun x => spillOne x.1 x.2.1 x.2.2
      ∃ t, exec (.accSpill slab) s = .next t ∧ t.host = s.host ∧
        t.parts = (((s.writeShare o.part o.ctx slab e (wordBytes (ps.map Pair.hi))).writeShare o.part o.ctx slab (e + 2 ^ 21)
          (wordBytes (ps.map Pair.lo))).modSlot o.part o.ctx slab k fun b =>
            { b with vals := [], sat := b.sat || ps.any fun p => bitOf p.flags 0 }).parts) ∧
    (s.firing slab 1 3 = some o → ∃ t, exec (.accResume slab) s = .next t ∧ t.host = s.host ∧ t.flights = s.flights ∧
      t.parts = ((s.writeShare o.part o.ctx slab e (wordBytes (List.replicate slotValues 0))).modSlot o.part o.ctx slab k fun b =>
        { b with vals := Memory.cells 0 hi }).parts)

/-- ACC_DRAIN and ACC_GATE fire with their consumer, when the tokens of both are there and both units are free, and not
before (R52, R76): both leave their queues. The consumer, V_EPI or V_OSM, then takes the drained values through its
descriptor (R149, R155, R159 to R161).
In the model an operation's data moves when it fires (log 6). -/
def Obligations.CoupledPairs : Prop :=
  ∀ (slab : Nat) (s : State) (o q : OpE),
    ((s.queue slab 1).head? = some o → o.coupled = true → s.partner? slab o = some q →
      ∀ r ∈ ([(.accDrain slab, 4), (.accGate slab, 5)] : List (Instr × Nat)), o.op = r.2 →
      let ws := o.waits ++ q.waits
      let free := s.canFire slab o ws && (s.slab slab).unitFree q
      (free = true → exec r.1 s = .next ((s.modSlab slab fun b =>
        (b.begin o).begin { q with fired := true }).modLive slab o.seq fun l => l.takeTokens ws)) ∧
      (free = false → exec r.1 s = .next s)) ∧
    (let b := s.join slab o
     let d := (s.progOf o).bind fun g => fuseAt g 2 o.bits.toNat
     let vals := Memory.read (s.slot o.part o.ctx slab (accSlot q.bits.toNat)).vals 0 (o.ext.1 * o.ext.2)
     s.clean slab → b.drainOf slab o = some q →
      (s.joining slab 2 0x20 = some o →
        ((d.any fun f => f.kind == 3) = false → ∃ n, exec (.vEpi slab) s = .next ((nextFree b n).epilogue slab o d vals)) ∧
        (∀ f, d = some f → f.kind = 3 → ∃ n, exec (.vEpi slab) s = .next ((nextFree b n).statPass slab o f vals))) ∧
      (s.joining slab 2 0x21 = some o → ∀ f, d = some f →
        (f.kind = 6 → ∃ n, exec (.vOsm slab) s = .next ((nextFree b n).osmScore slab o f vals)) ∧
        (f.kind ≠ 6 → ∃ n, exec (.vOsm slab) s = .next ((nextFree b n).osmOut slab o f vals))))

/-- The element-wise operations of vector A: each element of the destination band is the operation of the elements of SRC1,
of the second operand that BMODE chooses, and of the old destination (R175 to R178). The result of a band operation goes to
its registers and nowhere else; its flags go to the FLAGS of its run, and in service mode nothing is reported (R130, R166,
R193).
In the model an operation's data moves when it fires (log 6). -/
def Obligations.ElementWiseOperations : Prop :=
  (∀ (s : State) (slab : Nat) (o : OpE) (g : Nat) (rs : List Res), s.talus.armed = [] → s.diagOf slab o.seq = false →
    s.putBand slab o g rs = (s.putRegs slab g (rs.map Prod.fst)).modFlight o.seq fun f =>
      { f with flags := f.flags ||| (rs.foldl (fun a r => a ||| r.2) 0) % 16 }) ∧
  ∀ (slab : Nat) (s : State) (o : OpE),
    let x := o.bits.toNat
    let a := s.fire slab o
    let reg : Nat → Word := fun k => Memory.get (a.slab slab).regs k
    let num := bitOf (vAux x) 2
    let second : Nat → Word := fun e =>
      match fld (vAux x) 1 0 with
      | 0 => reg (vSrc2 x * 1024 + e)
      | 1 => widen bf16 (vImm x)
      | 2 => reg (vSrc2 x * 1024 + (e / 32 % 32 * 32 + fld (vAux x) 7 3))
      | _ => reg (vSrc2 x * 1024 + (e / 1024 * 1024 + e % 32))
    ∀ r ∈ ([(.vAdd slab, 0x01, fun v w _ => fAdd v w), (.vSub slab, 0x02, fun v w _ => fSub v w),
        (.vMul slab, 0x03, fun v w _ => fMul v w), (.vFma slab, 0x04, fun v w d => fFma v w d),
        (.vMax slab, 0x05, fun v w _ => (fMax num v w, 0)), (.vMin slab, 0x06, fun v w _ => (fMin num v w, 0)),
        (.vAbs slab, 0x07, fun v _ _ => (fAbs v, 0)), (.vNeg slab, 0x08, fun v _ _ => (fNeg v, 0)),
        (.vScale slab, 0x09, fun v _ _ => fScale v (signedOf 16 (vImm x))),
        (.vAddi slab, 0x0A, fun v _ _ => fAdd v (widen bf16 (vImm x))), (.vGadd slab, 0x0E, fun v w _ => fAdd v w)] :
        List (Instr × Nat × (Word → Word → Word → Res))),
      s.firing slab 2 r.2.1 = some o →
      exec r.1 s = .next (a.putBand slab o (vDst x) ((List.range (1024 * vN x)).map fun e =>
        r.2.2 (reg (vSrc1 x * 1024 + e)) (second e) (reg (vDst x * 1024 + e))))

/-- The row operations of vector A: conversions and dither work row by row (R136, R137, R179), the reductions leave their
results in columns 0 to 2 of each row and +0 beside them (R180 to R182), and the convolutions sum their taps in order (R194 to
R197).
In the model an operation's data moves when it fires (log 6). -/
def Obligations.RowOperations : Prop :=
  ∀ (slab : Nat) (s : State) (o : OpE),
    let x := o.bits.toNat
    let a := s.fire slab o
    let n := vN x
    let reg : Nat → Word := fun k => Memory.get (a.slab slab).regs k
    let row : Nat → Nat → List Word := fun g r => (List.range 32).map fun j => reg (g * 1024 + 32 * r + j)
    let tiles : Nat → List (List Word) := fun i => (List.range n).map fun t => row (vSrc1 x) (32 * t + i)
    let old : Nat → Nat → Word := fun i j => reg (vDst x * 1024 + 32 * i + j)
    let acc := bitOf (vAux x) 0
    let reduce : (Nat → List Res) → Host.Outcome State Fault Refusal := fun f =>
      .next (a.putBand slab o (vDst x) ((List.range 32).flatMap fun i => f i ++ List.replicate (32 - (f i).length) (0, 0)))
    let conv : Bool → (Nat → Nat → List (Nat × Nat × Nat)) → Host.Outcome State Fault Refusal := fun acc taps =>
      .next (a.putBand slab o (vDst x) ((List.range (1024 * n)).map fun e =>
        fmaChain (if acc then reg (vDst x * 1024 + e) else 0) ((taps (e / 32) (e % 32)).map fun t =>
          (reg (vSrc2 x * 1024 + (t.1 * 32 + e % 32)), reg (vSrc1 x * 1024 + (t.2.1 * 32 + t.2.2))))))
    (s.firing slab 2 0x0C = some o → exec (.vCvt slab) s = .next (a.putBand slab o (vDst x)
      ((List.range (32 * n)).flatMap fun r => cvtRow (fld (vAux x) 2 0) (vFmt x) (row (vSrc1 x) r)))) ∧
    (s.firing slab 2 0x0D = some o → exec (.vDither slab) s = .next (a.putBand slab o (vDst x)
      ((List.range (32 * n)).flatMap fun r => ditherRow (vFmt x) (fld (vAux x) 4 0) (row (vSrc1 x) r) (row (vSrc2 x) r)))) ∧
    (s.firing slab 2 0x10 = some o → exec (.vRsum slab) s = reduce fun i =>
      let r := rowSum (if acc then some (old i 0) else none) (tiles i)
      rowResults [r.1] r.2) ∧
    (s.firing slab 2 0x11 = some o → exec (.vRmax slab) s = reduce fun i =>
      [(rowMax (bitOf (vAux x) 1) (if acc then some (old i 0) else none) (tiles i).flatten, 0)]) ∧
    (s.firing slab 2 0x12 = some o → exec (.vRwel slab) s = reduce fun i =>
      let r := welford (if acc then { cnt := old i 0, mean := old i 1, m2 := old i 2 } else { cnt := 0, mean := 0, m2 := 0 }) (tiles i)
      rowResults [r.1.cnt, r.1.mean, r.1.m2] r.2) ∧
    (s.firing slab 2 0x13 = some o → exec (.vArgmax slab) s = reduce fun i =>
      let r := rowArgmax (bitOf (vAux x) 1) (vImm x * 32) (if acc then some (old i 0, old i 1) else none) (tiles i).flatten
      [(r.1, 0), (r.2, 0)]) ∧
    (s.firing slab 2 0x30 = some o → exec (.vDwconv slab) s =
      conv (bitOf (vAux x) 5) fun p j => (List.range (fld (vAux x) 4 0)).map fun u => (u, p + u, j)) ∧
    (s.firing slab 2 0x31 = some o → exec (.vGconv slab) s =
      conv (bitOf (vAux x) 7) fun p j => (List.range (fld (vAux x) 4 0 / gconvG x)).flatMap fun u =>
        (List.range (gconvG x)).map fun r => (u * gconvG x + r, p + u, gconvG x * (j / gconvG x) + r))

/-- V_LD moves encodings, with their scale bytes beside them, from the share to registers without conversion, and V_ST the
low bytes of each element back, on either pipe; the scale bytes lie at the next multiple of 512 bytes of the share after the
elements (R121, R171 to R173).
In the model an operation's data moves when it fires (log 6). -/
def Obligations.LoadsAndStores : Prop :=
  ∀ (slab : Nat) (pipeB : Bool) (s : State) (o : OpE), s.clean slab →
    let x := o.bits.toNat
    let a := s.fire slab o
    let n := mCnt x + 1
    let w := fmtBytes (mFmt x)
    let base := mAddr x * 64
    let pitch := if mStride x = 0 then 32 * n * w else mStride x * 64
    let mem : Nat → Nat → Nat := fun i k => leNat (a.opBytes slab o i k)
    let at' : Nat → Nat → Nat := fun i c => (Memory.get (a.slab slab).regs (mReg x * 1024 + (c / 32 * 1024 + i * 32 + c % 32))).toNat
    (s.firing slab (if pipeB then 3 else 2) 0x40 = some o →
      (isBlock (mFmt x) = false → ∃ m, exec (.vLd slab pipeB) s = .next ((nextFree a m).putRegs slab (mReg x)
        ((List.range (1024 * n)).map fun e => BitVec.ofNat 32 (mem (base + e / 32 % 32 * pitch + (32 * (e / 1024) + e % 32) * w) w)))) ∧
      (isBlock (mFmt x) = true → ∃ m, exec (.vLd slab pipeB) s = .next ((nextFree a m).putRegs slab (mReg x)
        ((List.range (1024 * n)).map fun e => BitVec.ofNat 32 (mem (base + e / 32 % 32 * pitch + (32 * (e / 1024) + e % 32) * w) w
          + 256 * mem (roundUp (base + 1024 * n) 512 + (e / 32 % 32 * n + e / 1024)) 1))))) ∧
    (s.firing slab (if pipeB then 3 else 2) 0x41 = some o →
      let b := (List.range 32).foldl (fun s i =>
        s.opWrite slab o (base + i * pitch) ((List.range (32 * n)).flatMap fun c => toLe w (at' i c))) a
      (isBlock (mFmt x) = false → exec (.vSt slab pipeB) s = .next b) ∧
      (isBlock (mFmt x) = true → exec (.vSt slab pipeB) s = .next (b.opWrite slab o (roundUp (base + 1024 * n) 512)
        ((List.range (32 * n)).map fun k => BitVec.ofNat 8 (at' (k / n) (32 * (k % n)) / 256)))))

/-- The operations of vector B on registers: the special functions in the passage's mode (R188 to R192), Gumbel noise without
flags (R249), compress with its count (R170, R185), expand (R186) and the transpose of each register (R201).
In the model an operation's data moves when it fires (log 6).
The maps of the special functions are free inside their bounds (logs 7, 8). -/
def Obligations.VectorBOperations : Prop :=
  ∀ (slab : Nat) (s : State) (o : OpE),
    let x := o.bits.toNat
    let a := s.fire slab o
    let n := 1024 * vN x
    let reg : Nat → Word := fun k => Memory.get (a.slab slab).regs k
    let band : Nat → List Word := fun g => (List.range n).map fun e => reg (g * 1024 + e)
    let active := (List.range n).filter fun e => reg (vSrc2 x * 1024 + e) != 0 && reg (vSrc2 x * 1024 + e) != 0x80000000#32
    (∀ r ∈ ([(.vbExp slab, 0x01, .exp), (.vbLog slab, 0x02, .log), (.vbRsqrt slab, 0x03, .rsqrt), (.vbRcp slab, 0x04, .rcp),
        (.vbSigmoid slab, 0x05, .sigmoid), (.vbTanh slab, 0x06, .tanh), (.vbGelu slab, 0x07, .gelu), (.vbSilu slab, 0x08, .silu),
        (.vbSin slab, 0x09, .sin), (.vbCos slab, 0x0A, .cos)] : List (Instr × Nat × SFn)), s.firing slab 3 r.2.1 = some o →
      exec r.1 s = .next (a.putBand slab o (vDst x) ((band (vSrc1 x)).map (special r.2.2 (!a.diagOf slab o.seq))))) ∧
    (s.firing slab 3 0x20 = some o → exec (.vbGumbel slab) s =
      .next (a.putBand slab o (vDst x) ((band (vSrc1 x)).map fun v => (gumbel v, 0)))) ∧
    (s.firing slab 3 0x10 = some o →
      let vs := active.map fun e => if bitOf (vAux x) 0 then BitVec.ofNat 32 (e + vImm x * 1024) else reg (vSrc1 x * 1024 + e)
      exec (.vbCompress slab) s = .next ((a.putRegs slab (vDst x) (vs ++ List.replicate (n - vs.length) 0)).modStarted slab o.id
        fun p => { p with ext := (active.length, 0) })) ∧
    (s.firing slab 3 0x11 = some o → exec (.vbExpand slab) s = .next (a.putRegs slab (vDst x) ((List.range n).map fun e =>
      if active.contains e then reg (vSrc1 x * 1024 + (active.filter fun d => decide (d < e)).length)
      else if bitOf (vAux x) 0 then reg (vDst x * 1024 + e) else 0))) ∧
    (s.firing slab 3 0x12 = some o → exec (.vbPermute slab) s = .next (a.putRegs slab (vDst x) ((List.range n).map fun e =>
      reg (vSrc1 x * 1024 + (1024 * (e / 1024) + 32 * (e % 32) + e / 32 % 32)))))

/-- VB_CROP takes its boxes in list order: a box that fails R234 faults with its number and stops the operation, and the boxes
before it are written; a box that passes writes its samples (R229 to R235). FL_DRAW fills four registers for each grain from
the cursor's words and moves the cursor on (R243 to R246).
In the model an operation's data moves when it fires (log 6). -/
def Obligations.CropAndFlintOperations : Prop :=
  ∀ (slab : Nat) (s : State) (o : OpE), s.clean slab →
    let x := o.bits.toNat
    let a := s.fire slab o
    let k := cropOf x
    (s.firing slab 3 0x30 = some o →
      exec (.vbCrop slab) s = .next (a.cropBoxesFrom slab o k false (List.range k.boxes) Marks.none)) ∧
    (∀ i t m,
      let box := boxOf (leNat (s.opBytes slab o (k.list + 64 * i) 64))
      (s.boxFails slab o k box = none →
        let c := codeRow k.fmt (box.results k (s.opBytes slab o (box.src * 64) (k.srcBytes box)).toArray)
        ∃ n, s.cropBoxesFrom slab o k false (i :: t) m = ((nextFree s n).opWrite slab o (box.dst * 64)
          (c.codes.flatMap (toLe (fmtBytes k.fmt)))).cropBoxesFrom slab o k false t
            (m.add (marksOf (c.flags.zipIdx.map fun f => (sharePos (box.dst * 64 + f.2 * fmtBytes k.fmt), f.1))))) ∧
      (∀ code, s.boxFails slab o k box = some code → ∃ n, s.cropBoxesFrom slab o k false (i :: t) m =
        ((nextFree s n).mark slab o 3 m false).contextFault o.part o.ctx (lineFault code slab o o.unit i))) ∧
    (∀ l g f r, s.firing slab 6 1 = some o → a.live? slab o.seq = some l → s.progOf o = some g → s.flight? o.seq = some f →
      f.run = some r →
      let p := nth (nth g.flint l.img) (flSet x)
      let k := nth l.cursors (flSet x)
      exec (.flDraw slab) s = .next ((a.putRegs slab (flReg x)
        ((List.range (flGrains x)).flatMap fun i => grainRegs (cursorWords p r.seed r.step (k + i)).toArray)).modLive slab o.seq
          fun l => { l with cursors := modAt l.cursors (flSet x) (· + flGrains x) }))

/-! ## Slabs: transfers and collectives -/

/-- XF_RUN starts at the head of its queue, or goes on with the transfer that waits (R62, R71): its descriptors run in order,
one that fails a check faults with the check's code and its number (R63), one that needs Bus Master Enable or a free input
buffer waits (R347, R426), and one that reaches lines the host holds asks for them back first (R354). One 512-byte unit of a
transfer: what the source holds lies at the destination afterwards, in the slab's own share (R62, R215) or in host memory;
for another slab's share it waits until a collective orders it (R74). A fill writes its pattern (R62). Under a tenant session
the spec gives transfers no protected form, and no byte of the tenant crosses the link in plaintext: the model moves free
values (log 53).
In the model an operation's data moves when it fires (log 6). The order of overlapping units is the model's reading
(log 40). -/
def Obligations.TransfersMoveTheirUnits : Prop :=
  (∀ (slab : Nat) (s : State) (o : OpE),
    (s.firing slab 4 1 = some o → (s.slab slab).transfer? = none →
      exec (.xfRun slab) s = .next ((s.fire slab o).runDescs slab o (fun _ => false) o.descsLeft).1) ∧
    ((s.slab slab).transfer? = some o → o.op = 1 → s.running = true →
      exec (.xfRun slab) s = .next (s.runDescs slab o (fun _ => false) o.descsLeft).1) ∧
    ((s.slab slab).transfer? = some o → o.op ≠ 1 → exec (.xfRun slab) s = .next s) ∧
    (s.clean slab → ∀ i,
      let d := s.xfDescAt slab o i
      (∀ code, s.descFails slab o d = some code → ∃ n, s.runDesc slab o i =
        ((nextFree s n).contextFault o.part o.ctx (lineFault code slab o o.unit i), .faulted)) ∧
      (s.descFails slab o d = none → (d.usesHost && !(s.fn o.part).masters || s.sinkWaits o d) = true →
        ∃ n, s.runDesc slab o i = (nextFree s n, .waits)) ∧
      (s.descFails slab o d = none → (d.usesHost && !(s.fn o.part).masters || s.sinkWaits o d) = false →
        (s.descLines slab o d ≠ [] → ∃ n, s.runDesc slab o i =
          ((nextFree s n).setPort (s.port.backInvalidate (s.descLines slab o d)), .waits)) ∧
        (s.descLines slab o d = [] → (d.usesHost = false ∨ s.port.ideIo ≠ 2) →
          ∃ n, s.runDesc slab o i = (match (nextFree s n).xfUnits slab o i d d.units with
            | (t, true) => (t, .ended)
            | (t, false) => (t, .faulted)))))) ∧
  (∀ (slab : Nat) (s : State) (o : OpE) (i r k : Nat) (d : XfDesc), s.clean slab →
    let from' := d.src.byte r k
    let to' := d.dst.byte r k
    let bs := if d.sspace = 0 then (s.sentTo slab o slab from').getD (s.readShare o.part o.ctx o.seq slab from' 512)
      else if d.sspace = 5 then s.readHost o.part from' 512 else (List.replicate 64 (toLe 8 d.pattern)).flatten
    let one := s.xfUnits slab o i d [(r, k)]
    let open' := (s.part o.part).session = none
    (d.sspace = 0 ∨ d.sspace = 6 ∨ (d.sspace = 5 ∧ open') → d.dspace = 0 →
      ∃ n, one = ((nextFree s n).opWrite slab o to' bs, true)) ∧
    (d.sspace = 0 ∨ d.sspace = 6 ∨ (d.sspace = 5 ∧ open') → d.dspace = 2 → d.dst.slab slab ≠ slab →
      ∃ n, one = (((nextFree s n).sendTo slab o (d.dst.slab slab) to' bs).noteWrite slab o 4 (d.dst.slab slab) to' 512, true)) ∧
    (d.sspace = 0 ∨ d.sspace = 6 ∨ d.sspace = 5 → d.dspace = 5 → open' →
      ∃ n, one = (((nextFree s n).writeHost o.part to' bs).noteWrite slab o 2 0 to' 512, true)) ∧
    (d.sspace = 5 → d.dspace = 0 → ¬open' → one = ((nextFree s 1).opWrite slab o to' (freeBytes s.free 512), true)))

/-- XF_PAGED walks the rows of its region through the page table, and its checks fault in order: the descriptor's spaces, its
alignment, the binding, the home slab, the range (R203, R204, R210 to R212).
In the model an operation's data moves when it fires (log 6). -/
def Obligations.PagedTransfers : Prop :=
  ∀ (slab : Nat) (s : State) (o : OpE), s.clean slab → s.firing slab 4 2 = some o →
    let a := s.fire slab o
    let d := a.xfDescAt slab o 0
    let v := d.paged
    let bind := fld v.1.addr 43 40
    (d.spaceOk true = false → ∃ n, exec (.xfPaged slab) s =
      .next ((nextFree a n).contextFault o.part o.ctx (lineFault .xfSpace slab o o.unit))) ∧
    (d.spaceOk true = true → d.alignOk = false → ∃ n, exec (.xfPaged slab) s =
      .next ((nextFree a n).contextFault o.part o.ctx (lineFault .xfAlign slab o o.unit))) ∧
    (d.spaceOk true = true → d.alignOk = true →
      (a.bound? o bind = none → ∃ n, exec (.xfPaged slab) s =
        .next ((nextFree a n).walkFault slab o .regionUnbound bind v.1.base 0 bind)) ∧
      (∀ g, a.bound? o bind = some g →
        (g.home ≠ slab → ∃ n, exec (.xfPaged slab) s = .next ((nextFree a n).walkFault slab o .pageHome bind v.1.base 0 bind)) ∧
        (g.home = slab → g.size < v.1.last d ∨ a.sideFits slab o d (if v.2 then d.src else d.dst) (!v.2) = false →
          ∃ n, exec (.xfPaged slab) s = .next ((nextFree a n).walkFault slab o .xfRange bind v.1.base 0 0xFFFFFFFF)) ∧
        (g.home = slab → v.1.last d ≤ g.size → a.sideFits slab o d (if v.2 then d.src else d.dst) (!v.2) = true →
          ∃ n, exec (.xfPaged slab) s =
            .next (match (nextFree a n).walkRows slab o g.handle bind d (List.range d.rows) 0 with
              | (t, true) => t.modStarted slab o.id fun p => { p with ext := (1, 0) }
              | (t, false) => t))))

/-- A collective moves from the unit's queue into its group's queue while that has room, and starts there if it is the first
(R271): its descriptor is read, and one that breaks R270 faults. As it leaves the unit's queue it takes on what ended
transfers have written to other members' shares (R74).
In the model an operation's data moves when it fires (log 6). -/
def Obligations.CollectivesQueueAndStart : Prop :=
  ∀ (slab : Nat) (s : State) (o : OpE) (g : Group) (q : Nat), s.groupQueue? o.part o.ctx (colGroup o.bits.toNat) slab = some (g, q) →
    (∀ r ∈ ([(.cAllredSum slab, 1), (.cAllredMax slab, 2), (.cAllredWelf slab, 3), (.cRedscat slab, 4), (.cBcast slab, 5),
        (.cAll2all slab, 6), (.cAllgather slab, 7), (.cGatherArrive slab, 8), (.cBarrier slab, 9)] : List (Instr × Nat)),
      s.firing slab 5 r.2 = some o →
      let t := ((s.fire slab o).carry slab o g).modQueue slab q fun k =>
        { k with entries := k.entries ++ [{ op := o, desc := 0, started := false, met := false, held := false }] }
      let n := (s.gqueue slab q).entries.length
      (n = 0 → exec r.1 s = .next (t.startHead slab q)) ∧ (1 ≤ n → n < 4 → exec r.1 s = .next t) ∧ (4 ≤ n → exec r.1 s = .next s)) ∧
    (∀ e p c l x, s.clean slab → (s.gqueue slab q).entries.head? = some e → (s.gqueue slab q).bound = some (p, c, l) →
      s.ctx? p c = some x → x.groups.find? (fun g => g.lidx == l) = some g →
      let w := leNat (s.opBytes slab e.op (colDesc e.op.bits.toNat * 2048) 64)
      (s.collFails slab e.op g (cdescOf w) = false → ∃ n, s.startHead slab q = (nextFree s n).modQueue slab q fun k =>
        k.modHead fun e => { e with desc := BitVec.ofNat 512 w, started := true }) ∧
      (s.collFails slab e.op g (cdescOf w) = true → ∃ n, s.startHead slab q =
        (nextFree s n).contextFault e.op.part e.op.ctx (lineFault .collDesc slab e.op e.op.unit)))

/-- When every member has started its operation, the collective meets: members that disagree fault the context (R272), else
its data moves (R264, R266 to R268). A collective that has met and delivered lands what transfers sent before it
(R74), leaves its queue, emits its token unless it is a gather (R67) and lets the next start (R271, R278). A watchdog that
expires first faults the context and names the groups that wait (R280).
A unit of a gather arrives in its ring slot when the slot is free, and the tokens of units arrived in order are emitted
(R67, R277, R278).
In the model an operation's data moves when it fires (log 6).
In the model a row whose condition does not hold changes nothing (log 3). -/
def Obligations.CollectivesMeetAndGather : Prop :=
  (∀ (s : State), s.running = true →
    (∀ part ctx lidx c g ms m0 t, s.ctx? part ctx = some c → c.groups.find? (fun g => g.lidx == lidx) = some g →
      s.meeting g = some ms → ms = m0 :: t →
      ((∀ m ∈ t, m.key = m0.key) → exec (.collectiveMeet part ctx lidx) s =
        .next ((((g.members.zip g.queues).foldl (fun s m => s.modQueue m.1 m.2 fun k => k.modHead fun e => { e with met := true }) s).order
          ms).meetData g ms)) ∧
      ((∃ m ∈ t, m.key ≠ m0.key) → exec (.collectiveMeet part ctx lidx) s =
        .next (s.contextFault part ctx (lineFault .collMismatch m0.slab m0.op 5)))) ∧
    (∀ part ctx lidx c g, s.ctx? part ctx = some c → c.groups.find? (fun g => g.lidx == lidx) = some g →
      s.meeting g = none → exec (.collectiveMeet part ctx lidx) s = .next s) ∧
    (∀ slab idx o g q, ((s.slab slab).started.filter fun o => o.unit == 5)[idx]? = some o → o.op ≠ 0 →
      s.groupQueue? o.part o.ctx (colGroup o.bits.toNat) slab = some (g, q) →
      (s.gqueue slab q).entries.head?.any (fun e => e.op.id == o.id) = true → s.collDone g slab q = true →
      let landed := s.land slab fun w => w.part == o.part && w.ctx == o.ctx && w.due == some o.id
      let out : State → State := fun t =>
        (t.retire slab o).modQueue slab q fun k => { k with entries := k.entries.tail, gather := none }
      (o.op ≠ 8 → exec (.opEnd slab 5 idx) s = .next (((out landed).emitToken slab o).startHead slab q)) ∧
      (o.op = 8 → exec (.opEnd slab 5 idx) s = .next ((out (landed.spoilRing slab o g)).startHead slab q))) ∧
    (∀ slab q p c l e, (s.gqueue slab q).bound = some (p, c, l) → (s.gqueue slab q).entries.head? = some e → e.started = true →
      (e.met = false → exec (.collWatchdogExpire slab q) s = .next (s.contextFault p c
        { lineFault .collStall slab e.op 5 with
          detail0 := l, detail1 := ((s.waitingGroups p c).filter fun x => x != l).headD 0xFFFFFFFF,
          arg := listMask (l :: (s.waitingGroups p c).filter fun x => x != l), inj := s.startHeld p c })) ∧
      (e.met = true → exec (.collWatchdogExpire slab q) s = .next s))) ∧
  (∀ (s : State) (slab q k : Nat) (t : Gather) (p c l : Nat) (e : CollE) (x : Ctx) (g : Group), s.running = true →
    (s.gqueue slab q).gather = some t → (s.gqueue slab q).bound = some (p, c, l) → (s.gqueue slab q).entries.head? = some e →
    s.ctx? p c = some x → x.groups.find? (fun g => g.lidx == l) = some g → k < t.total → t.arrived.contains k = false →
    (t.slotFree g.chunks k = false → exec (.gatherUnitArrive slab q k) s = .next s) ∧
    (t.slotFree g.chunks k = true → ∀ b f, s.unitSource g k = some (b, f) → s.clean b →
      let d := cdescOf f.desc.toNat
      let bs := s.opBytes b f.op (d.src * 512 + k % (d.cpr + 1) * d.bytes) d.bytes
      ∃ n, exec (.gatherUnitArrive slab q k) s = .next ((((nextFree s n).opWrite slab e.op (g.unitAddr t.chunks k) bs).modQueue
        slab q fun z => { z with gather := some { t with arrived := k :: t.arrived } }).emitUnits slab q e.op (t.total + 1))))

/-- No operation of a unit reaches outside its own partition: whatever it computes, loads, stores, faults or reports, the
contexts, models, regions, held results, flat memory and codec sessions of every other partition stay as they are, and so do
the codec cores, the host port, Geode, the power manager, and the stop and service state of the module (R297, R405). The
consumer of a coupled pair is named by the pair that has fired. -/
def Obligations.UnitOperationsStayInTheirPartition : Prop :=
  ∀ (slab : Nat) (s t : State) (o : OpE),
    let apart : Prop := (∀ j, j ≠ o.part → t.part j = s.part j) ∧
      (t.codec.sessions.filter fun x => x.part != o.part) = (s.codec.sessions.filter fun x => x.part != o.part) ∧
      t.codec.cores = s.codec.cores ∧ t.port = s.port ∧ t.geode = s.geode ∧ t.power = s.power ∧
      t.hub.stop = s.hub.stop ∧ t.hub.service = s.hub.service
    (∀ r ∈ ([(.mm slab, 0), (.mmList slab, 0), (.mmArrive slab, 0), (.accClear slab, 1), (.accSpill slab, 1),
        (.accResume slab, 1), (.accDrain slab, 1), (.accGate slab, 1), (.accSatclr slab, 1), (.vAdd slab, 2), (.vSub slab, 2),
        (.vMul slab, 2), (.vFma slab, 2), (.vMax slab, 2), (.vMin slab, 2), (.vAbs slab, 2), (.vNeg slab, 2), (.vScale slab, 2),
        (.vAddi slab, 2), (.vCvt slab, 2), (.vDither slab, 2), (.vGadd slab, 2), (.vRsum slab, 2), (.vRmax slab, 2),
        (.vRwel slab, 2), (.vArgmax slab, 2), (.vDwconv slab, 2), (.vGconv slab, 2), (.vLd slab false, 2), (.vLd slab true, 3),
        (.vSt slab false, 2), (.vSt slab true, 3), (.vbExp slab, 3), (.vbLog slab, 3), (.vbRsqrt slab, 3), (.vbRcp slab, 3),
        (.vbSigmoid slab, 3), (.vbTanh slab, 3), (.vbGelu slab, 3), (.vbSilu slab, 3), (.vbSin slab, 3), (.vbCos slab, 3),
        (.vbCompress slab, 3), (.vbExpand slab, 3), (.vbPermute slab, 3), (.vbGumbel slab, 3), (.vbCrop slab, 3),
        (.xfPaged slab, 4), (.flDraw slab, 6), (.loopBegin slab, 7), (.loopEnd slab, 7), (.loopr slab, 7), (.twait slab, 7),
        (.fence slab, 7)] : List (Instr × Nat)),
      (s.queue slab r.2).head? = some o → exec r.1 s = .next t → apart) ∧
    (∀ r ∈ ([(.mmChain slab, 0, 3), (.vEpi slab, 2, 0x20), (.vOsm slab, 2, 0x21)] : List (Instr × Nat × Nat)),
      s.joined? slab r.2.1 r.2.2 = some o → exec r.1 s = .next t → apart)

/-! ## Links, memory checks and the host port -/

/-- A send of a flit is checked (R255, R258): one that passes clears its failures and, being the next of its direction, is
delivered; one that fails is to be sent again, at both ends of the link, and its eighth failure in a row stops the module
(R259). The window of 10 local µs starts the counts of both directions anew and marks a direction that replayed more than 1
flit in 16 (R258, R259). A scrub corrects what it can and reports it (R291).
In the model a row whose condition does not hold changes nothing (log 3).
What counts as a flit and as a replay, and that each end keeps its own window, is the model's reading (log 42); the layout of
the header and the conventions of the CRC are free or the model's (log 56). -/
def Obligations.LinksAndScrub : Prop :=
  ∀ (s : State) (slab t : Nat), s.running = true → s.talus.armed = [] →
    (∀ rx f, s.linkPowered slab t = true → (s.link slab t).up = true →
      let d := dirIdx rx
      let u := s.modLinkEnds slab t rx fun l d => l.flit d f (flitGood f)
      ((s.link slab t).mayCome d f = true → flitGood f = true ∨ (s.link slab t).failures d f < 7 →
        exec (.flitReceive slab t rx f) s = .next u) ∧
      ((s.link slab t).mayCome d f = true → flitGood f = false → 7 ≤ (s.link slab t).failures d f →
        exec (.flitReceive slab t rx f) s = .next (u.linkDown slab false)) ∧
      ((s.link slab t).mayCome d f = false → exec (.flitReceive slab t rx f) s = .next s)) ∧
    (∀ rx f, s.linkPowered slab t = false → exec (.flitReceive slab t rx f) s = .next s) ∧
    (s.linkPowered slab t = true → (s.link slab t).up = true → slab < s.slabs.length → t < (s.slab slab).links.length →
      (s.link slab t).exceeded 0 = false → (s.link slab t).exceeded 1 = false →
      exec (.replayWindowEnd slab t) s = .next (s.modLink slab t fun l =>
        { l with
          degraded := modAt (modAt l.degraded 0 fun _ => false) 1 fun _ => false
          flits := modAt (modAt l.flits 0 fun _ => 0) 1 fun _ => 0
          replayed := modAt (modAt l.replayed 0 fun _ => 0) 1 fun _ => 0
          hurt := modAt (modAt l.hurt 0 fun _ => false) 1 fun _ => false
          replays := Nat.min (2 ^ 32 - 1) l.replays })) ∧
    (∀ hbm, s.hub.rest = .awake → slab < s.slabCount → (s.slab slab).bad = [] →
      ∃ n, exec (.scrubPass slab hbm []) s = .next (nextFree s n)) ∧
    (∀ u, s.hub.rest = .awake → slab < s.slabCount → slab < s.slabs.length → (s.slab slab).bad = [] → placeInHbm u.place = true →
      s.placeHere slab u.place = true → u.symbols = 1 ∨ u.symbols = 2 →
      ∃ v, exec (.scrubPass slab true [u]) s = .next v ∧ (v.slab slab).bad = [] ∧ v.parts = s.parts ∧ v.hub.stop = none)

/-- Where the physical layer can train, the link trains in CXL mode from 2 lanes and 8 GT/s on (R336), with an event below 16
lanes or 64 GT/s (R339); without CXL.mem the host holds no line (R337). A decoder commits in 256-byte flit mode only (R337). A
host read of a backed word answers the word and records its line, one of an address that nothing backs answers poison with an
event; a write changes its bytes, of a dropped line it does nothing (R352 to R355, R401). After a stop reads answer poison
(R364), in Rest the access wakes the module and waits (R502). What the filter records is the model's reading (logs 44, 60). -/
def Obligations.HostLinkAndDeviceMemory : Prop :=
  ∀ (s : State), s.talus.armed = [] →
    (∀ w r f l, s.canTrain = true → s.hub.stop = none → w ≤ 4 → r ≤ 5 →
      let p := s.port.trained w r f l
      (w = 4 → r = 5 → exec (.hostLinkTrained w r f l) s = .next (s.setPort p)) ∧
      (w < 4 ∨ r < 5 → exec (.hostLinkTrained w r f l) s =
        .next ((s.setPort p).moduleEvent .hostLink 0 0xF 0xC (w + r * 256) 0 0)) ∧
      (p.cxl = true ↔ 2 ≤ w ∧ 2 ≤ r) ∧ (p.cxl = true → p.flit256 = true → p.snoop = s.port.snoop) ∧
      ((p.cxl && p.flit256) = false → p.snoop = [] ∧ p.hostWaits = [])) ∧
    (∀ i base size, s.configOpen = true → s.port.cxl = true → i < 16 → (nth s.port.decoders i).committed = false →
      exec (.hdmDecoderCommit i base size) s = .next ((s.setPort { s.port with decoders := modAt s.port.decoders i fun _ =>
        { base := base, size := size, committed := s.port.flit256, error := !s.port.flit256 } }).setReply (.decoder s.port.flit256))) ∧
    (∀ dpa, s.port.cacheMem = true → s.port.flit256 = true → s.decodes dpa = true → s.hub.stop ≠ none →
      exec (.hdmRead dpa) s = .next (s.setReply .poison)) ∧
    (∀ dpa, s.cxlMem = true → s.decodes dpa = true → s.hub.power = .up → s.hub.stop = none →
      let p := dpaPart dpa
      let k := dpaSlab dpa
      let a := dpaAddr dpa / 64 * 64
      (s.hub.rest ≠ .awake →
        exec (.hdmRead dpa) s = .next ((s.wake.setPort { s.port with hostWaits := s.port.hostWaits ++ [(dpa, none)] }).setReply .waits) ∧
        ∀ bs, 0 < bs.length → dpa % 64 + bs.length ≤ 64 → exec (.hdmWrite dpa bs) s =
          .next ((s.wake.setPort { s.port with hostWaits := s.port.hostWaits ++ [(dpa, some bs)] }).setReply .waits)) ∧
      (s.hub.rest = .awake →
        (s.backed dpa = false → exec (.hdmRead dpa) s = .next ((s.moduleEvent .hdmUnmapped 0 0xF 0xC 0 (dpa % 2 ^ 32)
          (dpa / 2 ^ 32 % 2 ^ 32)).setReply .poison)) ∧
        (s.backed dpa = true → (s.slab k).bad = [] →
          (s.port.snoop.contains (dpa / 64) = true → exec (.hdmRead dpa) s =
            .next ((nextFree s 1).setReply (.data (Memory.read (s.flat p k) a 64)))) ∧
          (s.port.snoop.contains (dpa / 64) = false → s.port.snoop.length < 524288 → exec (.hdmRead dpa) s =
            .next ((nextFree (s.setPort { s.port with snoop := s.port.snoop ++ [dpa / 64], dropped := s.port.dropped.filter fun x =>
              x != dpa / 64 }) 1).setReply (.data (Memory.read (s.flat p k) a 64)))) ∧
          (s.port.snoop.contains (dpa / 64) = false → 524288 ≤ s.port.snoop.length → exec (.hdmRead dpa) s =
            .next ((s.setPort { s.port.backInvalidate (s.port.snoop.take 1) with
              hostWaits := s.port.hostWaits ++ [(dpa, none)] }).setReply .waits))) ∧
        (∀ bs, 0 < bs.length → dpa % 64 + bs.length ≤ 64 → s.backed dpa = false ∨ (s.port.dropped.contains (dpa / 64) = false ∧
            s.needFlat p k (dpaAddr dpa) = none) →
          exec (.hdmWrite dpa bs) s = .next ((s.moduleEvent .hdmUnmapped 0 0xF 0xC 1 (dpa % 2 ^ 32)
            (dpa / 2 ^ 32 % 2 ^ 32)).setReply .none)) ∧
        (∀ bs, 0 < bs.length → dpa % 64 + bs.length ≤ 64 → s.backed dpa = true → s.port.dropped.contains (dpa / 64) = true →
          exec (.hdmWrite dpa bs) s = .next (s.setReply .none)) ∧
        (∀ bs t, s.backed dpa = true → 0 < bs.length → dpa % 64 + bs.length ≤ 64 → s.port.dropped.contains (dpa / 64) = false →
          s.needFlat p k (dpaAddr dpa) = some t →
          (bs.length ≠ 64 → exec (.hdmWrite dpa bs) s = .next ((t.writeFlat p k (dpaAddr dpa) bs).setReply .none)) ∧
          (bs.length = 64 → exec (.hdmWrite dpa bs) s =
            .next (((t.writeFlat p k (dpaAddr dpa) bs).overwrite k (inFlat p k (dpaAddr dpa) 64)).setReply .none)))))

/-- The answer to a back-invalidation takes the line from the filter, with modified data written back, and the waiting host
accesses go on (R354, R356); an insecure stream discards it (R363). Without an answer the transfer that waits faults and the
line is dropped (R355). A snoop of the module's device cache is answered for any line (R358). A refused translation: a
command's next access to host memory will fail (R359), a transfer that reaches host memory faults there, a record is lost but
completed, and a ring is blocked (R546). An unsupported request is answered as one and stands in AER (R299, R340, R341). A
failed check on a secure stream makes it insecure, with a lasting alarm (R363). In the model a row whose condition does not
hold changes nothing (log 3). The answers of the device cache and the content of a dropped line are free (logs 11, 49). -/
def Obligations.HostCoherenceAndErrors : Prop :=
  (∀ (s : State) (line : Nat),
    (s.running = true → s.port.awaiting.contains line = true → (∀ a ∈ s.talus.armed, a.point ≠ 0x0703) →
      (s.port.ideCm ≠ 2 →
        exec (.bisnpResponse line none) s = .next (s.setPort (s.port.forget line)).serveHost ∧
        ∀ bs, exec (.bisnpResponse line (some bs)) s = .next ((s.setPort (s.port.forget line)).writeBack line bs).serveHost) ∧
      (let drop := fun t : State => ((t.setPort { t.port.forget line with dropped := t.port.dropped ++ [line] }).blurLine line).serveHost
       (s.waitingOn line = [] → exec (.biTimeout line) s = .next (drop s)) ∧
       (∀ k o, s.waitingOn line = [(k, o)] → (s.slab k).transfer? = some o →
         exec (.biTimeout line) s = .next (drop (s.xfFault k o .biTimeout o.unit 0xFFFFFFFF false))))) ∧
    (s.port.ideCm = 2 ∨ s.port.awaiting.contains line = false → ∀ d, exec (.bisnpResponse line d) s = .next s) ∧
    (s.port.awaiting.contains line = false → exec (.biTimeout line) s = .next s) ∧
    (s.port.up = true → s.port.cxl = true → s.port.ideCm ≠ 2 →
      ∃ held, exec (.hostSnoop line) s = .next ((nextFree s 1).setReply (.snoop held)))) ∧
  (∀ (s : State),
    (s.running = true →
      (∀ q, s.port.refused.contains q = false →
        exec (.atsTranslationRefused (.command q)) s = .next (s.setPort { s.port with refused := s.port.refused ++ [q] })) ∧
      (∀ k o, (s.slab k).transfer? = some o → (s.fn o.part).ats = true → s.willUseHost k o = true →
        exec (.atsTranslationRefused (.transfer k)) s = .next (s.refuseTransfer k o)) ∧
      (∀ q f, s.flight? q = some f → (s.fn f.fn).ats = true → (s.fn f.fn).masters = true →
        exec (.atsTranslationRefused (.record q)) s = .next (s.completeSeq f.fn q true)) ∧
      (∀ r, (s.fn (ringFn r)).ats = true → exec (.atsTranslationRefused (.ring r)) s =
        .next (s.modRing r fun g => { g with blocked := true })) ∧
      (∀ r, (s.fn (ringFn r)).ats = false → exec (.atsTranslationRefused (.ring r)) s = .next s)) ∧
    (∀ fn off, s.port.up = true → s.port.ideIo ≠ 2 → exec (.unsupportedRequest fn off) s =
      .next ((s.modFn (if s.fnExists fn then fn else 0) fun g => { g with aer := g.aer ||| 2 ^ 20 }).setReply .unsupported)) ∧
    (s.port.up = true → s.talus.armed = [] →
      let io := s.setPort { s.port with ideIo := 2 }
      let cm := s.setPort { s.port with ideCm := 2 }
      (s.running = true → s.port.ideIo = 1 → exec (.ideIntegrityFail .io) s =
        .next (io.emit [16] (unitEvent io .ideFail 0 0xF 0xC 0 0 0) (ideKey 0) true)) ∧
      (s.running = true → s.port.ideCm = 1 → exec (.ideIntegrityFail .cachemem) s =
        .next (cm.emit [16] (unitEvent cm .ideFail 0 0xF 0xC 1 0 0) (ideKey 1) true)) ∧
      (s.running = false → (s.port.ideIo = 1 → exec (.ideIntegrityFail .io) s = .next io) ∧
        (s.port.ideCm = 1 → exec (.ideIntegrityFail .cachemem) s = .next cm)) ∧
      (s.port.ideIo ≠ 1 → exec (.ideIntegrityFail .io) s = .next s) ∧
      (s.port.ideCm ≠ 1 → exec (.ideIntegrityFail .cachemem) s = .next s)))

/-! ## The management endpoint and SPDM -/

/-- The messages of the management endpoint while the hub is supplied (R481, R487, R489, R520): it answers the state and the
temperatures, acknowledges alarms of the module view, and while MOD_RST# is asserted arms start-up points and stages images;
what it does not take it refuses.
The answers stand in a field of the model's own (log 12). -/
def Obligations.ManagementMessages : Prop :=
  ∀ (s : State), s.hub.power ≠ .off →
    exec .getState s = .next (s.setReply (.state s.hubIdent s.hub.stop.isSome ((s.hub.stop.map fun x => x.code.code).getD 0)
      s.hub.service s.inRestBit (s.port.linkStat % 2 ^ 16) (s.viewAlarms 16).length (((s.viewAlarms 16).take 8).map fun a => a.code.code))) ∧
    exec .getThermal s = .next (s.setReply (.thermal ((List.range (3 * s.slabCount)).map fun k =>
      ((nth (s.slab (k / 3)).hbm (k % 3)).temp, (nth (s.slab (k / 3)).hbm (k % 3)).level)) (maxNat s.power.tj))) ∧
    (∀ code, (s.talus.canAck [16] code = true →
        exec (.mgmtAlarmAck code) s = .next ((s.setTalus (s.talus.ackIn [16] code)).setReply (.acked true))) ∧
      (s.talus.canAck [16] code = false → exec (.mgmtAlarmAck code) s = .next (s.setReply (.acked false)))) ∧
    (s.hub.pins.modRst = true →
      (∀ p v, (isStartPoint p = true → exec (.injectArm p v) s = .next ((s.setTalus { s.talus with
          startup := (s.talus.startup.filter fun a => a.1 != p) ++ [(p, v)] }).setReply (.acked true))) ∧
        (isStartPoint p = false → exec (.injectArm p v) s = .next (s.setReply (.acked false)))) ∧
      (∀ i off bs,
        (i < 2 ∧ bs.length ≤ 64 ∧ off + bs.length ≤ (if i = 0 then 4194304 else 1048576) →
          exec (.imageStage i off bs) s = .next ((s.setHub { s.hub with staged := modAt s.hub.staged i fun g =>
            { g with bytes := Memory.write g.bytes off bs } }).setReply (.acked true))) ∧
        (¬(i < 2 ∧ bs.length ≤ 64 ∧ off + bs.length ≤ (if i = 0 then 4194304 else 1048576)) →
          exec (.imageStage i off bs) s = .next (s.setReply (.acked false)))) ∧
      (∀ i len,
        (i < 2 ∧ len ≤ (if i = 0 then 4194304 else 1048576) → exec (.imageSeal i len) s =
          .next ((s.setHub { s.hub with staged := modAt s.hub.staged i fun g => { g with complete := some len } }).setReply (.acked true))) ∧
        (¬(i < 2 ∧ len ≤ (if i = 0 then 4194304 else 1048576)) → exec (.imageSeal i len) s = .next (s.setReply (.acked false)))) ∧
      exec .imageDiscard s = .next ((s.setHub { s.hub with
        staged := [{ bytes := [], complete := none }, { bytes := [], complete := none }] }).setReply (.acked true))) ∧
    (s.hub.pins.modRst = false →
      (∀ p v, exec (.injectArm p v) s = .next (s.setReply (.acked false))) ∧
      (∀ i off bs, exec (.imageStage i off bs) s = .next (s.setReply (.acked false))) ∧
      (∀ i len, exec (.imageSeal i len) s = .next (s.setReply (.acked false))) ∧
      exec .imageDiscard s = .next (s.setReply (.acked false)))

/-- The SPDM requests that negotiate and read (R450, R466). The order of the states on a transport is the model's reading of
the published standard (log 21): GET_VERSION starts over, capabilities follow it, algorithms follow those, and the chain, the
measurements and the challenge follow an agreement on all four. What comes too early is answered with an error. The SPDM
session (R362, R466): over DOE KEY_EXCHANGE opens a handshake with the encapsulated secret, FINISH with the right code
secures it and with a wrong one ends it; in a secured session alone HEARTBEAT, KEY_UPDATE and END_SESSION are answered, and a
key is set that secures a stream. -/
def Obligations.SpdmRequests : Prop :=
  (∀ (t : Transport) (s : State), s.spdmUp t = true →
    let x := s.spdm t
    exec (.getVersion t) s = .next ((s.putSpdm t { Spdm.reset with version := true }).spdmAnswer t "VERSION" [toLe 1 0x13]) ∧
    ((x.version = true ∧ x.session = 0 → exec (.getCapabilities t) s =
        .next ((s.putSpdm t { x with caps := true }).spdmAnswer t "CAPABILITIES" [toLe 4 (spdmFlags t), toLe 4 spdmPiece])) ∧
      (x.version = false ∨ x.session ≠ 0 → exec (.getCapabilities t) s = .next (s.setReply .spdmError))) ∧
    (∀ a b c d,
      (x.caps = true ∧ x.session = 0 → exec (.negotiateAlgorithms t a b c d) s =
        .next ((s.putSpdm t { x with algs := a && b && c && d }).spdmAnswer t "ALGORITHMS"
          [toLe 4 (if a then 0x20 else 0), if b then extAlg 0x1F01 else [], if c then extAlg 0x1F02 else [],
            toLe 2 (if d then 2 else 0)])) ∧
      (x.caps = false ∨ x.session ≠ 0 → exec (.negotiateAlgorithms t a b c d) s = .next (s.setReply .spdmError))) ∧
    (x.algs = true →
      exec (.getDigests t) s = .next (s.spdmAnswer t "DIGESTS" [digest s.certChain]) ∧
      (∀ off n, off < s.certChain.length → exec (.getCertificate t 0 off n) s =
        .next (s.spdmAnswer t "CERTIFICATE" [(s.certChain.drop off).take (Nat.min n (s.certChain.length - off)),
          toLe 4 (s.certChain.length - off - Nat.min n (s.certChain.length - off))])) ∧
      (∀ nonce, let all := (measureIndices.filterMap s.measureBlock).flatten
        let own := toLe 32 (Config.entropy s.geode.draws).toNat
        let t1 := s.setGeode { s.geode with draws := s.geode.draws + 1 }
        exec (.challenge t 0 nonce) s = .next (t1.spdmAnswer t "CHALLENGE_AUTH" [digest s.certChain, own, digest all,
          s.spdmSign t (bytesAt nonce 0 32 ++ (digest s.certChain ++ own ++ digest all))])) ∧
      (∀ i nonce b, 1 ≤ i → i < 0xFF → s.measureBlock i = some b →
        let own := toLe 32 (Config.entropy s.geode.draws).toNat
        let t1 := s.setGeode { s.geode with draws := s.geode.draws + 1 }
        exec (.getMeasurements t i nonce) s = .next (t1.spdmAnswer t "MEASUREMENTS" [b, own,
          s.spdmSign t (bytesAt nonce 0 32 ++ b ++ own)]))) ∧
    (x.algs = false → exec (.getDigests t) s = .next (s.setReply .spdmError) ∧
      (∀ sl off n, exec (.getCertificate t sl off n) s = .next (s.setReply .spdmError)) ∧
      (∀ sl nonce, exec (.challenge t sl nonce) s = .next (s.setReply .spdmError)) ∧
      (∀ i nonce, exec (.getMeasurements t i nonce) s = .next (s.setReply .spdmError)) ∧
      ∀ ek, exec (.keyExchange t ek) s = .next (s.setReply .spdmError)) ∧
    (∀ i, i * spdmPiece < x.chunks.length → exec (.chunkGet t i) s =
      .next (s.setReply (.spdm "CHUNK_RESPONSE" [(x.chunks.drop (i * spdmPiece)).take spdmPiece])))) ∧
  (∀ (s : State), s.spdmUp .doe = true →
    let x := s.spdm .doe
    (∀ ek, x.algs = true → x.session = 0 → ek.length = 1568 →
      let kem := Config.kemEncaps ek s.geode.draws
      let ct := bytesAt kem.1 0 1568
      let own := toLe 32 (Config.entropy (s.geode.draws + 1)).toNat
      let secret := Config.spdmKeys (bytesAt kem.2 0 32) (x.transcript ++ ek ++ ct)
      exec (.keyExchange .doe ek) s = .next (((s.setGeode { s.geode with draws := s.geode.draws + 2 }).putSpdm .doe
        { x with session := 1, secret := secret }).spdmAnswer .doe "KEY_EXCHANGE_RSP"
          [ct, own, s.spdmSign .doe (ek ++ ct ++ own), Config.spdmMac secret (x.transcript ++ ek ++ ct)])) ∧
    (∀ key, x.session = 2 → key.length = 32 →
      exec (.vendorDefinedRequest .doe .io key) s = .next ((s.setPort { s.port with ideIo := 1, keyIo := key }).spdmAnswer .doe
        "VENDOR_DEFINED_RESPONSE" []) ∧
      exec (.vendorDefinedRequest .doe .cachemem key) s = .next ((s.setPort { s.port with ideCm := 1, keyCm := key }).spdmAnswer
        .doe "VENDOR_DEFINED_RESPONSE" []))) ∧
  (∀ (t : Transport) (s : State), s.spdmUp t = true →
    let x := s.spdm t
    (x.session = 1 →
      exec (.finish t (Config.spdmMac x.secret x.transcript)) s = .next ((s.putSpdm t { x with
        session := 2, secret := Config.spdmKeys x.secret x.transcript }).spdmAnswer t "FINISH_RSP" []) ∧
      ∀ mac, mac ≠ Config.spdmMac x.secret x.transcript →
        exec (.finish t mac) s = .next ((s.putSpdm t { x with session := 0, secret := [] }).setReply .spdmError)) ∧
    (x.session ≠ 1 → ∀ mac, exec (.finish t mac) s = .next (s.setReply .spdmError)) ∧
    (x.session = 2 →
      exec (.heartbeat t) s = .next (s.spdmAnswer t "HEARTBEAT_ACK" []) ∧
      (∀ all, exec (.keyUpdate t all) s = .next ((s.putSpdm t { x with
        secret := Config.spdmKeys x.secret (toLe 1 (boolNat all)) }).spdmAnswer t "KEY_UPDATE_ACK" [])) ∧
      exec (.endSession t) s = .next ((s.putSpdm t { x with session := 0, secret := [] }).spdmAnswer t "END_SESSION_ACK" [])) ∧
    (x.session ≠ 2 → exec (.heartbeat t) s = .next (s.setReply .spdmError) ∧
      (∀ all, exec (.keyUpdate t all) s = .next (s.setReply .spdmError)) ∧ exec (.endSession t) s = .next (s.setReply .spdmError) ∧
      (∀ st key, exec (.vendorDefinedRequest t st key) s = .next (s.setReply .spdmError))))

/-! ## Codec frames, loads, alarms, resets and start-up -/

/-- A load from cold copies ends with the part hot, pinned if a MODEL_PIN waited for it, and lets the pins that are now
complete succeed (R308, R310, R312). A committed frame starts on its cores, an illegal commit record ends the command (R427,
R433, R435); a frame that is coded leaves the input buffers, joins the history and the output, and counts on its cores (R428
to R430, R445). A decoded frame, with its budget or without, is concealed where it is damaged, keeps its reference role, and
goes into the share with those released before it; FRMAX frames or the end of the input end the command (R438 to R442). What
the core reconstructs from a stream is a free function of it (log 10); LASTUSE after a load is the model's choice (log 24). -/
def Obligations.LoadsAndCodecFramesEnd : Prop :=
  ∀ (s : State), s.running = true →
    (∀ p h i slab m y, (s.part p).model? h = some m → m.place? i slab = some y → y.loading ≠ [] →
      s.firstLoad slab (y.loading.headD 0) = true → s.clean slab →
      let pin := y.loading.any fun q => (s.flight? q).any fun f => decide (f.cmd = .modelPin)
      exec (.quarryLoadEnd p h i slab) s = .next ((((nextFree s 1).modPlace p h i slab fun y =>
        { y with
          hot := true
          pinned := y.pinned || pin
          lastUse := Nat.max y.lastUse (y.loading.headD 0)
          loading := [] }).dropBad (hotPlace p h i slab)).finishPins p)) ∧
    (∀ h c f b rec rest, s.session? h = some c → s.codecTurn c = some f → c.committed = (b, rec) :: rest →
      (c.running = false →
        (commitOk rec = true → exec (.encodeFrameStart h) s =
          .next ((s.modSession h fun x => { x with running := true }).modCores c.atWork fun k => { k with running := true })) ∧
        (commitOk rec = false → exec (.encodeFrameStart h) s = .next (s.finishEncode f c (some c.done)))) ∧
      (c.running = true →
        let ctl := f.arg 24 8
        let cap := if fld ctl 31 0 = 0 then fld (numAt c.param 0 64) 127 96 else fld ctl 31 0
        let hist := c.history ++ [(Memory.read b 0 (encFrameBytes c.param), rec, cap, bitOf ctl 32 && c.done == 0)]
        let coded := (encodeAll c.param hist).2
        let hit : Bool := cap != 0 && decide (cap < coded.size)
        let c2 : CodecSession :=
          { c with
            committed := rest
            marks := moveMarks c.marks (c.refresh rec)
            history := hist
            running := false
            output := c.output ++ coded.unit
            capped := if hit then c.capped ++ [(c.done, coded.size)] else c.capped
            done := c.done + 1 }
        let t := (s.modSession h fun _ => c2).modCores c.atWork fun k =>
          { k with running := false, frames := satInc k.frames (2 ^ 32 - 1) 1, marked := satInc k.marked 65535 (boolNat hit) }
        (c.done + 1 ≠ f.arg 4 2 → exec (.encodeFrameEnd h) s = .next t) ∧
        (c.done + 1 = f.arg 4 2 → exec (.encodeFrameEnd h) s = .next (t.finishEncode f c2 none)))) ∧
    (∀ h c f, s.talus.armed = [] → s.session? h = some c → c.handle = h → c.running = true → c.kind ≠ 0 → c.ready = [] →
      s.flights.find? (fun g => decide (g.cmd = .codecDecode) && decide (g.phase = .busy) && g.waits.headD 0 == h && g.waits.length == 3)
        = some f →
      (frMax c.param ≤ c.done → exec (.decodeFrameEnd h) s = .next (s.finishDecode f c)) ∧
      (c.done < frMax c.param →
        let d := Config.picHeader c.kind c.input c.consumed (f.arg 16 4 == 0)
        (f.arg 16 4 ≠ 0 → d.none = true ∨ c.input.length ≤ c.consumed →
          exec (.decodeFrameEnd h) s = .next (s.finishDecode f c) ∧ exec (.decodeBudgetExpire h) s = .next (s.finishDecode f c)) ∧
        (∀ late, d.none = false → c.consumed < c.input.length →
          let i := if late then Instr.decodeBudgetExpire h else Instr.decodeFrameEnd h
          let cls := c.damageOf d late
          ∃ at0 upto, at0 ≤ f.arg 16 4 ∧ c.consumed < upto ∧ upto ≤ c.input.length ∧
            (cls = 0 → upto = Nat.min c.input.length (Nat.max (c.consumed + 1) d.consumed)) ∧
            let s2 := ((nextFree s 1).modSession h fun _ => c.decoded d cls at0 upto late).modCores c.cores fun k =>
              { k with frames := satInc k.frames (2 ^ 32 - 1) 1, marked := satInc k.marked 65535 (boolNat (cls != 0)) }
            ∃ e : Event, e.code = .bitstream ∧ e.d0 = c.handle ∧ e.d2 = at0 ∧
              let t := (if cls = 0 then s2 else s2.emit [c.part] e).writeReady f h (frMax c.param)
              ∀ c1, t.session? h = some c1 →
                (c1.done < frMax c1.param → exec i s = .next t) ∧
                (frMax c1.param ≤ c1.done → exec i s = .next (t.finishDecode f c1))))) ∧
    (∀ h c, s.session? h = some c → c.running = true → c.kind ≠ 0 →
      s.flights.find? (fun g => decide (g.cmd = .codecDecode) && decide (g.phase = .busy) && g.waits.headD 0 == h && g.waits.length == 3)
        = none →
      let t := (s.modSession h fun x => { x with running := false }).modCores c.cores fun k => { k with running := false }
      exec (.decodeFrameEnd h) s = .next (t.nextDecode h t.flights.length))

/-- A coalescing window that merged nothing closes, and one that merged writes a further record with their number and opens
again (R477); a drop record is written once its conditions hold, and clears the count (R478); a lasting condition that ends
writes a CLEAR record to the views that hold the alarm (R481). A failure of the entropy source stops the module with
ST_SELFTEST (R451), a handshake that times out with ST_HS_TIMEOUT (R36).
In the model a row whose condition does not hold changes nothing (log 3).
That a merged record counts as one drop, and the UNIT of a handshake stop, are the model's readings (logs 22, 29). -/
def Obligations.WindowsAlarmsAndHubStops : Prop :=
  ∀ (s : State), s.running = true →
    (∀ r i x w, ((s.ring r).classes.flatMap fun x => x.windows.map fun w => (x, w))[i]? = some (x, w) →
      (w.merged = 0 → exec (.coalesceWindowEnd r i) s =
        .next (s.modRing r fun g => g.setClass { x with windows := x.windows.erase w })) ∧
      (w.merged ≠ 0 → exec (.coalesceWindowEnd r i) s =
        .next ((s.modRing r fun g => g.setClass { x with windows := modWhere x.windows (fun y => decide (y = w)) fun y =>
          { y with merged := 0, first := none } }).deliver [r] { w.first.getD w.opener with count := w.merged }))) ∧
    (∀ r c x, (s.ring r).classes[c]? = some x →
      let y := (s.ring r).classOf x.code x.form
      let due := 0 < y.drops ∧ s.ringOpen r = true ∧ (s.ring r).blocked = false ∧ (s.ring r).room false = true ∧
        ((classInfo x.code x.form).exempt = true ∨ million ≤ y.budget)
      (due → exec (.evtDroppedRecord r c) s = .next ((s.takeSeq.2.putRecord r { unitEvent s .evtDropped (if r = 16 then 0 else r) 0xF 0xB
        (x.code.code + x.form <<< 16 + (y.reasons % 8) <<< 17) y.drops 0 with alarm := false } s.takeSeq.1).modRing r fun g =>
          g.setClass { y with drops := 0, reasons := 0 })) ∧
      (¬due → exec (.evtDroppedRecord r c) s = .next s)) ∧
    (∀ i a, s.talus.alarms[i]? = some a → a.stop = false → a.ended = false →
      (s.conditionHolds a = false → ∃ e : Event, e.clear = true ∧ e.code = a.ev.code ∧ e.part = a.ev.part ∧
        exec (.alarmConditionEnd i) s = .next ((s.setTalus { s.talus with
          alarms := (modWhere s.talus.alarms (fun b => decide (b.code = a.code) && b.key == a.key) fun b =>
            { b with ended := true }).filter fun b => !(b.acked && b.ended) }).deliver
          ((s.talus.alarms.filter fun b => (decide (b.code = a.code) && b.key == a.key) && !b.ended).map fun b => b.view) e)) ∧
      (s.conditionHolds a = true → exec (.alarmConditionEnd i) s = .next s)) ∧
    (s.talus.armed = [] →
      exec .entropyHealthFail s =
        .next ((s.setGeode { s.geode with entOk := false }).stopModule .selftest 0xF 0xE 0xE 0xFFFFFFFF) ∧
      (∀ src u d1, 8 ≤ src ∨ src < s.slabCount → exec (.hsTimeout src u d1) s = .next (s.stopModule .hsTimeout src 0xB u d1)) ∧
      (∀ src u d1, src < 8 → s.slabCount ≤ src → exec (.hsTimeout src u d1) s = .next s))

/-- A Function Level Reset resets one function and its partition, that of the physical function clears VF Enable too, and
clearing VF Enable resets every virtual function (R346, R487, R490); PERST# resets every function and the port, and a low
pulse that its filter ignores does nothing (R514, R535). In Rest such a reset is a wake request (R502). NumVFs is set with VF
Enable (R342). Bus Master Enable, once clear, lets nothing start; set again, the commands that wait for it start, and pending
interrupts and drop records go out (R347, R361, R478).
The reset values of the configuration space are the family's (log 17); which fields a reset leaves is partly the model's
reading (log 31). -/
def Obligations.ResetsOfTheHostSide : Prop :=
  ∀ (s : State),
    let w := if s.running then s.wake else s
    (∀ fn, s.configOpen = true → s.fnExists fn = true → fn < 16 → s.Inv →
      (fn ≠ 0 → exec (.functionLevelReset fn) s = .next (w.flrOne fn false)) ∧
      (fn = 0 → exec (.functionLevelReset fn) s = .next (w.clearVfs.flrOne 0 false)) ∧
      exec (.busMasterEnableWrite fn false) s = .next (s.modFn fn fun g => { g with bme := false }) ∧
      (s.running = true → (s.fn fn).d3hot = false →
        let t := s.modFn fn fun g => { g with bme := true }
        let out := fun u : State => (if fn = 0 then [0, 16] else [fn]).foldl (fun u r => u.flushDrops r) ((u.nextDecodes fn).flushPba fn)
        ((∀ f ∈ s.flights, f.fn = fn → f.phase ≠ .bme) → exec (.busMasterEnableWrite fn true) s = .next (out t)) ∧
        (∀ f, (s.flights.filter fun g => g.fn == fn && decide (g.phase = .bme)) = [f] → s.flight? f.seq = some f →
          exec (.busMasterEnableWrite fn true) s = .next (out (t.proceed f))))) ∧
    (s.configOpen = true →
      (s.port.vfEnable = true → exec .vfEnableClear s = .next
        (let t := ((List.range s.port.numVfs).map fun i => i + 1).foldl (fun t i => t.flrOne i false) s
         t.setPort { t.port with vfEnable := false }) ∧ ∀ n, exec (.vfEnableSet n) s = .next s) ∧
      (s.port.vfEnable = false → exec .vfEnableClear s = .next s ∧
        ∀ n, n ≤ 15 → exec (.vfEnableSet n) s = .next (s.setPort { s.port with numVfs := n, vfEnable := true }))) ∧
    (∀ ns, (filterWidths 0).2 ≤ ns → exec (.perstAssert ns) s = .next
      (let h := s.setHub { s.hub with pins := { s.hub.pins with perst := true } }
       let t := (List.range 16).foldl (fun t i => t.flrOne i true) (if s.running then h.wake else h)
       t.setPort { Port.reset with memActive := t.port.memActive })) ∧
    (∀ ns, ns ≤ (filterWidths 0).1 → exec (.perstAssert ns) s = .next s) ∧
    exec .perstRelease s = .next (s.setHub { s.hub with pins := { s.hub.pins with perst := false } }) ∧
    (s.Inv → ∀ i keep, i < 16 →
      let t := s.flrOne i keep
      t.fn i = Fn.reset ∧ t.ring i = Ring.reset ∧ (i = 0 → t.ring 16 = Ring.reset) ∧ (∀ f ∈ t.flights, f.fn ≠ i) ∧
        (t.part i).session = none ∧ (∀ a ∈ t.talus.armed, a.fn ≠ i) ∧ ∀ j, j ≠ i → t.part j = s.part j)

/-- MOD_RST# past its filter puts every unit at its reset value but the endpoint, the monitors and the staging area, and
start-up begins at its release once the input is good (R512, R513, R517, R537); so does power-on from the off state. The
steps of start-up run in order (R516): the boot checks, the stacks, the self-test, the fabric; the last ends it with
partition 0 alone and no quota (R523); a step that fails, or runs past its time, stops the module with the step in D0 (R517,
R518).
In the model a row whose condition does not hold changes nothing (log 3).
SRC and UNIT of start-up stops are the model's reading (log 29). -/
def Obligations.ModuleResetAndStartUp : Prop :=
  ∀ (s : State),
    (∀ ns, (filterWidths 1).2 ≤ ns → s.hub.power ≠ .off → exec (.modRstAssert ns) s =
      .next (((s.setHub { s.hub with pins := { s.hub.pins with modRst := true } }).setTalus { s.talus with startup := [] }).resetUnits .held)) ∧
    (∀ ns, ns ≤ (filterWidths 1).1 → exec (.modRstAssert ns) s = .next s) ∧
    (let h := { s.hub with pins := { s.hub.pins with modRst := false } }
     (s.hub.power = .held → s.hub.pins.pwrGood = true → 40000 ≤ s.power.vin → s.power.vin ≤ 60000 →
       exec .modRstRelease s = .next (s.setHub { h with power := .starting })) ∧
     (s.hub.power = .held → s.hub.pins.pwrGood = false → exec .modRstRelease s = .next (s.setHub { h with power := .off })) ∧
     (s.hub.power ≠ .held → exec .modRstRelease s = .next (s.setHub h))) ∧
    (∀ mv straps, 40000 ≤ mv → mv ≤ 60000 → s.hub.power = .off → exec (.powerOn mv straps) s =
      .next (((s.setPower { s.power with vin := mv, excursion := false }).setHub { s.hub with
        pins := { s.hub.pins with pwrGood := true, straps := straps } }).resetUnits (if s.hub.pins.modRst then .held else .starting))) ∧
    (s.hub.power = .starting → s.hub.stop = none →
      (s.talus.startup = [] → ∀ r, r.failed = none → r.entropyFail = false → (∀ i, r.lanes.getD i 0 ≤ 2) →
        (s.hub.startup.step = 0 → exec (.startupStepEnd r) s =
          .next (s.setHub { s.hub with startup := { s.hub.startup with step := 1 } })) ∧
        (s.hub.startup.step = 1 → ∃ t, exec (.startupStepEnd r) s = .next t ∧
          (bootCheck (s.bootImage 0) (s.bootImage 1) s.hub.fuse.svn = none → t.hub.startup.step = 2 ∧ t.hub.stop = none ∧
            t.geode.entOk = true ∧ t.hub.mFw = digest (s.bootImage 0) ∧ t.hub.mUcode = digest (s.bootImage 1) ∧
            t.hub.svnFw = Config.imageSvn (s.bootImage 0)) ∧
          ∀ code i, bootCheck (s.bootImage 0) (s.bootImage 1) s.hub.fuse.svn = some (code, i) →
            ∃ x, t.hub.stop = some x ∧ x.code = code ∧ x.d0 = 1 ∧ x.d1 = i) ∧
        (s.hub.startup.step = 2 → ∃ t, exec (.startupStepEnd r) s = .next t ∧ t.hub.startup.step = 3 ∧ t.port.memActive = true ∧
          t.parts = s.parts ∧ ∀ k, k < s.slabCount → k < s.slabs.length → 34076 ≤ (t.slab k).frames ∧ (t.slab k).frames ≤ 34332) ∧
        (s.hub.startup.step = 3 → ∃ t, exec (.startupStepEnd r) s = .next t ∧ t.hub.startup.step = 4 ∧
          ∀ b ∈ t.slabs, b.regs = [] ∧ b.spadCorrected = 0 ∧ b.bad = []) ∧
        (s.hub.startup.step = 4 → ∃ t, exec (.startupStepEnd r) s = .next t ∧ t.hub.startup.step = 5 ∧
          ∀ a b, a < s.slabCount → b < s.slabCount → a < s.slabs.length → b < (s.slab a).links.length →
            (t.link a b).up = true ∧ (t.link a b).spares = [sendLanes r a b, recvLanes r a b]) ∧
        (s.hub.startup.step = 5 → 0 < s.parts.length → ∃ t, exec (.startupStepEnd r) s = .next t ∧ t.hub.power = .up ∧
          t.hub.startup.done = true ∧ t.hub.seq = 1 ∧ t.hub.stop = none ∧ (t.part 0).live = true ∧ (t.part 0).q = Quota.zero ∧
          (∀ j, j ≠ 0 → t.part j = s.part j) ∧ t.talus.alarms = [] ∧ t.geode.draws = s.geode.draws + 1)) ∧
      (∀ r i c, s.talus.startup = [] → r.failed = some i → (∀ k, r.lanes.getD k 0 ≤ 2) →
        (s.hub.startup.step, c) ∈ [(2, St.hbmTrain), (3, St.selftest), (4, St.fabricTrain), (5, St.calFail)] →
        ∃ t x, exec (.startupStepEnd r) s = .next t ∧ t.hub.stop = some x ∧ x.code = c ∧ x.d0 = s.hub.startup.step ∧ x.d1 = i) ∧
      (∀ r, s.talus.startup = [] → s.hub.startup.step = 1 → r.entropyFail = true →
        ∃ t x, exec (.startupStepEnd r) s = .next t ∧ t.hub.stop = some x ∧ x.code = .selftest ∧ x.d0 = 1) ∧
      (∀ r i, s.talus.startup = [] → s.hub.startup.step = 4 → s.linkFails r = some i →
        ∃ t x, exec (.startupStepEnd r) s = .next t ∧ t.hub.stop = some x ∧ x.code = .fabricTrain ∧ x.d0 = 4 ∧ x.d1 = i) ∧
      (∃ t x, exec .startupTimeout s = .next t ∧ t.hub.stop = some x ∧ x.d0 = s.hub.startup.step ∧
        (x.code = .startTimeout ∨ (x.code = .steward ∧ s.hub.startup.step = 1))))

/-! ## The whole machine -/

/-- A step takes the command at the front of the queue and is that command on the state with the queue's rest. On an empty
queue 20 µs pass, which is the model's choice (log 1): the local timer of every unit goes on by its own oscillator (R34), the
arrays without work ramp down (R94), and the commands, registers and memories stay. -/
def Obligations.StepRunsTheFrontCommand : Prop :=
  ∀ (s : State),
    (∀ c rest, s.pending = c :: rest → step s = exec c { s with pending := rest }) ∧
    (s.pending = [] → ∃ t, step s = .next t ∧ t.pending = [] ∧ t.hub = { s.hub with timers := t.hub.timers } ∧
      (∀ i, i < s.hub.timers.length → s.hub.timers.getD i 0 + 19 ≤ t.hub.timers.getD i 0 ∧
        t.hub.timers.getD i 0 ≤ s.hub.timers.getD i 0 + 21) ∧
      (∀ k, k < s.slabs.length → ∃ d, t.slab k = (s.slab k).tick d ∧
        ((s.slab k).arrayBusy = true → (t.slab k).ramp = (s.slab k).ramp) ∧
        ((s.slab k).arrayBusy = false → (t.slab k).ramp = (s.slab k).ramp - 1)) ∧
      t.fns = s.fns ∧ t.flights = s.flights ∧ t.parts = s.parts ∧ t.host = s.host ∧ t.port = s.port ∧ t.power = s.power ∧
      t.codec = s.codec ∧ t.geode = s.geode ∧ t.talus.alarms = s.talus.alarms)

/-- The state after reset: sequence numbers start at 1, the completion areas are disabled with the register values of R368 to
R370, every ring is unset, no command is in flight, no alarm is active, the module is not stopped and start-up is at step 0.
Bus Master Enable and the first handle are presumed (log 17). -/
def Obligations.ResetState : Prop :=
  State.reset.hub.seq = 1 ∧ State.reset.nextHandle = 1 ∧ State.reset.flights = [] ∧ State.reset.talus.alarms = [] ∧
  State.reset.hub.stop = none ∧ State.reset.hub.startup.step = 0 ∧ State.reset.hub.service = false ∧ State.reset.pending = [] ∧
  (∀ fn, fn < 16 → (State.reset.fn fn).cqAddr = 0 ∧ (State.reset.fn fn).en = false ∧ (State.reset.fn fn).log2n = 8 ∧
    (State.reset.fn fn).head = 0 ∧ (State.reset.fn fn).tail = 0 ∧ (State.reset.fn fn).bme = false) ∧
  (∀ r, r < 17 → (State.reset.ring r).isSet = false ∧ (State.reset.ring r).head = 0 ∧ (State.reset.ring r).tail = 0) ∧
  (∀ p, p < 16 → (State.reset.part p).live = false)

/-- The reset state meets the invariant. -/
def Obligations.ResetMeetsTheInvariant : Prop := State.reset.Inv

/-- Every step keeps the invariant: the tables keep the sizes that the spec gives them, and host memory its canonical form. -/
def Obligations.EveryStepKeepsTheInvariant : Prop :=
  ∀ (s t : State), s.Inv → step s = .next t → t.Inv

/-- No command touches the queue behind it, the part or its serial number, and none takes entropy draws back: what Geode has
drawn for one purpose is never drawn again, resets included (R297, R448, R451). -/
def Obligations.NoCommandReusesEntropy : Prop :=
  ∀ (c : Instr) (s t : State), exec c s = .next t →
    t.pending = s.pending ∧ t.hub.fuse.part = s.hub.fuse.part ∧ t.hub.fuse.serial = s.hub.fuse.serial ∧
      s.geode.draws ≤ t.geode.draws

/-- While the module stays up, no command but the service-mode switch changes the service mode, and sequence numbers and
handles never go back: a number given is not given again before the next module reset (R35, R191, R388). -/
def Obligations.NumbersNeverGoBack : Prop :=
  ∀ (c : Instr) (s t : State), c ≠ .serviceModeSwitch → (∀ r, c ≠ .startupStepEnd r) → exec c s = .next t → t.hub.power = .up →
    t.hub.service = s.hub.service ∧ s.hub.seq ≤ t.hub.seq ∧ s.nextHandle ≤ t.nextHandle ∧ s.hub.power = .up

/-- A register accepts naturally aligned reads and writes of 4 or 8 bytes, a mailbox slot naturally aligned writes of 4 to 64
bytes and reads of 4 or 8; any other access, and any access where no row of the map of BAR0 (R344) covers the offset, reads
zero or is discarded, with no event (R345). An accepted read of 4 bytes is its half of the 8 bytes there. The accepted writes
are those of a slot, of the MSI-X table and of the completion area's base while EN is 0; a write of any other register is a
row of its own. -/
def Obligations.AccessesOfTheRegisterWindow : Prop :=
  ∀ (s : State) (fn off : Nat), off < 0x400000 →
    let inSlot := 0x10000 ≤ off ∧ off < 0x20000
    let covered := off < 0x2800 ∨ (0x3000 ≤ off ∧ off < 0x3010) ∨ inSlot ∨ (0x20000 ≤ off ∧ off < 0x30000) ∨
      (fn = 0 ∧ (0x100000 ≤ off ∧ off < 0x100000 + 0x10000 * s.slabCount ∨ 0x200000 ≤ off ∧ off < 0x230000))
    let fits := fun n => (n = 4 ∨ n = 8) ∧ off % n = 0
    let fitsSlot := fun n => (n = 4 ∨ n = 8 ∨ n = 16 ∨ n = 32 ∨ n = 64) ∧ off % n = 0
    (∀ n, ¬ (covered ∧ fits n) → s.readBar fn off n = 0) ∧
    (fits 4 → s.readBar fn off 4 = s.readBar fn (off / 8 * 8) 8 / 2 ^ (8 * (off % 8)) % 2 ^ 32) ∧
    (∀ data : List Byte, (¬ covered ∨ (inSlot ∧ ¬ fitsSlot data.length) ∨ (¬ inSlot ∧ ¬ fits data.length)) →
      exec (.registerWrite fn off data) s = .next s) ∧
    (s.barOpen fn = true →
      (∀ data : List Byte, inSlot → fitsSlot data.length → exec (.registerWrite fn off data) s =
        .next (s.setSlot fn (((s.fn fn).slot ((off - 0x10000) / 256)).write (off % 256) data))) ∧
      (∀ data : List Byte, 0x2000 ≤ off → off < 0x2800 → off % data.length = 0 →
        let put := fun (s : State) (k : Nat) => s.modFn fn fun g =>
          g.putVec ((off + k - 0x2000) / 16) ((off + k) / 4 % 4) (leNat ((data.drop k).take 4))
        (data.length = 4 → exec (.registerWrite fn off data) s = .next ((put s 0).flushPba fn)) ∧
        (data.length = 8 → exec (.registerWrite fn off data) s = .next ((put (put s 0) 4).flushPba fn))) ∧
      (∀ data : List Byte, off = 0x1000 → (s.fn fn).en = false →
        (data.length = 4 → exec (.registerWrite fn off data) s =
          .next (s.modFn fn fun g => { g with cqAddr := g.cqAddr / 2 ^ 26 * 2 ^ 26 + leNat data / 64 })) ∧
        (data.length = 8 → exec (.registerWrite fn off data) s = .next (s.modFn fn fun g => { g with cqAddr := leNat data / 64 }))))

/-- Reads of BAR0: the completion queue's registers, the ring registers and the slots read as their fields (R368 to
R370, R374, R474); in a virtual function the rows of the physical one read zero (R344). A function that does not answer, one
that does not exist, is in D3hot or has its stream insecure, gives nothing (R342, R363, log 17).
What is read after a stop is the model's reading (log 47). -/
def Obligations.RegisterReads : Prop :=
  ∀ (s : State) (fn : Nat), s.configOpen = true →
    (s.fnExists fn = true → (s.fn fn).d3hot = false → s.port.ideIo ≠ 2 → s.port.cxl = true → s.hub.stop = none →
      s.readBar fn 0x1000 8 = (s.fn fn).cqAddr * 64 % 2 ^ 64 ∧
      s.readBar fn 0x1008 4 = (boolNat (s.fn fn).en + (s.fn fn).log2n % 32 * 2) ∧
      s.readBar fn 0x1010 4 = (s.fn fn).head % 2 ^ 32 ∧ s.readBar fn 0x1018 4 = (s.fn fn).tail % 2 ^ 32 ∧
      s.readBar fn 0x20008 4 = (s.ring fn).head % 2 ^ 32 ∧ s.readBar fn 0x20010 4 = (s.ring fn).tail % 2 ^ 32 ∧
      (∀ k, k < 256 → s.readBar fn (0x10000 + 256 * k + 8) 8 = ((s.fn fn).slot k).seq % 2 ^ 64 ∧
        s.readBar fn (0x10000 + 256 * k + 16) 4 =
          ((s.fn fn).slot k).status.code % 2 ^ 16 + slotStateCode ((s.fn fn).slot k).state * 2 ^ 16) ∧
      (fn ≠ 0 → ∀ off n, 0x20020 ≤ off → s.readBar fn off n = 0)) ∧
    (s.fnExists fn = false ∨ (s.fn fn).d3hot = true ∨ s.port.ideIo = 2 → ∀ off n, s.readBar fn off n = 0)
end

