-- ==== Sys2Proof/Laws/Memory.lean ====
section
/-! SUPPORT. Laws/Memory.lean: what reads and writes of sparse memory do, and that every operation keeps the canonical
form. -/

namespace Sys2Proof.Machine

variable {w : Nat}

/-- Every listed address is above a bound. -/
def Memory.above (b : Nat) (m : SMem w) : Prop := ∀ c ∈ m, b < c.1

theorem Memory.wf_nil : Memory.wf ([] : SMem w) = true := rfl

theorem Memory.wf_cons {c : Nat × BitVec w} {t : SMem w} :
    Memory.wf (c :: t) = true ↔ c.2 ≠ 0 ∧ Memory.wf t = true ∧ Memory.above c.1 t := by
  induction t generalizing c with
  | nil => simp [Memory.wf, Memory.above]
  | cons d u ih =>
    have h := @ih d
    obtain ⟨a, v⟩ := c
    obtain ⟨b, x⟩ := d
    simp only [Memory.wf, Bool.and_eq_true, bne_iff_ne, decide_eq_true_eq, Memory.above, List.mem_cons, forall_eq_or_imp] at h ⊢
    constructor
    · rintro ⟨⟨h1, h2⟩, h3⟩
      exact ⟨h1, h2, h3, fun e he => Nat.lt_trans h3 ((h.1 h2).2.2 e he)⟩
    · rintro ⟨h1, h2, h3, _⟩
      exact ⟨⟨h1, h2⟩, h3⟩

theorem Memory.above_mono {b c : Nat} {m : SMem w} (h : Memory.above c m) (hb : b ≤ c) : Memory.above b m :=
  fun x hx => Nat.lt_of_le_of_lt hb (h x hx)

/-- Reading below every listed address gives 0. -/
theorem Memory.get_of_above {b a : Nat} {m : SMem w} (h : Memory.above b m) (ha : a ≤ b) : Memory.get m a = 0 := by
  cases m with
  | nil => rfl
  | cons c t =>
    have := h c (List.mem_cons_self ..)
    simp [Memory.get, Nat.lt_of_le_of_lt ha this]

/-- Keeping the entries that satisfy a test keeps the canonical form. -/
theorem Memory.wf_filter {m : SMem w} (h : Memory.wf m = true) (p : Nat × BitVec w → Bool) :
    Memory.wf (m.filter p) = true := by
  induction m with
  | nil => rfl
  | cons c t ih =>
    obtain ⟨h1, h2, h3⟩ := Memory.wf_cons.1 h
    by_cases hp : p c
    · rw [List.filter_cons_of_pos hp]
      exact Memory.wf_cons.2 ⟨h1, ih h2, fun x hx => h3 x (List.mem_of_mem_filter hx)⟩
    · rw [List.filter_cons_of_neg hp]; exact ih h2

/-- Two canonical memories, the first below the second, joined. -/
theorem Memory.wf_append {m n : SMem w} (hm : Memory.wf m = true) (hn : Memory.wf n = true)
    (h : ∀ c ∈ m, Memory.above c.1 n) : Memory.wf (m ++ n) = true := by
  induction m with
  | nil => exact hn
  | cons c t ih =>
    obtain ⟨h1, h2, h3⟩ := Memory.wf_cons.1 hm
    refine Memory.wf_cons.2 ⟨h1, ih h2 fun x hx => h x (List.mem_cons_of_mem _ hx), fun x hx => ?_⟩
    rcases List.mem_append.1 hx with hx | hx
    · exact h3 x hx
    · exact h c (List.mem_cons_self ..) x hx

theorem Memory.mem_cells {a : Nat} {vs : List (BitVec w)} {c : Nat × BitVec w} (h : c ∈ Memory.cells a vs) :
    a ≤ c.1 ∧ c.1 < a + vs.length := by
  induction vs generalizing a with
  | nil => cases h
  | cons v t ih =>
    simp only [Memory.cells] at h
    split at h
    · have := ih h; simp only [List.length_cons]; omega
    · rcases List.mem_cons.1 h with rfl | h
      · simp
      · have := ih h; simp only [List.length_cons]; omega

theorem Memory.wf_cells (a : Nat) (vs : List (BitVec w)) : Memory.wf (Memory.cells a vs) = true := by
  induction vs generalizing a with
  | nil => rfl
  | cons v t ih =>
    simp only [Memory.cells]
    split
    · exact ih _
    · rename_i hv
      exact Memory.wf_cons.2 ⟨hv, ih _, fun x hx => (Memory.mem_cells hx).1⟩

/-- A write keeps the canonical form. -/
theorem Memory.wf_write {m : SMem w} (h : Memory.wf m = true) (a : Nat) (vs : List (BitVec w)) :
    Memory.wf (Memory.write m a vs) = true := by
  unfold Memory.write
  refine Memory.wf_append (Memory.wf_append (Memory.wf_filter h _) (Memory.wf_cells a vs) ?_) (Memory.wf_filter h _) ?_
  · intro c hc x hx
    have h1 := (List.mem_filter.1 hc).2
    have h2 := Memory.mem_cells hx
    simp only [decide_eq_true_eq] at h1
    omega
  · intro c hc x hx
    have h2 := (List.mem_filter.1 hx).2
    simp only [decide_eq_true_eq] at h2
    rcases List.mem_append.1 hc with hc | hc
    · have h1 := (List.mem_filter.1 hc).2
      simp only [decide_eq_true_eq] at h1
      omega
    · have := Memory.mem_cells hc
      omega

theorem Memory.wf_clear {m : SMem w} (h : Memory.wf m = true) (a n : Nat) : Memory.wf (Memory.clear m a n) = true :=
  Memory.wf_filter h _

theorem Memory.wf_cut {m : SMem w} (h : Memory.wf m = true) (a n : Nat) : Memory.wf (Memory.cut m a n) = true :=
  Memory.wf_filter h _

theorem Memory.above_set {b a : Nat} {v : BitVec w} {m : SMem w} (h : Memory.above b m) (ha : b < a) :
    Memory.above b (Memory.set m a v) := by
  induction m with
  | nil => unfold Memory.set; split <;> simp_all [Memory.above]
  | cons c t ih =>
    have hc : b < c.1 := h c (List.mem_cons_self ..)
    have ht : Memory.above b t := fun x hx => h x (List.mem_cons_of_mem _ hx)
    obtain ⟨d, u⟩ := c
    unfold Memory.set
    intro x hx
    split at hx
    · split at hx
      · exact h x hx
      · rcases List.mem_cons.1 hx with rfl | hx
        · exact ha
        · exact h x hx
    · split at hx
      · split at hx
        · exact ht x hx
        · rcases List.mem_cons.1 hx with rfl | hx
          · exact ha
          · exact ht x hx
      · rcases List.mem_cons.1 hx with rfl | hx
        · exact hc
        · exact ih ht x hx

/-- Writing one cell keeps the canonical form. -/
theorem Memory.wf_set {m : SMem w} (h : Memory.wf m = true) (a : Nat) (v : BitVec w) :
    Memory.wf (Memory.set m a v) = true := by
  induction m with
  | nil =>
    unfold Memory.set
    split
    · rfl
    · rename_i hv; exact Memory.wf_cons.2 ⟨hv, rfl, fun x hx => by cases hx⟩
  | cons c t ih =>
    obtain ⟨b, u⟩ := c
    obtain ⟨h1, h2, h3⟩ := Memory.wf_cons.1 h
    unfold Memory.set
    split
    · split
      · exact h
      · rename_i hab hv
        refine Memory.wf_cons.2 ⟨hv, h, fun x hx => ?_⟩
        rcases List.mem_cons.1 hx with rfl | hx
        · exact hab
        · exact Nat.lt_trans hab (h3 x hx)
    · split
      · rename_i hab
        split
        · exact h2
        · rename_i hv; exact Memory.wf_cons.2 ⟨hv, h2, hab ▸ h3⟩
      · exact Memory.wf_cons.2 ⟨h1, ih h2, Memory.above_set h3 (by simp only; omega)⟩

theorem Memory.wf_put {m : SMem w} (h : Memory.wf m = true) (l : List (Nat × BitVec w)) :
    Memory.wf (Memory.put m l) = true := by
  unfold Memory.put
  induction l generalizing m with
  | nil => exact h
  | cons c t ih => exact ih (Memory.wf_set h _ _)

theorem Memory.wf_copy {src m : SMem w} (h : Memory.wf m = true) (a n b : Nat) :
    Memory.wf (Memory.copy src a n m b) = true := by
  unfold Memory.copy
  generalize Memory.cut src a n = l
  have h' := Memory.wf_clear h b n
  revert h'
  generalize Memory.clear m b n = x
  intro h'
  induction l generalizing x with
  | nil => exact h'
  | cons c t ih => exact ih _ (Memory.wf_set h' _ _)

/-- A read after a write to the same cell gives the value written. -/
theorem Memory.get_set_self {m : SMem w} (h : Memory.wf m = true) (a : Nat) (v : BitVec w) :
    Memory.get (Memory.set m a v) a = v := by
  induction m with
  | nil => unfold Memory.set; split <;> simp_all [Memory.get]
  | cons c t ih =>
    obtain ⟨b, u⟩ := c
    obtain ⟨h1, h2, h3⟩ := Memory.wf_cons.1 h
    unfold Memory.set
    split
    · split
      · rename_i hab hv; simp [Memory.get, hab, hv]
      · simp [Memory.get]
    · split
      · rename_i hab
        split
        · rename_i hv; subst hab; rw [hv]; exact Memory.get_of_above h3 (Nat.le_refl _)
        · simp [Memory.get]
      · rename_i h4 h5
        simp [Memory.get, h4, h5, ih h2]

/-- A write of one cell leaves every other cell alone. -/
theorem Memory.get_set_of_ne {m : SMem w} (h : Memory.wf m = true) {a b : Nat} (v : BitVec w) (hb : b ≠ a) :
    Memory.get (Memory.set m a v) b = Memory.get m b := by
  induction m with
  | nil => unfold Memory.set; split <;> simp [Memory.get] ; omega
  | cons c t ih =>
    obtain ⟨d, u⟩ := c
    obtain ⟨h1, h2, h3⟩ := Memory.wf_cons.1 h
    unfold Memory.set
    split
    · rename_i had
      split
      · rfl
      · simp only [Memory.get]
        split
        · rename_i hba; simp [Nat.lt_trans hba had]
        · simp
    · split
      · rename_i had
        subst had
        split
        · simp only [Memory.get, hb, if_false]
          split
          · rename_i hlt; exact Memory.get_of_above h3 (Nat.le_of_lt hlt)
          · rfl
        · simp only [Memory.get, hb, if_false]
      · simp only [Memory.get]
        rw [ih h2]

/-- Dropping the entries that fail a test does not change the cells that pass it. -/
theorem Memory.get_filter {m : SMem w} (h : Memory.wf m = true) (p : Nat → Bool) (a : Nat) :
    Memory.get (m.filter fun c => p c.1) a = if p a then Memory.get m a else 0 := by
  induction m with
  | nil => simp [Memory.get]
  | cons c t ih =>
    obtain ⟨b, u⟩ := c
    obtain ⟨h1, h2, h3⟩ := Memory.wf_cons.1 h
    have ih := ih h2
    have h3' : Memory.above b (t.filter fun c => p c.1) := fun x hx => h3 x (List.mem_of_mem_filter hx)
    by_cases hp : p b
    · rw [List.filter_cons_of_pos (by exact hp)]
      simp only [Memory.get, ih]
      split
      · simp
      · split
        · rename_i e; subst e; simp [hp]
        · rfl
    · rw [List.filter_cons_of_neg (by exact hp), ih]
      simp only [Memory.get]
      split
      · split
        · rename_i hlt; exact Memory.get_of_above h3 (Nat.le_of_lt hlt)
        · split
          · rename_i e; subst e; simp_all
          · rfl
      · rfl

theorem Memory.get_cells {a : Nat} (vs : List (BitVec w)) (b : Nat) :
    Memory.get (Memory.cells a vs) b = if a ≤ b ∧ b < a + vs.length then vs.getD (b - a) 0 else 0 := by
  induction vs generalizing a with
  | nil => simp [Memory.cells, Memory.get]
  | cons v t ih =>
    have key : Memory.get (Memory.cells (a + 1) t) b
        = if a + 1 ≤ b ∧ b < a + 1 + t.length then t.getD (b - (a + 1)) 0 else 0 := ih
    have top : Memory.get (Memory.cells a (v :: t)) b
        = if b < a then Memory.get (Memory.cells (a + 1) t) b else if b = a then v
          else Memory.get (Memory.cells (a + 1) t) b := by
      by_cases hv : v = 0
      · simp only [Memory.cells, hv, if_true]
        by_cases h : b = a
        · rw [key, if_neg (show ¬ (a + 1 ≤ b ∧ b < a + 1 + t.length) by omega)]; simp [h]
        · simp [h]
      · simp only [Memory.cells, hv, if_false, Memory.get]
        by_cases h : b < a
        · simp only [h, if_true]; rw [key, if_neg (by omega)]
        · simp only [h, if_false]
    rw [top, key]
    rcases Nat.lt_trichotomy b a with hlt | rfl | hgt
    · simp only [hlt, if_true, show ¬ (a ≤ b ∧ b < a + (v :: t).length) by omega,
        show ¬ (a + 1 ≤ b ∧ b < a + 1 + t.length) by omega, if_false]
    · simp
    · have hs : b - a = (b - (a + 1)) + 1 := by omega
      simp only [show ¬ b < a by omega, show ¬ b = a by omega, if_false, List.length_cons]
      rw [hs, List.getD_cons_succ]
      congr 1
      apply propext; omega

theorem Memory.get_append {m n : SMem w} (hm : Memory.wf m = true) (b : Nat) (h1 : ∀ c ∈ m, c.1 < b)
    (h2 : ∀ c ∈ n, b ≤ c.1) (a : Nat) : Memory.get (m ++ n) a = if a < b then Memory.get m a else Memory.get n a := by
  induction m with
  | nil =>
    simp only [List.nil_append, Memory.get]
    split
    · rename_i h
      cases n with
      | nil => rfl
      | cons c t => have := h2 c (List.mem_cons_self ..); simp [Memory.get, Nat.lt_of_lt_of_le h this]
    · rfl
  | cons c t ih =>
    obtain ⟨d, u⟩ := c
    obtain ⟨_, h3, _⟩ := Memory.wf_cons.1 hm
    have hd := h1 (d, u) (List.mem_cons_self ..)
    simp only at hd
    have ih := ih h3 fun x hx => h1 x (List.mem_cons_of_mem _ hx)
    simp only [List.cons_append, Memory.get, ih]
    by_cases ha : a < b
    · simp [ha]
    · simp only [ha, if_false, show ¬ a < d by omega, show ¬ a = d by omega]

/-- What a write of a run of cells leaves at any address. -/
theorem Memory.get_write {m : SMem w} (h : Memory.wf m = true) (a : Nat) (vs : List (BitVec w)) (b : Nat) :
    Memory.get (Memory.write m a vs) b = if a ≤ b ∧ b < a + vs.length then vs.getD (b - a) 0 else Memory.get m b := by
  unfold Memory.write
  have e1 := Memory.get_filter h (fun x => decide (x < a)) b
  have e2 := Memory.get_filter h (fun x => decide (a + vs.length ≤ x)) b
  have w1 := Memory.wf_filter h fun c => decide (c.1 < a)
  have hc := Memory.wf_cells a vs
  have wl : Memory.wf (m.filter (fun c => decide (c.1 < a)) ++ Memory.cells a vs) = true := by
    refine Memory.wf_append w1 hc fun c hx x hy => ?_
    have := Memory.mem_cells hy
    have := (List.mem_filter.1 hx).2
    simp only [decide_eq_true_eq] at this; omega
  rw [Memory.get_append wl (a + vs.length)]
  · rw [Memory.get_append w1 a, e1, e2, Memory.get_cells]
    · by_cases h1 : b < a
      · simp [h1, show b < a + vs.length by omega]
      · by_cases h2 : b < a + vs.length
        · simp [h1, h2, show a ≤ b by omega]
        · simp [h2, show a + vs.length ≤ b by omega]
    · intro c hx; simpa using (List.mem_filter.1 hx).2
    · intro c hx; exact (Memory.mem_cells hx).1
  · intro c hx
    rcases List.mem_append.1 hx with hx | hx
    · have := (List.mem_filter.1 hx).2; simp only [decide_eq_true_eq] at this; omega
    · exact (Memory.mem_cells hx).2
  · intro c hx; simpa using (List.mem_filter.1 hx).2

end Sys2Proof.Machine
end

