-- ==== Sys2Proof/Laws/Bytes.lean ====
section
/-! SUPPORT. Bytes.lean: lists of bytes and the numbers in them; what is written to memory is read back; which flits pass
their check. -/

namespace Sys2Proof.Machine

theorem length_bytesAt {bs : List Byte} {a n : Nat} : (bytesAt bs a n).length = n := by
  simp [bytesAt, List.length_take]

/-- The first part of a list in two parts. -/
theorem bytesAt_left {x y : List Byte} {n : Nat} (h : x.length = n) : bytesAt (x ++ y) 0 n = x := by
  subst h; simp [bytesAt]

/-- The second part. -/
theorem bytesAt_right {x y : List Byte} {a n : Nat} (h : x.length = a) (hn : y.length = n) : bytesAt (x ++ y) a n = y := by
  subst h hn; simp [bytesAt]

/-- Bytes inside the first part. -/
theorem bytesAt_append {x y : List Byte} {a n : Nat} (h : a + n ≤ x.length) : bytesAt (x ++ y) a n = bytesAt x a n := by
  unfold bytesAt
  rw [List.drop_append_of_le_length (by omega), List.take_append_of_le_length (by simp; omega)]

/-- Bytes among the zeros that end a list. -/
theorem bytesAt_zeros {x : List Byte} {m a n : Nat} (h : x.length ≤ a) :
    bytesAt (x ++ List.replicate m 0) a n = List.replicate n 0 := by
  unfold bytesAt
  simp only [List.drop_append, List.drop_of_length_le h, List.nil_append, List.drop_replicate, List.take_replicate,
    List.length_replicate, List.replicate_append_replicate]
  congr 1; omega

/-- All bytes of a list. -/
theorem bytesAt_all {x : List Byte} {n : Nat} (h : x.length = n) : bytesAt x 0 n = x := by
  have := bytesAt_left (y := []) h
  rwa [List.append_nil] at this

theorem length_toLe (n x : Nat) : (toLe n x).length = n := by
  induction n generalizing x with
  | zero => rfl
  | succ n ih => simp [toLe, ih]

/-- A number is read back from its bytes. -/
theorem leNat_toLe (n x : Nat) : leNat (toLe n x) = x % 256 ^ n := by
  induction n generalizing x with
  | zero => simp [toLe, leNat, Nat.mod_one]
  | succ n ih =>
    rw [toLe, leNat, ih, Nat.pow_succ, Nat.mul_comm (256 ^ n), Nat.mod_mul]
    simp

/-- Bytes just written are read back. -/
theorem Memory.read_write {m : Mem} (h : Memory.wf m = true) (a k n : Nat) {vs : List Byte} (hk : k + n ≤ vs.length) :
    Memory.read (Memory.write m a vs) (a + k) n = bytesAt vs k n := by
  have e : (bytesAt vs k n).length = n := length_bytesAt
  refine List.ext_getElem (by simp [Memory.read, e]) fun i h1 h2 => ?_
  have hi : i < n := by omega
  have hv : (vs.drop k).take n ++ List.replicate (n - ((vs.drop k).take n).length) 0 = bytesAt vs k n := rfl
  have ht : i < ((vs.drop k).take n).length := by simp; omega
  simp only [Memory.read, List.getElem_map, List.getElem_range, Memory.get_write h, ← hv, List.getElem_append_left ht,
    List.getElem_take, List.getElem_drop]
  rw [if_pos (by omega), show a + k + i - a = k + i by omega, List.getD_eq_getElem _ _ (by omega)]

/-- A flit passes its check where its last 8 bytes are the CRC of those before (R255, R258). -/
theorem flitGood_iff (f : Flit) : flitGood f = true ↔ f.crc = crc64 (flitHead f) := by
  have hl : (flitHead f).length = 248 := by simp [flitHead, length_bytesAt]
  rw [flitGood, flitBytes, bytesAt_left hl, numAt, bytesAt_right hl (length_toLe ..), leNat_toLe]
  rw [Nat.mod_eq_of_lt (by have := f.crc.isLt; omega), BitVec.ofNat_toNat, BitVec.setWidth_eq, beq_iff_eq, eq_comm]

end Sys2Proof.Machine
end

