-- ==== Sys2Proof/Laws/State.lean ====
section
/-! SUPPORT. Laws/State.lean: each named update of the state changes its own field and no other. -/

namespace Sys2Proof.Machine

/-! ### `State.setHub` -/

@[simp] theorem State.setHub_hub (s : State) (h : Hub) : (s.setHub h).hub = h := rfl
@[simp] theorem State.setHub_port (s : State) (h : Hub) : (s.setHub h).port = s.port := rfl
@[simp] theorem State.setHub_fns (s : State) (h : Hub) : (s.setHub h).fns = s.fns := rfl
@[simp] theorem State.setHub_flights (s : State) (h : Hub) : (s.setHub h).flights = s.flights := rfl
@[simp] theorem State.setHub_parts (s : State) (h : Hub) : (s.setHub h).parts = s.parts := rfl
@[simp] theorem State.setHub_nextHandle (s : State) (h : Hub) : (s.setHub h).nextHandle = s.nextHandle := rfl
@[simp] theorem State.setHub_slabs (s : State) (h : Hub) : (s.setHub h).slabs = s.slabs := rfl
@[simp] theorem State.setHub_codec (s : State) (h : Hub) : (s.setHub h).codec = s.codec := rfl
@[simp] theorem State.setHub_geode (s : State) (h : Hub) : (s.setHub h).geode = s.geode := rfl
@[simp] theorem State.setHub_talus (s : State) (h : Hub) : (s.setHub h).talus = s.talus := rfl
@[simp] theorem State.setHub_power (s : State) (h : Hub) : (s.setHub h).power = s.power := rfl
@[simp] theorem State.setHub_host (s : State) (h : Hub) : (s.setHub h).host = s.host := rfl
@[simp] theorem State.setHub_free (s : State) (h : Hub) : (s.setHub h).free = s.free := rfl
@[simp] theorem State.setHub_pending (s : State) (h : Hub) : (s.setHub h).pending = s.pending := rfl

/-! ### `State.setPort` -/

@[simp] theorem State.setPort_hub (s : State) (p : Port) : (s.setPort p).hub = s.hub := rfl
@[simp] theorem State.setPort_port (s : State) (p : Port) : (s.setPort p).port = p := rfl
@[simp] theorem State.setPort_fns (s : State) (p : Port) : (s.setPort p).fns = s.fns := rfl
@[simp] theorem State.setPort_flights (s : State) (p : Port) : (s.setPort p).flights = s.flights := rfl
@[simp] theorem State.setPort_parts (s : State) (p : Port) : (s.setPort p).parts = s.parts := rfl
@[simp] theorem State.setPort_nextHandle (s : State) (p : Port) : (s.setPort p).nextHandle = s.nextHandle := rfl
@[simp] theorem State.setPort_slabs (s : State) (p : Port) : (s.setPort p).slabs = s.slabs := rfl
@[simp] theorem State.setPort_codec (s : State) (p : Port) : (s.setPort p).codec = s.codec := rfl
@[simp] theorem State.setPort_geode (s : State) (p : Port) : (s.setPort p).geode = s.geode := rfl
@[simp] theorem State.setPort_talus (s : State) (p : Port) : (s.setPort p).talus = s.talus := rfl
@[simp] theorem State.setPort_power (s : State) (p : Port) : (s.setPort p).power = s.power := rfl
@[simp] theorem State.setPort_host (s : State) (p : Port) : (s.setPort p).host = s.host := rfl
@[simp] theorem State.setPort_free (s : State) (p : Port) : (s.setPort p).free = s.free := rfl
@[simp] theorem State.setPort_pending (s : State) (p : Port) : (s.setPort p).pending = s.pending := rfl

/-! ### `State.setFns` -/

@[simp] theorem State.setFns_hub (s : State) (l : List Fn) : (s.setFns l).hub = s.hub := rfl
@[simp] theorem State.setFns_port (s : State) (l : List Fn) : (s.setFns l).port = s.port := rfl
@[simp] theorem State.setFns_fns (s : State) (l : List Fn) : (s.setFns l).fns = l := rfl
@[simp] theorem State.setFns_flights (s : State) (l : List Fn) : (s.setFns l).flights = s.flights := rfl
@[simp] theorem State.setFns_parts (s : State) (l : List Fn) : (s.setFns l).parts = s.parts := rfl
@[simp] theorem State.setFns_nextHandle (s : State) (l : List Fn) : (s.setFns l).nextHandle = s.nextHandle := rfl
@[simp] theorem State.setFns_slabs (s : State) (l : List Fn) : (s.setFns l).slabs = s.slabs := rfl
@[simp] theorem State.setFns_codec (s : State) (l : List Fn) : (s.setFns l).codec = s.codec := rfl
@[simp] theorem State.setFns_geode (s : State) (l : List Fn) : (s.setFns l).geode = s.geode := rfl
@[simp] theorem State.setFns_talus (s : State) (l : List Fn) : (s.setFns l).talus = s.talus := rfl
@[simp] theorem State.setFns_power (s : State) (l : List Fn) : (s.setFns l).power = s.power := rfl
@[simp] theorem State.setFns_host (s : State) (l : List Fn) : (s.setFns l).host = s.host := rfl
@[simp] theorem State.setFns_free (s : State) (l : List Fn) : (s.setFns l).free = s.free := rfl
@[simp] theorem State.setFns_pending (s : State) (l : List Fn) : (s.setFns l).pending = s.pending := rfl

/-! ### `State.setFlights` -/

@[simp] theorem State.setFlights_hub (s : State) (l : List Flight) : (s.setFlights l).hub = s.hub := rfl
@[simp] theorem State.setFlights_port (s : State) (l : List Flight) : (s.setFlights l).port = s.port := rfl
@[simp] theorem State.setFlights_fns (s : State) (l : List Flight) : (s.setFlights l).fns = s.fns := rfl
@[simp] theorem State.setFlights_flights (s : State) (l : List Flight) : (s.setFlights l).flights = l := rfl
@[simp] theorem State.setFlights_parts (s : State) (l : List Flight) : (s.setFlights l).parts = s.parts := rfl
@[simp] theorem State.setFlights_nextHandle (s : State) (l : List Flight) : (s.setFlights l).nextHandle = s.nextHandle := rfl
@[simp] theorem State.setFlights_slabs (s : State) (l : List Flight) : (s.setFlights l).slabs = s.slabs := rfl
@[simp] theorem State.setFlights_codec (s : State) (l : List Flight) : (s.setFlights l).codec = s.codec := rfl
@[simp] theorem State.setFlights_geode (s : State) (l : List Flight) : (s.setFlights l).geode = s.geode := rfl
@[simp] theorem State.setFlights_talus (s : State) (l : List Flight) : (s.setFlights l).talus = s.talus := rfl
@[simp] theorem State.setFlights_power (s : State) (l : List Flight) : (s.setFlights l).power = s.power := rfl
@[simp] theorem State.setFlights_host (s : State) (l : List Flight) : (s.setFlights l).host = s.host := rfl
@[simp] theorem State.setFlights_free (s : State) (l : List Flight) : (s.setFlights l).free = s.free := rfl
@[simp] theorem State.setFlights_pending (s : State) (l : List Flight) : (s.setFlights l).pending = s.pending := rfl

/-! ### `State.setParts` -/

@[simp] theorem State.setParts_hub (s : State) (l : List Part) : (s.setParts l).hub = s.hub := rfl
@[simp] theorem State.setParts_port (s : State) (l : List Part) : (s.setParts l).port = s.port := rfl
@[simp] theorem State.setParts_fns (s : State) (l : List Part) : (s.setParts l).fns = s.fns := rfl
@[simp] theorem State.setParts_flights (s : State) (l : List Part) : (s.setParts l).flights = s.flights := rfl
@[simp] theorem State.setParts_parts (s : State) (l : List Part) : (s.setParts l).parts = l := rfl
@[simp] theorem State.setParts_nextHandle (s : State) (l : List Part) : (s.setParts l).nextHandle = s.nextHandle := rfl
@[simp] theorem State.setParts_slabs (s : State) (l : List Part) : (s.setParts l).slabs = s.slabs := rfl
@[simp] theorem State.setParts_codec (s : State) (l : List Part) : (s.setParts l).codec = s.codec := rfl
@[simp] theorem State.setParts_geode (s : State) (l : List Part) : (s.setParts l).geode = s.geode := rfl
@[simp] theorem State.setParts_talus (s : State) (l : List Part) : (s.setParts l).talus = s.talus := rfl
@[simp] theorem State.setParts_power (s : State) (l : List Part) : (s.setParts l).power = s.power := rfl
@[simp] theorem State.setParts_host (s : State) (l : List Part) : (s.setParts l).host = s.host := rfl
@[simp] theorem State.setParts_free (s : State) (l : List Part) : (s.setParts l).free = s.free := rfl
@[simp] theorem State.setParts_pending (s : State) (l : List Part) : (s.setParts l).pending = s.pending := rfl

/-! ### `State.setNextHandle` -/

@[simp] theorem State.setNextHandle_hub (s : State) (n : Nat) : (s.setNextHandle n).hub = s.hub := rfl
@[simp] theorem State.setNextHandle_port (s : State) (n : Nat) : (s.setNextHandle n).port = s.port := rfl
@[simp] theorem State.setNextHandle_fns (s : State) (n : Nat) : (s.setNextHandle n).fns = s.fns := rfl
@[simp] theorem State.setNextHandle_flights (s : State) (n : Nat) : (s.setNextHandle n).flights = s.flights := rfl
@[simp] theorem State.setNextHandle_parts (s : State) (n : Nat) : (s.setNextHandle n).parts = s.parts := rfl
@[simp] theorem State.setNextHandle_nextHandle (s : State) (n : Nat) : (s.setNextHandle n).nextHandle = n := rfl
@[simp] theorem State.setNextHandle_slabs (s : State) (n : Nat) : (s.setNextHandle n).slabs = s.slabs := rfl
@[simp] theorem State.setNextHandle_codec (s : State) (n : Nat) : (s.setNextHandle n).codec = s.codec := rfl
@[simp] theorem State.setNextHandle_geode (s : State) (n : Nat) : (s.setNextHandle n).geode = s.geode := rfl
@[simp] theorem State.setNextHandle_talus (s : State) (n : Nat) : (s.setNextHandle n).talus = s.talus := rfl
@[simp] theorem State.setNextHandle_power (s : State) (n : Nat) : (s.setNextHandle n).power = s.power := rfl
@[simp] theorem State.setNextHandle_host (s : State) (n : Nat) : (s.setNextHandle n).host = s.host := rfl
@[simp] theorem State.setNextHandle_free (s : State) (n : Nat) : (s.setNextHandle n).free = s.free := rfl
@[simp] theorem State.setNextHandle_pending (s : State) (n : Nat) : (s.setNextHandle n).pending = s.pending := rfl

/-! ### `State.setSlabs` -/

@[simp] theorem State.setSlabs_hub (s : State) (l : List Slab) : (s.setSlabs l).hub = s.hub := rfl
@[simp] theorem State.setSlabs_port (s : State) (l : List Slab) : (s.setSlabs l).port = s.port := rfl
@[simp] theorem State.setSlabs_fns (s : State) (l : List Slab) : (s.setSlabs l).fns = s.fns := rfl
@[simp] theorem State.setSlabs_flights (s : State) (l : List Slab) : (s.setSlabs l).flights = s.flights := rfl
@[simp] theorem State.setSlabs_parts (s : State) (l : List Slab) : (s.setSlabs l).parts = s.parts := rfl
@[simp] theorem State.setSlabs_nextHandle (s : State) (l : List Slab) : (s.setSlabs l).nextHandle = s.nextHandle := rfl
@[simp] theorem State.setSlabs_slabs (s : State) (l : List Slab) : (s.setSlabs l).slabs = l := rfl
@[simp] theorem State.setSlabs_codec (s : State) (l : List Slab) : (s.setSlabs l).codec = s.codec := rfl
@[simp] theorem State.setSlabs_geode (s : State) (l : List Slab) : (s.setSlabs l).geode = s.geode := rfl
@[simp] theorem State.setSlabs_talus (s : State) (l : List Slab) : (s.setSlabs l).talus = s.talus := rfl
@[simp] theorem State.setSlabs_power (s : State) (l : List Slab) : (s.setSlabs l).power = s.power := rfl
@[simp] theorem State.setSlabs_host (s : State) (l : List Slab) : (s.setSlabs l).host = s.host := rfl
@[simp] theorem State.setSlabs_free (s : State) (l : List Slab) : (s.setSlabs l).free = s.free := rfl
@[simp] theorem State.setSlabs_pending (s : State) (l : List Slab) : (s.setSlabs l).pending = s.pending := rfl

/-! ### `State.setCodec` -/

@[simp] theorem State.setCodec_hub (s : State) (c : Codec) : (s.setCodec c).hub = s.hub := rfl
@[simp] theorem State.setCodec_port (s : State) (c : Codec) : (s.setCodec c).port = s.port := rfl
@[simp] theorem State.setCodec_fns (s : State) (c : Codec) : (s.setCodec c).fns = s.fns := rfl
@[simp] theorem State.setCodec_flights (s : State) (c : Codec) : (s.setCodec c).flights = s.flights := rfl
@[simp] theorem State.setCodec_parts (s : State) (c : Codec) : (s.setCodec c).parts = s.parts := rfl
@[simp] theorem State.setCodec_nextHandle (s : State) (c : Codec) : (s.setCodec c).nextHandle = s.nextHandle := rfl
@[simp] theorem State.setCodec_slabs (s : State) (c : Codec) : (s.setCodec c).slabs = s.slabs := rfl
@[simp] theorem State.setCodec_codec (s : State) (c : Codec) : (s.setCodec c).codec = c := rfl
@[simp] theorem State.setCodec_geode (s : State) (c : Codec) : (s.setCodec c).geode = s.geode := rfl
@[simp] theorem State.setCodec_talus (s : State) (c : Codec) : (s.setCodec c).talus = s.talus := rfl
@[simp] theorem State.setCodec_power (s : State) (c : Codec) : (s.setCodec c).power = s.power := rfl
@[simp] theorem State.setCodec_host (s : State) (c : Codec) : (s.setCodec c).host = s.host := rfl
@[simp] theorem State.setCodec_free (s : State) (c : Codec) : (s.setCodec c).free = s.free := rfl
@[simp] theorem State.setCodec_pending (s : State) (c : Codec) : (s.setCodec c).pending = s.pending := rfl

/-! ### `State.setGeode` -/

@[simp] theorem State.setGeode_hub (s : State) (g : Geode) : (s.setGeode g).hub = s.hub := rfl
@[simp] theorem State.setGeode_port (s : State) (g : Geode) : (s.setGeode g).port = s.port := rfl
@[simp] theorem State.setGeode_fns (s : State) (g : Geode) : (s.setGeode g).fns = s.fns := rfl
@[simp] theorem State.setGeode_flights (s : State) (g : Geode) : (s.setGeode g).flights = s.flights := rfl
@[simp] theorem State.setGeode_parts (s : State) (g : Geode) : (s.setGeode g).parts = s.parts := rfl
@[simp] theorem State.setGeode_nextHandle (s : State) (g : Geode) : (s.setGeode g).nextHandle = s.nextHandle := rfl
@[simp] theorem State.setGeode_slabs (s : State) (g : Geode) : (s.setGeode g).slabs = s.slabs := rfl
@[simp] theorem State.setGeode_codec (s : State) (g : Geode) : (s.setGeode g).codec = s.codec := rfl
@[simp] theorem State.setGeode_geode (s : State) (g : Geode) : (s.setGeode g).geode = g := rfl
@[simp] theorem State.setGeode_talus (s : State) (g : Geode) : (s.setGeode g).talus = s.talus := rfl
@[simp] theorem State.setGeode_power (s : State) (g : Geode) : (s.setGeode g).power = s.power := rfl
@[simp] theorem State.setGeode_host (s : State) (g : Geode) : (s.setGeode g).host = s.host := rfl
@[simp] theorem State.setGeode_free (s : State) (g : Geode) : (s.setGeode g).free = s.free := rfl
@[simp] theorem State.setGeode_pending (s : State) (g : Geode) : (s.setGeode g).pending = s.pending := rfl

/-! ### `State.setTalus` -/

@[simp] theorem State.setTalus_hub (s : State) (t : Talus) : (s.setTalus t).hub = s.hub := rfl
@[simp] theorem State.setTalus_port (s : State) (t : Talus) : (s.setTalus t).port = s.port := rfl
@[simp] theorem State.setTalus_fns (s : State) (t : Talus) : (s.setTalus t).fns = s.fns := rfl
@[simp] theorem State.setTalus_flights (s : State) (t : Talus) : (s.setTalus t).flights = s.flights := rfl
@[simp] theorem State.setTalus_parts (s : State) (t : Talus) : (s.setTalus t).parts = s.parts := rfl
@[simp] theorem State.setTalus_nextHandle (s : State) (t : Talus) : (s.setTalus t).nextHandle = s.nextHandle := rfl
@[simp] theorem State.setTalus_slabs (s : State) (t : Talus) : (s.setTalus t).slabs = s.slabs := rfl
@[simp] theorem State.setTalus_codec (s : State) (t : Talus) : (s.setTalus t).codec = s.codec := rfl
@[simp] theorem State.setTalus_geode (s : State) (t : Talus) : (s.setTalus t).geode = s.geode := rfl
@[simp] theorem State.setTalus_talus (s : State) (t : Talus) : (s.setTalus t).talus = t := rfl
@[simp] theorem State.setTalus_power (s : State) (t : Talus) : (s.setTalus t).power = s.power := rfl
@[simp] theorem State.setTalus_host (s : State) (t : Talus) : (s.setTalus t).host = s.host := rfl
@[simp] theorem State.setTalus_free (s : State) (t : Talus) : (s.setTalus t).free = s.free := rfl
@[simp] theorem State.setTalus_pending (s : State) (t : Talus) : (s.setTalus t).pending = s.pending := rfl

/-! ### `State.setPower` -/

@[simp] theorem State.setPower_hub (s : State) (p : PowerMgr) : (s.setPower p).hub = s.hub := rfl
@[simp] theorem State.setPower_port (s : State) (p : PowerMgr) : (s.setPower p).port = s.port := rfl
@[simp] theorem State.setPower_fns (s : State) (p : PowerMgr) : (s.setPower p).fns = s.fns := rfl
@[simp] theorem State.setPower_flights (s : State) (p : PowerMgr) : (s.setPower p).flights = s.flights := rfl
@[simp] theorem State.setPower_parts (s : State) (p : PowerMgr) : (s.setPower p).parts = s.parts := rfl
@[simp] theorem State.setPower_nextHandle (s : State) (p : PowerMgr) : (s.setPower p).nextHandle = s.nextHandle := rfl
@[simp] theorem State.setPower_slabs (s : State) (p : PowerMgr) : (s.setPower p).slabs = s.slabs := rfl
@[simp] theorem State.setPower_codec (s : State) (p : PowerMgr) : (s.setPower p).codec = s.codec := rfl
@[simp] theorem State.setPower_geode (s : State) (p : PowerMgr) : (s.setPower p).geode = s.geode := rfl
@[simp] theorem State.setPower_talus (s : State) (p : PowerMgr) : (s.setPower p).talus = s.talus := rfl
@[simp] theorem State.setPower_power (s : State) (p : PowerMgr) : (s.setPower p).power = p := rfl
@[simp] theorem State.setPower_host (s : State) (p : PowerMgr) : (s.setPower p).host = s.host := rfl
@[simp] theorem State.setPower_free (s : State) (p : PowerMgr) : (s.setPower p).free = s.free := rfl
@[simp] theorem State.setPower_pending (s : State) (p : PowerMgr) : (s.setPower p).pending = s.pending := rfl

/-! ### `State.setHost` -/

@[simp] theorem State.setHost_hub (s : State) (m : Mem) : (s.setHost m).hub = s.hub := rfl
@[simp] theorem State.setHost_port (s : State) (m : Mem) : (s.setHost m).port = s.port := rfl
@[simp] theorem State.setHost_fns (s : State) (m : Mem) : (s.setHost m).fns = s.fns := rfl
@[simp] theorem State.setHost_flights (s : State) (m : Mem) : (s.setHost m).flights = s.flights := rfl
@[simp] theorem State.setHost_parts (s : State) (m : Mem) : (s.setHost m).parts = s.parts := rfl
@[simp] theorem State.setHost_nextHandle (s : State) (m : Mem) : (s.setHost m).nextHandle = s.nextHandle := rfl
@[simp] theorem State.setHost_slabs (s : State) (m : Mem) : (s.setHost m).slabs = s.slabs := rfl
@[simp] theorem State.setHost_codec (s : State) (m : Mem) : (s.setHost m).codec = s.codec := rfl
@[simp] theorem State.setHost_geode (s : State) (m : Mem) : (s.setHost m).geode = s.geode := rfl
@[simp] theorem State.setHost_talus (s : State) (m : Mem) : (s.setHost m).talus = s.talus := rfl
@[simp] theorem State.setHost_power (s : State) (m : Mem) : (s.setHost m).power = s.power := rfl
@[simp] theorem State.setHost_host (s : State) (m : Mem) : (s.setHost m).host = m := rfl
@[simp] theorem State.setHost_free (s : State) (m : Mem) : (s.setHost m).free = s.free := rfl
@[simp] theorem State.setHost_pending (s : State) (m : Mem) : (s.setHost m).pending = s.pending := rfl

/-! ### `State.setFree` -/

@[simp] theorem State.setFree_hub (s : State) (n : Nat) : (s.setFree n).hub = s.hub := rfl
@[simp] theorem State.setFree_port (s : State) (n : Nat) : (s.setFree n).port = s.port := rfl
@[simp] theorem State.setFree_fns (s : State) (n : Nat) : (s.setFree n).fns = s.fns := rfl
@[simp] theorem State.setFree_flights (s : State) (n : Nat) : (s.setFree n).flights = s.flights := rfl
@[simp] theorem State.setFree_parts (s : State) (n : Nat) : (s.setFree n).parts = s.parts := rfl
@[simp] theorem State.setFree_nextHandle (s : State) (n : Nat) : (s.setFree n).nextHandle = s.nextHandle := rfl
@[simp] theorem State.setFree_slabs (s : State) (n : Nat) : (s.setFree n).slabs = s.slabs := rfl
@[simp] theorem State.setFree_codec (s : State) (n : Nat) : (s.setFree n).codec = s.codec := rfl
@[simp] theorem State.setFree_geode (s : State) (n : Nat) : (s.setFree n).geode = s.geode := rfl
@[simp] theorem State.setFree_talus (s : State) (n : Nat) : (s.setFree n).talus = s.talus := rfl
@[simp] theorem State.setFree_power (s : State) (n : Nat) : (s.setFree n).power = s.power := rfl
@[simp] theorem State.setFree_host (s : State) (n : Nat) : (s.setFree n).host = s.host := rfl
@[simp] theorem State.setFree_free (s : State) (n : Nat) : (s.setFree n).free = n := rfl
@[simp] theorem State.setFree_pending (s : State) (n : Nat) : (s.setFree n).pending = s.pending := rfl

/-! ### `State.modFn` -/

@[simp] theorem State.modFn_hub (s : State) (i : Nat) (f : Fn → Fn) : (s.modFn i f).hub = s.hub := rfl
@[simp] theorem State.modFn_port (s : State) (i : Nat) (f : Fn → Fn) : (s.modFn i f).port = s.port := rfl
@[simp] theorem State.modFn_fns (s : State) (i : Nat) (f : Fn → Fn) : (s.modFn i f).fns = modAt s.fns i f := rfl
@[simp] theorem State.modFn_flights (s : State) (i : Nat) (f : Fn → Fn) : (s.modFn i f).flights = s.flights := rfl
@[simp] theorem State.modFn_parts (s : State) (i : Nat) (f : Fn → Fn) : (s.modFn i f).parts = s.parts := rfl
@[simp] theorem State.modFn_nextHandle (s : State) (i : Nat) (f : Fn → Fn) : (s.modFn i f).nextHandle = s.nextHandle := rfl
@[simp] theorem State.modFn_slabs (s : State) (i : Nat) (f : Fn → Fn) : (s.modFn i f).slabs = s.slabs := rfl
@[simp] theorem State.modFn_codec (s : State) (i : Nat) (f : Fn → Fn) : (s.modFn i f).codec = s.codec := rfl
@[simp] theorem State.modFn_geode (s : State) (i : Nat) (f : Fn → Fn) : (s.modFn i f).geode = s.geode := rfl
@[simp] theorem State.modFn_talus (s : State) (i : Nat) (f : Fn → Fn) : (s.modFn i f).talus = s.talus := rfl
@[simp] theorem State.modFn_power (s : State) (i : Nat) (f : Fn → Fn) : (s.modFn i f).power = s.power := rfl
@[simp] theorem State.modFn_host (s : State) (i : Nat) (f : Fn → Fn) : (s.modFn i f).host = s.host := rfl
@[simp] theorem State.modFn_free (s : State) (i : Nat) (f : Fn → Fn) : (s.modFn i f).free = s.free := rfl
@[simp] theorem State.modFn_pending (s : State) (i : Nat) (f : Fn → Fn) : (s.modFn i f).pending = s.pending := rfl

/-! ### `State.modPart` -/

@[simp] theorem State.modPart_hub (s : State) (i : Nat) (f : Part → Part) : (s.modPart i f).hub = s.hub := rfl
@[simp] theorem State.modPart_port (s : State) (i : Nat) (f : Part → Part) : (s.modPart i f).port = s.port := rfl
@[simp] theorem State.modPart_fns (s : State) (i : Nat) (f : Part → Part) : (s.modPart i f).fns = s.fns := rfl
@[simp] theorem State.modPart_flights (s : State) (i : Nat) (f : Part → Part) : (s.modPart i f).flights = s.flights := rfl
@[simp] theorem State.modPart_parts (s : State) (i : Nat) (f : Part → Part) : (s.modPart i f).parts = modAt s.parts i f := rfl
@[simp] theorem State.modPart_nextHandle (s : State) (i : Nat) (f : Part → Part) : (s.modPart i f).nextHandle = s.nextHandle := rfl
@[simp] theorem State.modPart_slabs (s : State) (i : Nat) (f : Part → Part) : (s.modPart i f).slabs = s.slabs := rfl
@[simp] theorem State.modPart_codec (s : State) (i : Nat) (f : Part → Part) : (s.modPart i f).codec = s.codec := rfl
@[simp] theorem State.modPart_geode (s : State) (i : Nat) (f : Part → Part) : (s.modPart i f).geode = s.geode := rfl
@[simp] theorem State.modPart_talus (s : State) (i : Nat) (f : Part → Part) : (s.modPart i f).talus = s.talus := rfl
@[simp] theorem State.modPart_power (s : State) (i : Nat) (f : Part → Part) : (s.modPart i f).power = s.power := rfl
@[simp] theorem State.modPart_host (s : State) (i : Nat) (f : Part → Part) : (s.modPart i f).host = s.host := rfl
@[simp] theorem State.modPart_free (s : State) (i : Nat) (f : Part → Part) : (s.modPart i f).free = s.free := rfl
@[simp] theorem State.modPart_pending (s : State) (i : Nat) (f : Part → Part) : (s.modPart i f).pending = s.pending := rfl

/-! ### `State.modSlab` -/

@[simp] theorem State.modSlab_hub (s : State) (i : Nat) (f : Slab → Slab) : (s.modSlab i f).hub = s.hub := rfl
@[simp] theorem State.modSlab_port (s : State) (i : Nat) (f : Slab → Slab) : (s.modSlab i f).port = s.port := rfl
@[simp] theorem State.modSlab_fns (s : State) (i : Nat) (f : Slab → Slab) : (s.modSlab i f).fns = s.fns := rfl
@[simp] theorem State.modSlab_flights (s : State) (i : Nat) (f : Slab → Slab) : (s.modSlab i f).flights = s.flights := rfl
@[simp] theorem State.modSlab_parts (s : State) (i : Nat) (f : Slab → Slab) : (s.modSlab i f).parts = s.parts := rfl
@[simp] theorem State.modSlab_nextHandle (s : State) (i : Nat) (f : Slab → Slab) : (s.modSlab i f).nextHandle = s.nextHandle := rfl
@[simp] theorem State.modSlab_slabs (s : State) (i : Nat) (f : Slab → Slab) : (s.modSlab i f).slabs = modAt s.slabs i f := rfl
@[simp] theorem State.modSlab_codec (s : State) (i : Nat) (f : Slab → Slab) : (s.modSlab i f).codec = s.codec := rfl
@[simp] theorem State.modSlab_geode (s : State) (i : Nat) (f : Slab → Slab) : (s.modSlab i f).geode = s.geode := rfl
@[simp] theorem State.modSlab_talus (s : State) (i : Nat) (f : Slab → Slab) : (s.modSlab i f).talus = s.talus := rfl
@[simp] theorem State.modSlab_power (s : State) (i : Nat) (f : Slab → Slab) : (s.modSlab i f).power = s.power := rfl
@[simp] theorem State.modSlab_host (s : State) (i : Nat) (f : Slab → Slab) : (s.modSlab i f).host = s.host := rfl
@[simp] theorem State.modSlab_free (s : State) (i : Nat) (f : Slab → Slab) : (s.modSlab i f).free = s.free := rfl
@[simp] theorem State.modSlab_pending (s : State) (i : Nat) (f : Slab → Slab) : (s.modSlab i f).pending = s.pending := rfl

/-! ### `State.modRing` -/

@[simp] theorem State.modRing_hub (s : State) (i : Nat) (f : Ring → Ring) : (s.modRing i f).hub = s.hub := rfl
@[simp] theorem State.modRing_port (s : State) (i : Nat) (f : Ring → Ring) : (s.modRing i f).port = s.port := rfl
@[simp] theorem State.modRing_fns (s : State) (i : Nat) (f : Ring → Ring) : (s.modRing i f).fns = s.fns := rfl
@[simp] theorem State.modRing_flights (s : State) (i : Nat) (f : Ring → Ring) : (s.modRing i f).flights = s.flights := rfl
@[simp] theorem State.modRing_parts (s : State) (i : Nat) (f : Ring → Ring) : (s.modRing i f).parts = s.parts := rfl
@[simp] theorem State.modRing_nextHandle (s : State) (i : Nat) (f : Ring → Ring) : (s.modRing i f).nextHandle = s.nextHandle := rfl
@[simp] theorem State.modRing_slabs (s : State) (i : Nat) (f : Ring → Ring) : (s.modRing i f).slabs = s.slabs := rfl
@[simp] theorem State.modRing_codec (s : State) (i : Nat) (f : Ring → Ring) : (s.modRing i f).codec = s.codec := rfl
@[simp] theorem State.modRing_geode (s : State) (i : Nat) (f : Ring → Ring) : (s.modRing i f).geode = s.geode := rfl
@[simp] theorem State.modRing_talus (s : State) (i : Nat) (f : Ring → Ring) : (s.modRing i f).talus = { s.talus with rings := modAt s.talus.rings i f } := rfl
@[simp] theorem State.modRing_power (s : State) (i : Nat) (f : Ring → Ring) : (s.modRing i f).power = s.power := rfl
@[simp] theorem State.modRing_host (s : State) (i : Nat) (f : Ring → Ring) : (s.modRing i f).host = s.host := rfl
@[simp] theorem State.modRing_free (s : State) (i : Nat) (f : Ring → Ring) : (s.modRing i f).free = s.free := rfl
@[simp] theorem State.modRing_pending (s : State) (i : Nat) (f : Ring → Ring) : (s.modRing i f).pending = s.pending := rfl

/-! ### `State.modFlight` -/

@[simp] theorem State.modFlight_hub (s : State) (q : Nat) (f : Flight → Flight) : (s.modFlight q f).hub = s.hub := rfl
@[simp] theorem State.modFlight_port (s : State) (q : Nat) (f : Flight → Flight) : (s.modFlight q f).port = s.port := rfl
@[simp] theorem State.modFlight_fns (s : State) (q : Nat) (f : Flight → Flight) : (s.modFlight q f).fns = s.fns := rfl
@[simp] theorem State.modFlight_flights (s : State) (q : Nat) (f : Flight → Flight) : (s.modFlight q f).flights = modWhere s.flights (fun g => g.seq == q) f := rfl
@[simp] theorem State.modFlight_parts (s : State) (q : Nat) (f : Flight → Flight) : (s.modFlight q f).parts = s.parts := rfl
@[simp] theorem State.modFlight_nextHandle (s : State) (q : Nat) (f : Flight → Flight) : (s.modFlight q f).nextHandle = s.nextHandle := rfl
@[simp] theorem State.modFlight_slabs (s : State) (q : Nat) (f : Flight → Flight) : (s.modFlight q f).slabs = s.slabs := rfl
@[simp] theorem State.modFlight_codec (s : State) (q : Nat) (f : Flight → Flight) : (s.modFlight q f).codec = s.codec := rfl
@[simp] theorem State.modFlight_geode (s : State) (q : Nat) (f : Flight → Flight) : (s.modFlight q f).geode = s.geode := rfl
@[simp] theorem State.modFlight_talus (s : State) (q : Nat) (f : Flight → Flight) : (s.modFlight q f).talus = s.talus := rfl
@[simp] theorem State.modFlight_power (s : State) (q : Nat) (f : Flight → Flight) : (s.modFlight q f).power = s.power := rfl
@[simp] theorem State.modFlight_host (s : State) (q : Nat) (f : Flight → Flight) : (s.modFlight q f).host = s.host := rfl
@[simp] theorem State.modFlight_free (s : State) (q : Nat) (f : Flight → Flight) : (s.modFlight q f).free = s.free := rfl
@[simp] theorem State.modFlight_pending (s : State) (q : Nat) (f : Flight → Flight) : (s.modFlight q f).pending = s.pending := rfl

/-! ### `State.writeHost` -/

@[simp] theorem State.writeHost_hub (s : State) (fn a : Nat) (bs : List Byte) : (s.writeHost fn a bs).hub = s.hub := rfl
@[simp] theorem State.writeHost_port (s : State) (fn a : Nat) (bs : List Byte) : (s.writeHost fn a bs).port = s.port := rfl
@[simp] theorem State.writeHost_fns (s : State) (fn a : Nat) (bs : List Byte) : (s.writeHost fn a bs).fns = s.fns := rfl
@[simp] theorem State.writeHost_flights (s : State) (fn a : Nat) (bs : List Byte) : (s.writeHost fn a bs).flights = s.flights := rfl
@[simp] theorem State.writeHost_parts (s : State) (fn a : Nat) (bs : List Byte) : (s.writeHost fn a bs).parts = s.parts := rfl
@[simp] theorem State.writeHost_nextHandle (s : State) (fn a : Nat) (bs : List Byte) : (s.writeHost fn a bs).nextHandle = s.nextHandle := rfl
@[simp] theorem State.writeHost_slabs (s : State) (fn a : Nat) (bs : List Byte) : (s.writeHost fn a bs).slabs = s.slabs := rfl
@[simp] theorem State.writeHost_codec (s : State) (fn a : Nat) (bs : List Byte) : (s.writeHost fn a bs).codec = s.codec := rfl
@[simp] theorem State.writeHost_geode (s : State) (fn a : Nat) (bs : List Byte) : (s.writeHost fn a bs).geode = s.geode := rfl
@[simp] theorem State.writeHost_talus (s : State) (fn a : Nat) (bs : List Byte) : (s.writeHost fn a bs).talus = s.talus := rfl
@[simp] theorem State.writeHost_power (s : State) (fn a : Nat) (bs : List Byte) : (s.writeHost fn a bs).power = s.power := rfl
@[simp] theorem State.writeHost_host (s : State) (fn a : Nat) (bs : List Byte) : (s.writeHost fn a bs).host = Memory.write s.host (hostAddr fn a) bs := rfl
@[simp] theorem State.writeHost_free (s : State) (fn a : Nat) (bs : List Byte) : (s.writeHost fn a bs).free = s.free := rfl
@[simp] theorem State.writeHost_pending (s : State) (fn a : Nat) (bs : List Byte) : (s.writeHost fn a bs).pending = s.pending := rfl

/-! ### Lists -/

@[simp] theorem length_modAt {α : Type} (l : List α) (i : Nat) (f : α → α) : (modAt l i f).length = l.length :=
  List.length_modify ..

@[simp] theorem length_modWhere {α : Type} (l : List α) (p : α → Bool) (f : α → α) : (modWhere l p f).length = l.length :=
  List.length_map ..

/-- The element that a change at its index leaves. -/
theorem nth_modAt_self {α : Type} [Inhabited α] {l : List α} {i : Nat} (h : i < l.length) (f : α → α) :
    nth (modAt l i f) i = f (nth l i) := by
  simp [nth, modAt, List.getD_eq_getElem?_getD, h]

/-- A change at an index leaves the others. -/
theorem nth_modAt_of_ne {α : Type} [Inhabited α] {l : List α} {i j : Nat} (h : i ≠ j) (f : α → α) :
    nth (modAt l i f) j = nth l j := by
  simp [nth, modAt, List.getD_eq_getElem?_getD, h]

theorem modAt_comp {α : Type} (l : List α) (i : Nat) (f g : α → α) : modAt (modAt l i f) i g = modAt l i (g ∘ f) := by
  simp only [modAt]
  induction l generalizing i with
  | nil => simp
  | cons a t ih => cases i <;> simp_all

/-! ### Commands in flight -/

/-- A change of the command with a number is found under it. -/
theorem State.flight?_modFlight_self (s : State) (q : Nat) (g : Flight → Flight) (h : ∀ f, (g f).seq = f.seq) :
    (s.modFlight q g).flight? q = (s.flight? q).map g := by
  simp only [State.flight?, State.modFlight, State.setFlights, modWhere]
  generalize s.flights = l
  induction l with
  | nil => rfl
  | cons a t ih =>
    by_cases e : a.seq = q
    · have : (a.seq == q) = true := by simp [e]
      have h2 : ((g a).seq == q) = true := by simp [h, e]
      simp only [List.map_cons, List.find?, this, if_true, h2, Option.map_some]
    · have : (a.seq == q) = false := by simp [e]
      simp only [List.map_cons, List.find?, this, Bool.false_eq_true, if_false]
      exact ih

/-- ... and leaves the other commands. -/
theorem State.flight?_modFlight_of_ne (s : State) {q r : Nat} (g : Flight → Flight) (h : ∀ f, (g f).seq = f.seq)
    (hq : r ≠ q) : (s.modFlight q g).flight? r = s.flight? r := by
  simp only [State.flight?, State.modFlight, State.setFlights, modWhere]
  generalize s.flights = l
  induction l with
  | nil => rfl
  | cons a t ih =>
    by_cases e : a.seq = q
    · have h1 : (a.seq == q) = true := by simp [e]
      have h2 : (a.seq == r) = false := by simp [e, Ne.symm hq]
      simp only [List.map_cons, List.find?, h1, h2, if_true, h]
      exact ih
    · have h1 : (a.seq == q) = false := by simp [e]
      simp only [List.map_cons, List.find?, h1, Bool.false_eq_true, if_false]
      cases (a.seq == r)
      · exact ih
      · rfl

end Sys2Proof.Machine
end

