-- ==== Sys2Proof/Laws/Calm.lean ====
section
/-! SUPPORT. Laws/Calm.lean: what almost every operation has in common, and what the named updates need for it. -/

namespace Sys2Proof.Machine

/-- From s to t: the queue stays, the part and the serial number stay, no entropy draw is used twice, and the invariant
is kept. -/
structure Keep (s t : State) : Prop where
  pending : t.pending = s.pending
  part : t.hub.fuse.part = s.hub.fuse.part
  serial : t.hub.fuse.serial = s.hub.fuse.serial
  draws : s.geode.draws ≤ t.geode.draws
  inv : s.Inv → t.Inv

/-- ... and neither the service mode nor the numbers that only a reset takes back change. -/
structure Calm (s t : State) : Prop extends Keep s t where
  service : t.hub.service = s.hub.service
  seq : s.hub.seq ≤ t.hub.seq
  handles : s.nextHandle ≤ t.nextHandle
  up : t.hub.power = .up → s.hub.power = .up

/-- ... at least if the module is up at the end: what can reset the module on the way. -/
structure Alive (s t : State) : Prop extends Keep s t where
  calm : t.hub.power = .up → Calm s t

theorem Keep.refl (s : State) : Keep s s := ⟨rfl, rfl, rfl, Nat.le_refl _, id⟩
theorem Calm.refl (s : State) : Calm s s := ⟨Keep.refl s, rfl, Nat.le_refl _, Nat.le_refl _, id⟩

theorem Keep.trans {r s t : State} (h : Keep r s) (k : Keep s t) : Keep r t :=
  ⟨k.pending.trans h.pending, k.part.trans h.part, k.serial.trans h.serial, Nat.le_trans h.draws k.draws, k.inv ∘ h.inv⟩

theorem Calm.trans {r s t : State} (h : Calm r s) (k : Calm s t) : Calm r t :=
  ⟨h.toKeep.trans k.toKeep, k.service.trans h.service, Nat.le_trans h.seq k.seq, Nat.le_trans h.handles k.handles,
    h.up ∘ k.up⟩

theorem Calm.alive {s t : State} (h : Calm s t) : Alive s t := ⟨h.toKeep, fun _ => h⟩

theorem Alive.refl (s : State) : Alive s s := (Calm.refl s).alive

theorem Alive.trans {r s t : State} (h : Alive r s) (k : Alive s t) : Alive r t :=
  ⟨h.toKeep.trans k.toKeep, fun u => (h.calm ((k.calm u).up u)).trans (k.calm u)⟩

/-- An operation that is calm, after one that is live. -/
theorem Alive.andThen {r s t : State} (h : Alive r s) (k : Calm s t) : Alive r t := h.trans k.alive

theorem Keep.andThen {r s t : State} (h : Keep r s) (k : Calm s t) : Keep r t := h.trans k.toKeep

/-- An operation that leaves the module not up is live if it keeps. -/
theorem Keep.alive {s t : State} (h : Keep s t) (u : t.hub.power ≠ .up) : Alive s t := ⟨h, fun v => absurd v u⟩

theorem Alive.snd {r t : State} {α : Type} {p : α × State} {a : α} (e : p = (a, t)) (h : Alive r p.2) : Alive r t := by
  subst e; exact h

theorem Keep.snd {r t : State} {α : Type} {p : α × State} {a : α} (e : p = (a, t)) (h : Keep r p.2) : Keep r t := by
  subst e; exact h

theorem Alive.foldl {r : State} {α : Type} (g : State → α → State) (h : ∀ b a, Alive r b → Alive r (g b a)) (l : List α)
    {s : State} (k : Alive r s) : Alive r (l.foldl g s) := by
  induction l generalizing s with
  | nil => exact k
  | cons a t ih => exact ih (h _ _ k)

/-- The second part of a pair. -/
theorem Calm.snd {r t : State} {α : Type} {p : α × State} {a : α} (e : p = (a, t)) (h : Calm r p.2) : Calm r t := by
  subst e; exact h

/-- The first part of a pair. -/
theorem Calm.fst {r t : State} {α : Type} {p : State × α} {a : α} (e : p = (t, a)) (h : Calm r p.1) : Calm r t := by
  subst e; exact h

theorem Calm.foldl {r : State} {α : Type} (g : State → α → State) (h : ∀ b a, Calm r b → Calm r (g b a)) (l : List α)
    {s : State} (k : Calm r s) : Calm r (l.foldl g s) := by
  induction l generalizing s with
  | nil => exact k
  | cons a t ih => exact ih (h _ _ k)

theorem Calm.foldlFst {r : State} {α β : Type} (g : State × β → α → State × β)
    (h : ∀ b a, Calm r b.1 → Calm r (g b a).1) (l : List α) {p : State × β} (k : Calm r p.1) : Calm r (l.foldl g p).1 := by
  induction l generalizing p with
  | nil => exact k
  | cons a t ih => exact ih (h _ _ k)

/-! ### The named updates -/

theorem calm_setHub {r s : State} (k : Calm r s) (h : Hub) (h1 : h.fuse.part = s.hub.fuse.part)
    (h2 : h.fuse.serial = s.hub.fuse.serial) (h3 : h.service = s.hub.service) (h4 : s.hub.seq ≤ h.seq)
    (h5 : h.power = .up → s.hub.power = .up) : Calm r (s.setHub h) :=
  k.trans ⟨⟨rfl, h1, h2, Nat.le_refl _, fun i => ⟨i.1, i.2, i.3, i.4, i.5, i.6, i.7⟩⟩, h3, h4, Nat.le_refl _, h5⟩

theorem calm_setPort {r s : State} (k : Calm r s) (p : Port) : Calm r (s.setPort p) :=
  k.trans ⟨⟨rfl, rfl, rfl, Nat.le_refl _, fun i => ⟨i.1, i.2, i.3, i.4, i.5, i.6, i.7⟩⟩, rfl, Nat.le_refl _, Nat.le_refl _, id⟩

theorem calm_setFns {r s : State} (k : Calm r s) (l : List Fn) (h : l.length = s.fns.length) : Calm r (s.setFns l) :=
  k.trans ⟨⟨rfl, rfl, rfl, Nat.le_refl _, fun i => ⟨h.trans i.1, i.2, i.3, i.4, i.5, i.6, i.7⟩⟩, rfl, Nat.le_refl _, Nat.le_refl _, id⟩

theorem calm_setFlights {r s : State} (k : Calm r s) (l : List Flight) : Calm r (s.setFlights l) :=
  k.trans ⟨⟨rfl, rfl, rfl, Nat.le_refl _, fun i => ⟨i.1, i.2, i.3, i.4, i.5, i.6, i.7⟩⟩, rfl, Nat.le_refl _, Nat.le_refl _, id⟩

theorem calm_setParts {r s : State} (k : Calm r s) (l : List Part) (h : l.length = s.parts.length) : Calm r (s.setParts l) :=
  k.trans ⟨⟨rfl, rfl, rfl, Nat.le_refl _, fun i => ⟨i.1, h.trans i.2, i.3, i.4, i.5, i.6, i.7⟩⟩, rfl, Nat.le_refl _, Nat.le_refl _, id⟩

theorem calm_setNextHandle {r s : State} (k : Calm r s) (n : Nat) (h : s.nextHandle ≤ n) : Calm r (s.setNextHandle n) :=
  k.trans ⟨⟨rfl, rfl, rfl, Nat.le_refl _, fun i => ⟨i.1, i.2, i.3, i.4, i.5, i.6, i.7⟩⟩, rfl, Nat.le_refl _, h, id⟩

theorem calm_setSlabs {r s : State} (k : Calm r s) (l : List Slab) (h : l.length = s.slabs.length) : Calm r (s.setSlabs l) :=
  k.trans ⟨⟨rfl, rfl, rfl, Nat.le_refl _, fun i => ⟨i.1, i.2, h.trans i.3, i.4, i.5, i.6, i.7⟩⟩, rfl, Nat.le_refl _, Nat.le_refl _, id⟩

theorem calm_setCodec {r s : State} (k : Calm r s) (c : Codec) (h : c.cores.length = s.codec.cores.length) : Calm r (s.setCodec c) :=
  k.trans ⟨⟨rfl, rfl, rfl, Nat.le_refl _, fun i => ⟨i.1, i.2, i.3, i.4, h.trans i.5, i.6, i.7⟩⟩, rfl, Nat.le_refl _, Nat.le_refl _, id⟩

theorem calm_setGeode {r s : State} (k : Calm r s) (g : Geode) (h : s.geode.draws ≤ g.draws) : Calm r (s.setGeode g) :=
  k.trans ⟨⟨rfl, rfl, rfl, h, fun i => ⟨i.1, i.2, i.3, i.4, i.5, i.6, i.7⟩⟩, rfl, Nat.le_refl _, Nat.le_refl _, id⟩

theorem calm_setTalus {r s : State} (k : Calm r s) (t : Talus) (h : t.rings.length = s.talus.rings.length) : Calm r (s.setTalus t) :=
  k.trans ⟨⟨rfl, rfl, rfl, Nat.le_refl _, fun i => ⟨i.1, i.2, i.3, h.trans i.4, i.5, i.6, i.7⟩⟩, rfl, Nat.le_refl _, Nat.le_refl _, id⟩

theorem calm_setPower {r s : State} (k : Calm r s) (p : PowerMgr) (h : p.domains.length = s.power.domains.length) : Calm r (s.setPower p) :=
  k.trans ⟨⟨rfl, rfl, rfl, Nat.le_refl _, fun i => ⟨i.1, i.2, i.3, i.4, i.5, h.trans i.6, i.7⟩⟩, rfl, Nat.le_refl _, Nat.le_refl _, id⟩

theorem calm_setFree {r s : State} (k : Calm r s) (n : Nat) : Calm r (s.setFree n) :=
  k.trans ⟨⟨rfl, rfl, rfl, Nat.le_refl _, fun i => ⟨i.1, i.2, i.3, i.4, i.5, i.6, i.7⟩⟩, rfl, Nat.le_refl _, Nat.le_refl _, id⟩

theorem calm_writeHost {r s : State} (k : Calm r s) (fn a : Nat) (bs : List Byte) : Calm r (s.writeHost fn a bs) :=
  k.trans ⟨⟨rfl, rfl, rfl, Nat.le_refl _, fun i => ⟨i.1, i.2, i.3, i.4, i.5, i.6, Memory.wf_write i.7 _ bs⟩⟩, rfl, Nat.le_refl _,
    Nat.le_refl _, id⟩

theorem calm_modFn {r s : State} (k : Calm r s) (i : Nat) (f : Fn → Fn) : Calm r (s.modFn i f) := calm_setFns k _ (by simp)
theorem calm_modPart {r s : State} (k : Calm r s) (i : Nat) (f : Part → Part) : Calm r (s.modPart i f) := calm_setParts k _ (by simp)
theorem calm_modSlab {r s : State} (k : Calm r s) (i : Nat) (f : Slab → Slab) : Calm r (s.modSlab i f) := calm_setSlabs k _ (by simp)
theorem calm_modRing {r s : State} (k : Calm r s) (i : Nat) (f : Ring → Ring) : Calm r (s.modRing i f) := calm_setTalus k _ (by simp)
theorem calm_modFlight {r s : State} (k : Calm r s) (q : Nat) (g : Flight → Flight) : Calm r (s.modFlight q g) := calm_setFlights k _

end Sys2Proof.Machine
end

