-- ==== Sys2Proof/Laws/CalmOps.lean ====
section
/-! SUPPORT. Laws/CalmOps.lean: the frame of Laws/Calm.lean for the records, alarms, injections and stops of Ops.lean. -/

set_option linter.all false

namespace Sys2Proof.Machine

@[simp] theorem Talus.raise_rings (t : Talus) (v : Nat) (e : Event) (key : Nat) (a b : Bool) : (t.raise v e key a b).rings = t.rings := by
  unfold Talus.raise; dsimp only; split <;> rfl

@[simp] theorem Talus.raise_foldl_rings (l : List Nat) (t : Talus) (e : Event) (key : Nat) (a b : Bool) :
    (l.foldl (fun t r => t.raise r e key a b) t).rings = t.rings := by
  induction l generalizing t with
  | nil => rfl
  | cons x l ih => simp [ih]

theorem State.setReply_calm {s₀ s : State} (k : Calm s₀ s) (r : Reply) : Calm s₀ (State.setReply s r) := by
  unfold State.setReply
  repeat' first
    | with_reducible assumption
    | with_reducible apply calm_setHub
    | (intro h; simp at h; done)
    | exact id
    | intro _
    | split
    | dsimp only
    | with_reducible rfl
    | simp
    | omega

theorem State.modCtx_calm {s₀ s : State} (k : Calm s₀ s) (p : Nat) (n : Nat) (f : Ctx → Ctx) : Calm s₀ (State.modCtx s p n f) := by
  unfold State.modCtx
  repeat' first
    | with_reducible assumption
    | with_reducible apply calm_modPart
    | (intro h; simp at h; done)
    | exact id
    | intro _
    | split
    | dsimp only
    | with_reducible rfl
    | simp
    | omega

theorem State.draw_calm {s₀ s : State} (k : Calm s₀ s) : Calm s₀ (State.draw s).2 := by
  unfold State.draw
  repeat' first
    | with_reducible assumption
    | with_reducible apply calm_setFree
    | (intro h; simp at h; done)
    | exact id
    | intro _
    | split
    | dsimp only
    | with_reducible rfl
    | simp
    | omega

theorem State.newHandle_calm {s₀ s : State} (k : Calm s₀ s) : Calm s₀ (State.newHandle s).2 := by
  unfold State.newHandle
  repeat' first
    | with_reducible assumption
    | with_reducible apply calm_setNextHandle
    | (intro h; simp at h; done)
    | exact id
    | intro _
    | split
    | dsimp only
    | with_reducible rfl
    | simp
    | omega

theorem State.entropyDraw_calm {s₀ s : State} (k : Calm s₀ s) : Calm s₀ (State.entropyDraw s).2 := by
  unfold State.entropyDraw
  repeat' first
    | with_reducible assumption
    | with_reducible apply calm_setGeode
    | (intro h; simp at h; done)
    | exact id
    | intro _
    | split
    | dsimp only
    | with_reducible rfl
    | simp
    | omega

theorem State.takeSeq_calm {s₀ s : State} (k : Calm s₀ s) : Calm s₀ (State.takeSeq s).2 := by
  unfold State.takeSeq
  repeat' first
    | with_reducible assumption
    | with_reducible apply calm_setHub
    | (intro h; simp at h; done)
    | exact id
    | intro _
    | split
    | dsimp only
    | with_reducible rfl
    | simp
    | omega

theorem State.stewardWrite_calm {s₀ s : State} (k : Calm s₀ s) (fn : Nat) (a : Nat) (bs : List Byte) : Calm s₀ (State.stewardWrite s fn a bs) := by
  unfold State.stewardWrite
  repeat' first
    | with_reducible assumption
    | with_reducible apply calm_writeHost
    | (intro h; simp at h; done)
    | exact id
    | intro _
    | split
    | dsimp only
    | with_reducible rfl
    | simp
    | omega

theorem State.sendMessage_calm {s₀ s : State} (k : Calm s₀ s) (fn : Nat) (v : Nat) : Calm s₀ (State.sendMessage s fn v) := by
  unfold State.sendMessage
  repeat' first
    | with_reducible assumption
    | with_reducible apply calm_modFn
    | (intro h; simp at h; done)
    | exact id
    | intro _
    | split
    | dsimp only
    | with_reducible rfl
    | simp
    | omega

theorem State.sendMsix_calm {s₀ s : State} (k : Calm s₀ s) (fn : Nat) (v : Nat) : Calm s₀ (State.sendMsix s fn v) := by
  unfold State.sendMsix
  repeat' first
    | with_reducible assumption
    | with_reducible apply State.sendMessage_calm
    | with_reducible apply calm_modFn
    | (intro h; simp at h; done)
    | exact id
    | intro _
    | split
    | dsimp only
    | with_reducible rfl
    | simp
    | omega

theorem State.opportunity_calm {s₀ s : State} (k : Calm s₀ s) (point : Nat) (p : Armed → Bool) : Calm s₀ (State.opportunity s point p).2 := by
  unfold State.opportunity
  repeat' first
    | with_reducible assumption
    | with_reducible apply calm_setTalus
    | (intro h; simp at h; done)
    | exact id
    | intro _
    | split
    | dsimp only
    | refine Calm.snd (by assumption) ?_
    | refine Calm.fst (by assumption) ?_
    | with_reducible rfl
    | simp
    | omega

theorem State.putRecord_calm {s₀ s : State} (k : Calm s₀ s) (r : Nat) (e : Event) (seq : Nat) : Calm s₀ (State.putRecord s r e seq) := by
  unfold State.putRecord
  repeat' first
    | with_reducible assumption
    | with_reducible apply State.stewardWrite_calm
    | with_reducible apply State.sendMsix_calm
    | with_reducible apply calm_modRing
    | (intro h; simp at h; done)
    | exact id
    | intro _
    | split
    | dsimp only
    | with_reducible rfl
    | simp
    | omega

theorem State.flushDrop_calm {s₀ s : State} (k : Calm s₀ s) (r : Nat) (c : St) (form : Nat) : Calm s₀ (State.flushDrop s r c form) := by
  unfold State.flushDrop
  repeat' first
    | with_reducible assumption
    | with_reducible apply State.takeSeq_calm
    | with_reducible apply State.putRecord_calm
    | with_reducible apply calm_modRing
    | (intro h; simp at h; done)
    | exact id
    | intro _
    | split
    | dsimp only
    | refine Calm.snd (by assumption) ?_
    | refine Calm.fst (by assumption) ?_
    | with_reducible rfl
    | simp
    | omega

theorem State.flushDrops_calm {s₀ s : State} (k : Calm s₀ s) (r : Nat) : Calm s₀ (State.flushDrops s r) := by
  unfold State.flushDrops
  repeat' first
    | with_reducible assumption
    | with_reducible apply State.flushDrop_calm
    | with_reducible refine Calm.foldl _ (fun _ _ _ => ?_) _ ?_
    | with_reducible refine Calm.foldlFst _ (fun _ _ _ => ?_) _ ?_
    | (intro h; simp at h; done)
    | exact id
    | intro _
    | split
    | dsimp only
    | with_reducible rfl
    | simp
    | omega

theorem State.atsInjected_calm {s₀ s : State} (k : Calm s₀ s) (fn : Nat) : Calm s₀ (State.atsInjected s fn).2 := by
  unfold State.atsInjected
  repeat' first
    | with_reducible assumption
    | with_reducible apply State.opportunity_calm
    | (intro h; simp at h; done)
    | exact id
    | intro _
    | split
    | dsimp only
    | refine Calm.snd (by assumption) ?_
    | refine Calm.fst (by assumption) ?_
    | with_reducible rfl
    | simp
    | omega

theorem State.place_calm {s₀ s : State} (k : Calm s₀ s) (r : Nat) (e : Event) (seq : Nat) : Calm s₀ (State.place s r e seq).1 := by
  unfold State.place
  repeat' first
    | with_reducible assumption
    | with_reducible apply State.putRecord_calm
    | with_reducible apply State.atsInjected_calm
    | with_reducible apply calm_modRing
    | (intro h; simp at h; done)
    | exact id
    | intro _
    | split
    | dsimp only
    | refine Calm.snd (by assumption) ?_
    | refine Calm.fst (by assumption) ?_
    | with_reducible rfl
    | simp
    | omega

theorem State.placeAll_calm {s₀ s : State} (k : Calm s₀ s) (e : Event) (seq : Nat) (l : List Nat) :
    Calm s₀ (s.placeAll e seq l).1 := by
  induction l generalizing s with
  | nil => exact k
  | cons a t ih => exact ih (State.place_calm k a e seq)

theorem State.deliverCore_calm {s₀ s : State} (k : Calm s₀ s) (rings : List Nat) (e : Event) (seq : Nat) : Calm s₀ (State.deliverCore s rings e seq).1 := by
  unfold State.deliverCore
  repeat' first
    | with_reducible assumption
    | with_reducible apply State.flushDrop_calm
    | with_reducible apply State.placeAll_calm
    | with_reducible refine Calm.foldl _ (fun _ _ _ => ?_) _ ?_
    | with_reducible refine Calm.foldlFst _ (fun _ _ _ => ?_) _ ?_
    | (intro h; simp at h; done)
    | exact id
    | intro _
    | split
    | dsimp only
    | with_reducible rfl
    | simp
    | omega

theorem State.coalesce_calm {s₀ s : State} (k : Calm s₀ s) (e : Event) (l : List Nat) : Calm s₀ (s.coalesce e l).1 := by
  induction l generalizing s with
  | nil => exact k
  | cons a t ih =>
    have ih := ih k
    unfold State.coalesce
    repeat' first
      | assumption
      | with_reducible apply calm_modRing
      | split
      | dsimp only
      | refine Calm.fst (by assumption) ?_

theorem State.recordRefused_calm {s₀ s : State} (k : Calm s₀ s) (d0 : Nat) (addr : Nat) (inj : Bool) : Calm s₀ (State.recordRefused s d0 addr inj) := by
  unfold State.recordRefused
  repeat' first
    | with_reducible assumption
    | with_reducible apply State.takeSeq_calm
    | with_reducible apply State.deliverCore_calm
    | with_reducible apply State.coalesce_calm
    | (intro h; simp at h; done)
    | exact id
    | intro _
    | split
    | dsimp only
    | refine Calm.snd (by assumption) ?_
    | refine Calm.fst (by assumption) ?_
    | with_reducible rfl
    | simp
    | omega

theorem State.refusedRings_calm {s₀ s : State} (k : Calm s₀ s) (rings : List (Nat × Bool)) : Calm s₀ (State.refusedRings s rings) := by
  unfold State.refusedRings
  repeat' first
    | with_reducible assumption
    | with_reducible apply State.recordRefused_calm
    | with_reducible refine Calm.foldl _ (fun _ _ _ => ?_) _ ?_
    | with_reducible refine Calm.foldlFst _ (fun _ _ _ => ?_) _ ?_
    | (intro h; simp at h; done)
    | exact id
    | intro _
    | split
    | dsimp only
    | with_reducible rfl
    | simp
    | omega

theorem State.deliverAs_calm {s₀ s : State} (k : Calm s₀ s) (rings : List Nat) (e : Event) (seq : Nat) : Calm s₀ (State.deliverAs s rings e seq) := by
  unfold State.deliverAs
  repeat' first
    | with_reducible assumption
    | with_reducible apply State.deliverCore_calm
    | with_reducible apply State.refusedRings_calm
    | (intro h; simp at h; done)
    | exact id
    | intro _
    | split
    | dsimp only
    | refine Calm.snd (by assumption) ?_
    | refine Calm.fst (by assumption) ?_
    | with_reducible rfl
    | simp
    | omega

theorem State.deliver_calm {s₀ s : State} (k : Calm s₀ s) (rings : List Nat) (e : Event) : Calm s₀ (State.deliver s rings e) := by
  unfold State.deliver
  repeat' first
    | with_reducible assumption
    | with_reducible apply State.takeSeq_calm
    | with_reducible apply State.flushDrop_calm
    | with_reducible apply State.placeAll_calm
    | with_reducible apply State.refusedRings_calm
    | with_reducible refine Calm.foldl _ (fun _ _ _ => ?_) _ ?_
    | with_reducible refine Calm.foldlFst _ (fun _ _ _ => ?_) _ ?_
    | (intro h; simp at h; done)
    | exact id
    | intro _
    | split
    | dsimp only
    | refine Calm.snd (by assumption) ?_
    | refine Calm.fst (by assumption) ?_
    | with_reducible rfl
    | simp
    | omega

theorem State.emit_calm {s₀ s : State} (k : Calm s₀ s) (rings : List Nat) (e : Event) (key : Nat) (lasting : Bool) (views : List Nat) : Calm s₀ (State.emit s rings e key lasting views) := by
  unfold State.emit
  repeat' first
    | with_reducible assumption
    | with_reducible apply State.takeSeq_calm
    | with_reducible apply State.coalesce_calm
    | with_reducible apply State.deliverAs_calm
    | with_reducible apply calm_setTalus
    | with_reducible refine Calm.foldl _ (fun _ _ _ => ?_) _ ?_
    | with_reducible refine Calm.foldlFst _ (fun _ _ _ => ?_) _ ?_
    | (intro h; simp at h; done)
    | exact id
    | intro _
    | split
    | dsimp only
    | refine Calm.snd (by assumption) ?_
    | refine Calm.fst (by assumption) ?_
    | with_reducible rfl
    | simp
    | omega

theorem State.moduleEvent_calm {s₀ s : State} (k : Calm s₀ s) (code : St) (part : Nat) (src : Nat) (unit : Nat) (d0 : Nat) (d1 : Nat) (d2 : Nat) (inj : Bool) : Calm s₀ (State.moduleEvent s code part src unit d0 d1 d2 inj) := by
  unfold State.moduleEvent
  repeat' first
    | with_reducible assumption
    | with_reducible apply State.emit_calm
    | (intro h; simp at h; done)
    | exact id
    | intro _
    | split
    | dsimp only
    | with_reducible rfl
    | simp
    | omega

theorem State.stopModule_calm {s₀ s : State} (k : Calm s₀ s) (code : St) (src : Nat) (unit : Nat) (d0 : Nat) (d1 : Nat) (inj : Bool) : Calm s₀ (State.stopModule s code src unit d0 d1 inj) := by
  unfold State.stopModule
  repeat' first
    | with_reducible assumption
    | with_reducible apply State.takeSeq_calm
    | with_reducible apply State.deliverAs_calm
    | with_reducible apply calm_setHub
    | with_reducible apply calm_setPort
    | with_reducible apply calm_setTalus
    | (intro h; simp at h; done)
    | exact id
    | intro _
    | split
    | dsimp only
    | refine Calm.snd (by assumption) ?_
    | refine Calm.fst (by assumption) ?_
    | with_reducible rfl
    | simp
    | omega

theorem idleTick_calm {s₀ s : State} (k : Calm s₀ s) : Calm s₀ (idleTick s) := by
  unfold idleTick
  repeat' first
    | with_reducible assumption
    | with_reducible apply calm_setHub
    | with_reducible apply calm_setSlabs
    | with_reducible apply calm_setTalus
    | with_reducible apply calm_setFree
    | (intro h; simp at h; done)
    | exact id
    | intro _
    | split
    | dsimp only
    | with_reducible rfl
    | simp
    | omega

end Sys2Proof.Machine
end

