-- ==== Sys2Proof/Laws/CalmCommands.lean ====
section
/-! SUPPORT. Laws/CalmCommands.lean: the frame of Laws/Calm.lean for the commands. -/

set_option linter.all false

namespace Sys2Proof.Machine

theorem State.failCmd_calm {s₀ s : State} (k : Calm s₀ s) (f : Flight) (c : St) (d0 : Nat) (d1 : Nat) : Calm s₀ (State.failCmd s f c d0 d1) := by
  unfold State.failCmd
  repeat' first
    | with_reducible assumption
    | with_reducible apply calm_modFlight
    | (intro h; simp at h; done)
    | exact id
    | intro _
    | split
    | dsimp only
    | with_reducible rfl
    | simp
    | omega

theorem State.okCmd_calm {s₀ s : State} (k : Calm s₀ s) (f : Flight) (value : Nat) (outs : List OutBuf) (d0 : Nat) : Calm s₀ (State.okCmd s f value outs d0) := by
  unfold State.okCmd
  repeat' first
    | with_reducible assumption
    | with_reducible apply calm_modFlight
    | (intro h; simp at h; done)
    | exact id
    | intro _
    | split
    | dsimp only
    | with_reducible rfl
    | simp
    | omega

theorem State.busyCmd_calm {s₀ s : State} (k : Calm s₀ s) (f : Flight) (waits : List Nat) : Calm s₀ (State.busyCmd s f waits) := by
  unfold State.busyCmd
  repeat' first
    | with_reducible assumption
    | with_reducible apply calm_modFlight
    | (intro h; simp at h; done)
    | exact id
    | intro _
    | split
    | dsimp only
    | with_reducible rfl
    | simp
    | omega

theorem State.hostRefuses_calm {s₀ s : State} (k : Calm s₀ s) (f : Flight) : Calm s₀ (State.hostRefuses s f).2 := by
  unfold State.hostRefuses
  repeat' first
    | with_reducible assumption
    | with_reducible apply State.atsInjected_calm
    | with_reducible apply calm_setPort
    | (intro h; simp at h; done)
    | exact id
    | intro _
    | split
    | dsimp only
    | refine Calm.snd (by assumption) ?_
    | refine Calm.fst (by assumption) ?_
    | with_reducible rfl
    | simp
    | omega

theorem State.hostOpen_calm {s₀ s : State} (k : Calm s₀ s) (f : Flight) : Calm s₀ (State.hostOpen s f).1 := by
  unfold State.hostOpen
  repeat' first
    | with_reducible assumption
    | with_reducible apply State.hostRefuses_calm
    | (intro h; simp at h; done)
    | exact id
    | intro _
    | split
    | dsimp only
    | refine Calm.snd (by assumption) ?_
    | refine Calm.fst (by assumption) ?_
    | with_reducible rfl
    | simp
    | omega

theorem State.hostIn_calm {s₀ s : State} (k : Calm s₀ s) (f : Flight) (op : Nat) (idx : Nat) (a : Nat) (n : Nat) : Calm s₀ (State.hostIn s f op idx a n).1 := by
  unfold State.hostIn
  repeat' first
    | with_reducible assumption
    | with_reducible apply State.hostOpen_calm
    | (intro h; simp at h; done)
    | exact id
    | intro _
    | split
    | dsimp only
    | refine Calm.snd (by assumption) ?_
    | refine Calm.fst (by assumption) ?_
    | with_reducible rfl
    | simp
    | omega

theorem State.nanEvent_calm {s₀ s : State} (k : Calm s₀ s) (slab : Nat) (o : OpE) (unit : Nat) (flags : Nat) (births : Nat) (pos : Nat) (inj : Bool) : Calm s₀ (State.nanEvent s slab o unit flags births pos inj) := by
  unfold State.nanEvent
  repeat' first
    | with_reducible assumption
    | with_reducible apply State.emit_calm
    | (intro h; simp at h; done)
    | exact id
    | intro _
    | split
    | dsimp only
    | with_reducible rfl
    | simp
    | omega

theorem State.reportLists_calm {s₀ s : State} (k : Calm s₀ s) (slab : Nat) (part : Nat) (ctx : Nat) : Calm s₀ (State.reportLists s slab part ctx) := by
  unfold State.reportLists
  repeat' first
    | with_reducible assumption
    | with_reducible apply State.nanEvent_calm
    | with_reducible refine Calm.foldl _ (fun _ _ _ => ?_) _ ?_
    | with_reducible refine Calm.foldlFst _ (fun _ _ _ => ?_) _ ?_
    | (intro h; simp at h; done)
    | exact id
    | intro _
    | split
    | dsimp only
    | refine Calm.snd (by assumption) ?_
    | refine Calm.fst (by assumption) ?_
    | with_reducible rfl
    | simp
    | omega

theorem State.blur_calm {s₀ s : State} (k : Calm s₀ s) (p : Nat) (c : Nat) (w : Wrote) : Calm s₀ (State.blur s p c w) := by
  unfold State.blur
  repeat' first
    | with_reducible assumption
    | with_reducible apply State.modCtx_calm
    | with_reducible apply calm_setCodec
    | with_reducible apply calm_setFree
    | with_reducible apply calm_writeHost
    | with_reducible apply calm_modPart
    | with_reducible apply calm_modSlab
    | (intro h; simp at h; done)
    | exact id
    | intro _
    | split
    | dsimp only
    | refine Calm.snd (by assumption) ?_
    | refine Calm.fst (by assumption) ?_
    | with_reducible rfl
    | simp
    | omega

theorem State.discardOutputs_calm {s₀ s : State} (k : Calm s₀ s) (slab : Nat) (part : Nat) (ctx : Nat) (keep : Nat) : Calm s₀ (State.discardOutputs s slab part ctx keep) := by
  unfold State.discardOutputs
  repeat' first
    | with_reducible assumption
    | with_reducible apply State.blur_calm
    | with_reducible refine Calm.foldl _ (fun _ _ _ => ?_) _ ?_
    | with_reducible refine Calm.foldlFst _ (fun _ _ _ => ?_) _ ?_
    | (intro h; simp at h; done)
    | exact id
    | intro _
    | split
    | dsimp only
    | with_reducible rfl
    | simp
    | omega

theorem State.stopOps_calm {s₀ s : State} (k : Calm s₀ s) (part : Nat) (ctx : Nat) (slab : Nat) (id : Nat) : Calm s₀ (State.stopOps s part ctx slab id) := by
  unfold State.stopOps
  repeat' first
    | with_reducible assumption
    | with_reducible apply State.reportLists_calm
    | with_reducible apply State.discardOutputs_calm
    | with_reducible refine Calm.foldl _ (fun _ _ _ => ?_) _ ?_
    | with_reducible refine Calm.foldlFst _ (fun _ _ _ => ?_) _ ?_
    | (intro h; simp at h; done)
    | exact id
    | intro _
    | split
    | dsimp only
    | with_reducible rfl
    | simp
    | omega

theorem State.endCmd_calm {s₀ s : State} (k : Calm s₀ s) (f : Flight) (c : St) (d0 : Nat) (d1 : Nat) : Calm s₀ (State.endCmd s f c d0 d1) := by
  unfold State.endCmd
  repeat' first
    | with_reducible assumption
    | with_reducible apply calm_modPart
    | with_reducible apply calm_modFlight
    | (intro h; simp at h; done)
    | exact id
    | intro _
    | split
    | dsimp only
    | with_reducible rfl
    | simp
    | omega

theorem State.dropHeldOf_calm {s₀ s : State} (k : Calm s₀ s) (f : Flight) : Calm s₀ (State.dropHeldOf s f) := by
  unfold State.dropHeldOf
  repeat' first
    | with_reducible assumption
    | with_reducible apply calm_modPart
    | (intro h; simp at h; done)
    | exact id
    | intro _
    | split
    | dsimp only
    | with_reducible rfl
    | simp
    | omega

theorem State.contextFault_calm {s₀ s : State} (k : Calm s₀ s) (part : Nat) (ctx : Nat) (i : FaultInfo) : Calm s₀ (State.contextFault s part ctx i) := by
  unfold State.contextFault
  repeat' first
    | with_reducible assumption
    | with_reducible apply State.modCtx_calm
    | with_reducible apply State.emit_calm
    | with_reducible apply State.stopOps_calm
    | with_reducible apply State.endCmd_calm
    | with_reducible apply State.dropHeldOf_calm
    | with_reducible apply calm_setSlabs
    | with_reducible refine Calm.foldl _ (fun _ _ _ => ?_) _ ?_
    | with_reducible refine Calm.foldlFst _ (fun _ _ _ => ?_) _ ?_
    | (intro h; simp at h; done)
    | exact id
    | intro _
    | split
    | dsimp only
    | with_reducible rfl
    | simp
    | omega

theorem State.releaseGroup_calm {s₀ s : State} (k : Calm s₀ s) (part : Nat) (ctx : Nat) (lidx : Nat) : Calm s₀ (State.releaseGroup s part ctx lidx) := by
  unfold State.releaseGroup
  repeat' first
    | with_reducible assumption
    | with_reducible apply calm_setSlabs
    | (intro h; simp at h; done)
    | exact id
    | intro _
    | split
    | dsimp only
    | with_reducible rfl
    | simp
    | omega

theorem State.releaseGroups_calm {s₀ s : State} (k : Calm s₀ s) (part : Nat) (ctx : Nat) : Calm s₀ (State.releaseGroups s part ctx) := by
  unfold State.releaseGroups
  repeat' first
    | with_reducible assumption
    | with_reducible apply calm_setSlabs
    | (intro h; simp at h; done)
    | exact id
    | intro _
    | split
    | dsimp only
    | with_reducible rfl
    | simp
    | omega

theorem State.disarmCtx_calm {s₀ s : State} (k : Calm s₀ s) (part : Nat) (ctx : Nat) : Calm s₀ (State.disarmCtx s part ctx) := by
  unfold State.disarmCtx
  repeat' first
    | with_reducible assumption
    | with_reducible apply calm_setTalus
    | (intro h; simp at h; done)
    | exact id
    | intro _
    | split
    | dsimp only
    | with_reducible rfl
    | simp
    | omega

theorem State.dropBad_calm {s₀ s : State} (k : Calm s₀ s) (p : Place → Bool) : Calm s₀ (State.dropBad s p) := by
  unfold State.dropBad
  repeat' first
    | with_reducible assumption
    | with_reducible apply State.place_calm
    | with_reducible apply calm_setSlabs
    | (intro h; simp at h; done)
    | exact id
    | intro _
    | split
    | dsimp only
    | with_reducible rfl
    | simp
    | omega

theorem State.teardown_calm {s₀ s : State} (k : Calm s₀ s) (part : Nat) (ctx : Nat) : Calm s₀ (State.teardown s part ctx) := by
  unfold State.teardown
  repeat' first
    | with_reducible assumption
    | with_reducible apply State.modCtx_calm
    | with_reducible apply State.releaseGroups_calm
    | with_reducible apply State.disarmCtx_calm
    | with_reducible apply State.dropBad_calm
    | (intro h; simp at h; done)
    | exact id
    | intro _
    | split
    | dsimp only
    | with_reducible rfl
    | simp
    | omega

theorem ctxTeardownEnd_calm {s₀ s : State} (k : Calm s₀ s) (part : Nat) (ctx : Nat) : Calm s₀ (ctxTeardownEnd part ctx s) := by
  unfold ctxTeardownEnd
  repeat' first
    | with_reducible assumption
    | with_reducible apply State.teardown_calm
    | (intro h; simp at h; done)
    | exact id
    | intro _
    | split
    | dsimp only
    | refine Calm.snd (by assumption) ?_
    | refine Calm.fst (by assumption) ?_
    | with_reducible rfl
    | simp
    | omega

theorem nextFree_calm {s₀ s : State} (k : Calm s₀ s) (n : Nat) : Calm s₀ (nextFree s n) := by
  unfold nextFree
  repeat' first
    | with_reducible assumption
    | with_reducible apply calm_setFree
    | (intro h; simp at h; done)
    | exact id
    | intro _
    | split
    | dsimp only
    | with_reducible rfl
    | simp
    | omega

theorem State.countHbm_calm {s₀ s : State} (k : Calm s₀ s) (slab : Nat) (j : Nat) (n : Nat) : Calm s₀ (State.countHbm s slab j n) := by
  unfold State.countHbm
  repeat' first
    | with_reducible assumption
    | with_reducible apply calm_modSlab
    | (intro h; simp at h; done)
    | exact id
    | intro _
    | split
    | dsimp only
    | with_reducible rfl
    | simp
    | omega

theorem State.countSpad_calm {s₀ s : State} (k : Calm s₀ s) (slab : Nat) (n : Nat) : Calm s₀ (State.countSpad s slab n) := by
  unfold State.countSpad
  repeat' first
    | with_reducible assumption
    | with_reducible apply calm_modSlab
    | (intro h; simp at h; done)
    | exact id
    | intro _
    | split
    | dsimp only
    | with_reducible rfl
    | simp
    | omega

theorem State.hbmCorrected_calm {s₀ s : State} (k : Calm s₀ s) (slab : Nat) (j : Nat) (w : HbmWord) (inj : Bool) : Calm s₀ (State.hbmCorrected s slab j w inj) := by
  unfold State.hbmCorrected
  repeat' first
    | with_reducible assumption
    | with_reducible apply State.moduleEvent_calm
    | with_reducible apply nextFree_calm
    | with_reducible apply State.countHbm_calm
    | (intro h; simp at h; done)
    | exact id
    | intro _
    | split
    | dsimp only
    | with_reducible rfl
    | simp
    | omega

theorem State.spadCorrectedEv_calm {s₀ s : State} (k : Calm s₀ s) (slab : Nat) (phys : Option Nat) (n : Nat) (inj : Bool) : Calm s₀ (State.spadCorrectedEv s slab phys n inj) := by
  unfold State.spadCorrectedEv
  repeat' first
    | with_reducible assumption
    | with_reducible apply State.moduleEvent_calm
    | with_reducible apply nextFree_calm
    | with_reducible apply State.countSpad_calm
    | (intro h; simp at h; done)
    | exact id
    | intro _
    | split
    | dsimp only
    | with_reducible rfl
    | simp
    | omega

theorem State.accCorrectedEv_calm {s₀ s : State} (k : Calm s₀ s) (slab : Nat) (phys : Nat) (idx : Nat) (inj : Bool) : Calm s₀ (State.accCorrectedEv s slab phys idx inj) := by
  unfold State.accCorrectedEv
  repeat' first
    | with_reducible assumption
    | with_reducible apply State.moduleEvent_calm
    | with_reducible apply State.countSpad_calm
    | (intro h; simp at h; done)
    | exact id
    | intro _
    | split
    | dsimp only
    | with_reducible rfl
    | simp
    | omega

theorem State.meetCodes_calm {s₀ s : State} (k : Calm s₀ s) (us : List Upset) (lim : Nat) (p1 : Nat) (p2 : Nat) (armed : Armed → Bool) (same : Armed → Upset → Bool) (report : State → Option Upset → Option Armed → State) (hreport : ∀ t x0 x1, Calm s₀ t → Calm s₀ (report t x0 x1)) : Calm s₀ (State.meetCodes s us lim p1 p2 armed same report).1 := by
  unfold State.meetCodes
  repeat' first
    | with_reducible assumption
    | with_reducible apply hreport
    | with_reducible apply State.opportunity_calm
    | with_reducible refine Calm.foldl _ (fun _ _ _ => ?_) _ ?_
    | with_reducible refine Calm.foldlFst _ (fun _ _ _ => ?_) _ ?_
    | (intro h; simp at h; done)
    | exact id
    | intro _
    | split
    | dsimp only
    | refine Calm.snd (by assumption) ?_
    | refine Calm.fst (by assumption) ?_
    | with_reducible rfl
    | simp
    | omega

theorem State.readHbm_calm {s₀ s : State} (k : Calm s₀ s) (slab : Nat) (part : Nat) (hit : Place → Bool) (addr : Option (Nat × Nat)) (start : Bool) : Calm s₀ (State.readHbm s slab part hit addr start).1 := by
  unfold State.readHbm
  repeat' first
    | with_reducible assumption
    | with_reducible apply State.place_calm
    | with_reducible apply nextFree_calm
    | with_reducible apply State.hbmCorrected_calm
    | with_reducible apply State.meetCodes_calm
    | with_reducible apply calm_modSlab
    | (intro h; simp at h; done)
    | exact id
    | intro _
    | split
    | dsimp only
    | refine Calm.snd (by assumption) ?_
    | refine Calm.fst (by assumption) ?_
    | with_reducible rfl
    | simp
    | omega

theorem State.readSpad_calm {s₀ s : State} (k : Calm s₀ s) (slab : Nat) (part : Nat) (ctx : Nat) (off : Nat) (n : Nat) (hit : Place → Bool) : Calm s₀ (State.readSpad s slab part ctx off n hit).1 := by
  unfold State.readSpad
  repeat' first
    | with_reducible assumption
    | with_reducible apply State.place_calm
    | with_reducible apply nextFree_calm
    | with_reducible apply State.spadCorrectedEv_calm
    | with_reducible apply State.meetCodes_calm
    | with_reducible apply calm_modSlab
    | (intro h; simp at h; done)
    | exact id
    | intro _
    | split
    | dsimp only
    | refine Calm.snd (by assumption) ?_
    | refine Calm.fst (by assumption) ?_
    | with_reducible rfl
    | simp
    | omega

theorem State.readAcc_calm {s₀ s : State} (k : Calm s₀ s) (slab : Nat) (part : Nat) (ctx : Nat) (slot : Nat) (phys : Nat) (a : Nat) (n : Nat) : Calm s₀ (State.readAcc s slab part ctx slot phys a n).1 := by
  unfold State.readAcc
  repeat' first
    | with_reducible assumption
    | with_reducible apply State.place_calm
    | with_reducible apply State.accCorrectedEv_calm
    | with_reducible apply State.meetCodes_calm
    | with_reducible apply calm_modSlab
    | (intro h; simp at h; done)
    | exact id
    | intro _
    | split
    | dsimp only
    | refine Calm.snd (by assumption) ?_
    | refine Calm.fst (by assumption) ?_
    | with_reducible rfl
    | simp
    | omega

theorem State.overwrite_calm {s₀ s : State} (k : Calm s₀ s) (slab : Nat) (hit : Place → Bool) : Calm s₀ (State.overwrite s slab hit) := by
  unfold State.overwrite
  repeat' first
    | with_reducible assumption
    | with_reducible apply State.place_calm
    | with_reducible apply calm_modSlab
    | (intro h; simp at h; done)
    | exact id
    | intro _
    | split
    | dsimp only
    | with_reducible rfl
    | simp
    | omega

theorem State.needFlat_calm {s₀ s : State} (k : Calm s₀ s) (p slab a : Nat) {t : State} (e : s.needFlat p slab a = some t) :
    Calm s₀ t := by
  unfold State.needFlat at e
  dsimp only at e
  split at e
  · cases e; exact k
  · split at e
    · cases e; exact calm_modPart k ..
    · cases e

/-- A chain of updates that may stop. -/
theorem Calm.foldlBind {s₀ : State} {α : Type} (g : α → State → Option State)
    (h : ∀ a b c, Calm s₀ b → g a b = some c → Calm s₀ c) (l : List α) {o : Option State}
    (k : ∀ b, o = some b → Calm s₀ b) {t : State} (e : l.foldl (fun o a => o.bind fun s => g a s) o = some t) : Calm s₀ t := by
  induction l generalizing o with
  | nil => exact k t e
  | cons a l ih =>
    refine ih (fun b hb => ?_) e
    cases o with
    | none => cases hb
    | some x => exact h a x b (k x rfl) hb

theorem State.needFlatRange_calm {s₀ s : State} (k : Calm s₀ s) (p slab a n : Nat) {t : State}
    (e : s.needFlatRange p slab a n = some t) : Calm s₀ t := by
  unfold State.needFlatRange at e
  split at e
  · cases e; exact k
  · exact Calm.foldlBind (fun i s => s.needFlat p slab ((a / frameBytes + i) * frameBytes))
      (fun _ _ _ h1 h2 => State.needFlat_calm h1 _ _ _ h2) _ (fun b hb => by cases hb; exact k) e

theorem State.writeFlat_calm {s₀ s : State} (k : Calm s₀ s) (p : Nat) (slab : Nat) (a : Nat) (bs : List Byte) : Calm s₀ (State.writeFlat s p slab a bs) := by
  unfold State.writeFlat
  repeat' first
    | with_reducible assumption
    | with_reducible apply calm_modPart
    | (intro h; simp at h; done)
    | exact id
    | intro _
    | split
    | dsimp only
    | with_reducible rfl
    | simp
    | omega

theorem State.putFlat_calm {s₀ s : State} (k : Calm s₀ s) (p : Nat) (slab : Nat) (f : Mem → Mem) : Calm s₀ (State.putFlat s p slab f) := by
  unfold State.putFlat
  repeat' first
    | with_reducible assumption
    | with_reducible apply calm_modPart
    | (intro h; simp at h; done)
    | exact id
    | intro _
    | split
    | dsimp only
    | with_reducible rfl
    | simp
    | omega

@[simp] theorem Codec.closePart_cores (c : Codec) (p : Nat) : (c.closePart p).cores.length = c.cores.length := by
  simp [Codec.closePart]

theorem partCreate_calm {s₀ s : State} (k : Calm s₀ s) (f : Flight) : Calm s₀ (partCreate s f) := by
  unfold partCreate
  repeat' first
    | with_reducible assumption
    | with_reducible apply State.entropyDraw_calm
    | with_reducible apply State.failCmd_calm
    | with_reducible apply State.okCmd_calm
    | with_reducible apply calm_modPart
    | with_reducible apply calm_modRing
    | (intro h; simp at h; done)
    | exact id
    | intro _
    | split
    | dsimp only
    | refine Calm.snd (by assumption) ?_
    | refine Calm.fst (by assumption) ?_
    | with_reducible rfl
    | simp
    | omega

theorem State.closeWindow_calm {s₀ s : State} (k : Calm s₀ s) (p : Nat) : Calm s₀ (State.closeWindow s p) := by
  unfold State.closeWindow
  repeat' first
    | with_reducible assumption
    | with_reducible apply calm_setPort
    | (intro h; simp at h; done)
    | exact id
    | intro _
    | split
    | dsimp only
    | with_reducible rfl
    | simp
    | omega

theorem partSet_calm {s₀ s : State} (k : Calm s₀ s) (f : Flight) : Calm s₀ (partSet s f) := by
  unfold partSet
  repeat' first
    | with_reducible assumption
    | with_reducible apply State.failCmd_calm
    | with_reducible apply State.okCmd_calm
    | with_reducible apply State.busyCmd_calm
    | with_reducible apply State.closeWindow_calm
    | with_reducible apply calm_modPart
    | (intro h; simp at h; done)
    | exact id
    | intro _
    | split
    | dsimp only
    | refine Calm.snd (by assumption) ?_
    | refine Calm.fst (by assumption) ?_
    | with_reducible rfl
    | simp
    | omega

theorem State.dropPart_calm {s₀ s : State} (k : Calm s₀ s) (p : Nat) : Calm s₀ (State.dropPart s p) := by
  unfold State.dropPart
  repeat' first
    | with_reducible assumption
    | with_reducible apply State.stopOps_calm
    | with_reducible apply calm_setSlabs
    | with_reducible refine Calm.foldl _ (fun _ _ _ => ?_) _ ?_
    | with_reducible refine Calm.foldlFst _ (fun _ _ _ => ?_) _ ?_
    | (intro h; simp at h; done)
    | exact id
    | intro _
    | split
    | dsimp only
    | with_reducible rfl
    | simp
    | omega

theorem State.abortPart_calm {s₀ s : State} (k : Calm s₀ s) (p : Nat) (self : Nat) : Calm s₀ (State.abortPart s p self) := by
  unfold State.abortPart
  repeat' first
    | with_reducible assumption
    | with_reducible apply calm_setFlights
    | (intro h; simp at h; done)
    | exact id
    | intro _
    | split
    | dsimp only
    | with_reducible rfl
    | simp
    | omega

theorem State.disarmPartCtxs_calm {s₀ s : State} (k : Calm s₀ s) (p : Nat) : Calm s₀ (State.disarmPartCtxs s p) := by
  unfold State.disarmPartCtxs
  repeat' first
    | with_reducible assumption
    | with_reducible apply calm_setTalus
    | (intro h; simp at h; done)
    | exact id
    | intro _
    | split
    | dsimp only
    | with_reducible rfl
    | simp
    | omega

theorem State.teardownAll_calm {s₀ s : State} (k : Calm s₀ s) (p : Nat) : Calm s₀ (State.teardownAll s p) := by
  unfold State.teardownAll
  repeat' first
    | with_reducible assumption
    | with_reducible apply State.dropBad_calm
    | with_reducible apply State.dropPart_calm
    | with_reducible apply State.disarmPartCtxs_calm
    | with_reducible apply calm_modPart
    | (intro h; simp at h; done)
    | exact id
    | intro _
    | split
    | dsimp only
    | refine Calm.snd (by assumption) ?_
    | refine Calm.fst (by assumption) ?_
    | with_reducible rfl
    | simp
    | omega

theorem State.destroyPart_calm {s₀ s : State} (k : Calm s₀ s) (p : Nat) (self : Nat) : Calm s₀ (State.destroyPart s p self) := by
  unfold State.destroyPart
  repeat' first
    | with_reducible assumption
    | with_reducible apply State.dropBad_calm
    | with_reducible apply State.abortPart_calm
    | with_reducible apply State.teardownAll_calm
    | with_reducible apply calm_setCodec
    | with_reducible apply calm_modPart
    | (intro h; simp at h; done)
    | exact id
    | intro _
    | split
    | dsimp only
    | with_reducible rfl
    | simp
    | omega

theorem partDestroy_calm {s₀ s : State} (k : Calm s₀ s) (f : Flight) : Calm s₀ (partDestroy s f) := by
  unfold partDestroy
  repeat' first
    | with_reducible assumption
    | with_reducible apply State.failCmd_calm
    | with_reducible apply State.okCmd_calm
    | with_reducible apply State.destroyPart_calm
    | (intro h; simp at h; done)
    | exact id
    | intro _
    | split
    | dsimp only
    | with_reducible rfl
    | simp
    | omega

theorem State.sendOut_calm {s₀ s : State} (k : Calm s₀ s) (p : Nat) (vs : List Nat) : Calm s₀ (State.sendOut s p vs) := by
  unfold State.sendOut
  repeat' first
    | with_reducible assumption
    | with_reducible apply calm_modPart
    | (intro h; simp at h; done)
    | exact id
    | intro _
    | split
    | dsimp only
    | with_reducible rfl
    | simp
    | omega

theorem State.bringIn_calm {s₀ s : State} (k : Calm s₀ s) (p : Nat) (num : Nat) (seq : Nat) (out : List Nat) : Calm s₀ (State.bringIn s p num seq out) := by
  unfold State.bringIn
  repeat' first
    | with_reducible assumption
    | with_reducible apply State.modCtx_calm
    | (intro h; simp at h; done)
    | exact id
    | intro _
    | split
    | dsimp only
    | with_reducible rfl
    | simp
    | omega

theorem State.switchFor_calm {s₀ s : State} (k : Calm s₀ s) (p self : Nat) (c : Ctx) {t : State}
    (e : s.switchFor p self c = some t) : Calm s₀ t := by
  unfold State.switchFor at e
  split at e
  · cases e
  · split at e
    · cases e
    · cases e; exact State.bringIn_calm (State.sendOut_calm (calm_setFree k _) ..) ..

theorem ctxCreate_calm {s₀ s : State} (k : Calm s₀ s) (f : Flight) : Calm s₀ (ctxCreate s f) := by
  unfold ctxCreate
  repeat' first
    | with_reducible assumption
    | with_reducible apply State.failCmd_calm
    | with_reducible apply State.okCmd_calm
    | with_reducible apply State.busyCmd_calm
    | with_reducible apply State.sendOut_calm
    | with_reducible apply calm_setFree
    | with_reducible apply calm_modPart
    | with_reducible apply calm_modFlight
    | (intro h; simp at h; done)
    | exact id
    | intro _
    | split
    | dsimp only
    | refine Calm.snd (by assumption) ?_
    | refine Calm.fst (by assumption) ?_
    | with_reducible rfl
    | simp
    | omega

theorem State.orphan_calm {s₀ s : State} (k : Calm s₀ s) (p : Nat) (c : Nat) (self : Nat) : Calm s₀ (State.orphan s p c self) := by
  unfold State.orphan
  repeat' first
    | with_reducible assumption
    | with_reducible apply State.failCmd_calm
    | with_reducible apply ctxCreate_calm
    | with_reducible refine Calm.foldl _ (fun _ _ _ => ?_) _ ?_
    | with_reducible refine Calm.foldlFst _ (fun _ _ _ => ?_) _ ?_
    | (intro h; simp at h; done)
    | exact id
    | intro _
    | split
    | dsimp only
    | refine Calm.snd (by assumption) ?_
    | refine Calm.fst (by assumption) ?_
    | with_reducible rfl
    | simp
    | omega

theorem ctxDestroy_calm {s₀ s : State} (k : Calm s₀ s) (f : Flight) : Calm s₀ (ctxDestroy s f) := by
  unfold ctxDestroy
  repeat' first
    | with_reducible assumption
    | with_reducible apply State.failCmd_calm
    | with_reducible apply State.okCmd_calm
    | with_reducible apply State.teardown_calm
    | with_reducible apply State.orphan_calm
    | with_reducible apply calm_modPart
    | (intro h; simp at h; done)
    | exact id
    | intro _
    | split
    | dsimp only
    | refine Calm.snd (by assumption) ?_
    | refine Calm.fst (by assumption) ?_
    | with_reducible rfl
    | simp
    | omega

/-- A fold whose first part is a state. -/
theorem State.cairnRead_calm {s₀ s : State} (k : Calm s₀ s) (p : Nat) (c : Ctx) : Calm s₀ (s.cairnRead p c).1 := by
  unfold State.cairnRead
  refine Calm.foldlFst _ (fun b a h => ?_) _ k
  dsimp only
  exact State.readHbm_calm h ..

theorem State.saveImage_calm {s₀ s : State} (k : Calm s₀ s) (f : Flight) (num : Nat) : Calm s₀ (State.saveImage s f num) := by
  unfold State.saveImage
  repeat' first
    | with_reducible assumption
    | with_reducible apply State.modCtx_calm
    | with_reducible apply State.newHandle_calm
    | with_reducible apply State.okCmd_calm
    | with_reducible apply calm_modPart
    | (intro h; simp at h; done)
    | exact id
    | intro _
    | split
    | dsimp only
    | refine Calm.snd (by assumption) ?_
    | refine Calm.fst (by assumption) ?_
    | with_reducible rfl
    | simp
    | omega

theorem State.saveDone_calm {s₀ s : State} (k : Calm s₀ s) (f : Flight) (num : Nat) : Calm s₀ (State.saveDone s f num) := by
  unfold State.saveDone
  repeat' first
    | with_reducible assumption
    | with_reducible apply State.failCmd_calm
    | with_reducible apply State.cairnRead_calm
    | with_reducible apply State.saveImage_calm
    | (intro h; simp at h; done)
    | exact id
    | intro _
    | split
    | dsimp only
    | refine Calm.snd (by assumption) ?_
    | refine Calm.fst (by assumption) ?_
    | with_reducible rfl
    | simp
    | omega

theorem ctxSave_calm {s₀ s : State} (k : Calm s₀ s) (f : Flight) : Calm s₀ (ctxSave s f) := by
  unfold ctxSave
  repeat' first
    | with_reducible assumption
    | with_reducible apply State.failCmd_calm
    | with_reducible apply State.busyCmd_calm
    | with_reducible apply State.sendOut_calm
    | with_reducible apply State.saveDone_calm
    | (intro h; simp at h; done)
    | exact id
    | intro _
    | split
    | dsimp only
    | refine Calm.snd (by assumption) ?_
    | refine Calm.fst (by assumption) ?_
    | with_reducible rfl
    | simp
    | omega

theorem State.hostCairn_calm {s₀ s : State} (k : Calm s₀ s) (f : Flight) (c : Ctx) (a : Nat) : Calm s₀ (State.hostCairn s f c a).1 := by
  unfold State.hostCairn
  repeat' first
    | with_reducible assumption
    | with_reducible apply State.hostOpen_calm
    | (intro h; simp at h; done)
    | exact id
    | intro _
    | split
    | dsimp only
    | refine Calm.snd (by assumption) ?_
    | refine Calm.fst (by assumption) ?_
    | with_reducible rfl
    | simp
    | omega

theorem State.loadImage_calm {s₀ s : State} (k : Calm s₀ s) (p : Nat) (c : Nat) (secs : List (Mem × List AccSlot)) : Calm s₀ (State.loadImage s p c secs) := by
  unfold State.loadImage
  repeat' first
    | with_reducible assumption
    | with_reducible apply State.modCtx_calm
    | with_reducible apply State.dropBad_calm
    | (intro h; simp at h; done)
    | exact id
    | intro _
    | split
    | dsimp only
    | with_reducible rfl
    | simp
    | omega

theorem State.restoreInto_calm {s₀ s : State} (k : Calm s₀ s) (f : Flight) (c : Ctx) (secs : List (Mem × List AccSlot)) : Calm s₀ (State.restoreInto s f c secs) := by
  unfold State.restoreInto
  repeat' first
    | with_reducible assumption
    | with_reducible apply State.failCmd_calm
    | with_reducible apply State.okCmd_calm
    | with_reducible apply State.busyCmd_calm
    | with_reducible refine State.switchFor_calm ?_ (e := by assumption) ..
    | with_reducible apply State.loadImage_calm
    | (intro h; simp at h; done)
    | exact id
    | intro _
    | split
    | dsimp only
    | refine Calm.snd (by assumption) ?_
    | refine Calm.fst (by assumption) ?_
    | with_reducible rfl
    | simp
    | omega

theorem State.restoreOther_calm {s₀ s : State} (k : Calm s₀ s) (f : Flight) (c x : Ctx) (secs : List (Mem × List AccSlot)) :
    Calm s₀ (s.restoreOther f c x secs) := by
  unfold State.restoreOther
  split
  · exact State.failCmd_calm k ..
  · rename_i s1 h1
    have k1 : Calm s₀ s1 := by
      split at h1
      · exact State.switchFor_calm k _ _ _ h1
      · cases h1; exact k
    split
    · exact State.failCmd_calm k ..
    · rename_i s2 h2
      obtain ⟨y, _, hy⟩ := Option.bind_eq_some_iff.1 h2
      exact State.busyCmd_calm (State.loadImage_calm (State.dropBad_calm (State.modCtx_calm (State.switchFor_calm k1 _ _ _ hy) ..) _) ..) ..

theorem ctxRestore_calm {s₀ s : State} (k : Calm s₀ s) (f : Flight) : Calm s₀ (ctxRestore s f) := by
  unfold ctxRestore
  repeat' first
    | with_reducible assumption
    | with_reducible apply State.failCmd_calm
    | with_reducible apply State.contextFault_calm
    | with_reducible refine State.switchFor_calm ?_ (e := by assumption) ..
    | with_reducible apply State.cairnRead_calm
    | with_reducible apply State.hostCairn_calm
    | with_reducible apply State.restoreInto_calm
    | with_reducible apply State.restoreOther_calm
    | (intro h; simp at h; done)
    | exact id
    | intro _
    | split
    | dsimp only
    | refine Calm.snd (by assumption) ?_
    | refine Calm.fst (by assumption) ?_
    | with_reducible rfl
    | simp
    | omega

theorem State.switchRead_calm {s₀ s : State} (k : Calm s₀ s) (p : Nat) (c : Ctx) : Calm s₀ (State.switchRead s p c).1 := by
  unfold State.switchRead
  repeat' first
    | with_reducible assumption
    | with_reducible apply State.readSpad_calm
    | with_reducible apply State.readAcc_calm
    | with_reducible refine Calm.foldl _ (fun _ _ _ => ?_) _ ?_
    | with_reducible refine Calm.foldlFst _ (fun _ _ _ => ?_) _ ?_
    | (intro h; simp at h; done)
    | exact id
    | intro _
    | split
    | dsimp only
    | refine Calm.snd (by assumption) ?_
    | refine Calm.fst (by assumption) ?_
    | with_reducible rfl
    | simp
    | omega

theorem State.turnBack_calm {s₀ s : State} (k : Calm s₀ s) (p : Nat) (x : Ctx) : Calm s₀ (State.turnBack s p x) := by
  unfold State.turnBack
  repeat' first
    | with_reducible assumption
    | with_reducible apply State.modCtx_calm
    | with_reducible apply State.failCmd_calm
    | with_reducible apply ctxCreate_calm
    | with_reducible apply ctxRestore_calm
    | with_reducible apply calm_setSlabs
    | with_reducible apply calm_modPart
    | with_reducible refine Calm.foldl _ (fun _ _ _ => ?_) _ ?_
    | with_reducible refine Calm.foldlFst _ (fun _ _ _ => ?_) _ ?_
    | (intro h; simp at h; done)
    | exact id
    | intro _
    | split
    | dsimp only
    | with_reducible rfl
    | simp
    | omega

theorem State.turnBackFor_calm {s₀ s : State} (k : Calm s₀ s) (p : Nat) (v : Nat) : Calm s₀ (State.turnBackFor s p v) := by
  unfold State.turnBackFor
  repeat' first
    | with_reducible assumption
    | with_reducible apply State.turnBack_calm
    | with_reducible refine Calm.foldl _ (fun _ _ _ => ?_) _ ?_
    | with_reducible refine Calm.foldlFst _ (fun _ _ _ => ?_) _ ?_
    | (intro h; simp at h; done)
    | exact id
    | intro _
    | split
    | dsimp only
    | refine Calm.snd (by assumption) ?_
    | refine Calm.fst (by assumption) ?_
    | with_reducible rfl
    | simp
    | omega

theorem ctxSwitchOutEnd_calm {s₀ s : State} (k : Calm s₀ s) (part : Nat) (ctx : Nat) : Calm s₀ (ctxSwitchOutEnd part ctx s) := by
  unfold ctxSwitchOutEnd
  repeat' first
    | with_reducible assumption
    | with_reducible apply State.modCtx_calm
    | with_reducible apply State.contextFault_calm
    | with_reducible apply State.dropBad_calm
    | with_reducible apply State.saveDone_calm
    | with_reducible apply ctxSave_calm
    | with_reducible apply State.switchRead_calm
    | with_reducible apply State.turnBackFor_calm
    | (intro h; simp at h; done)
    | exact id
    | intro _
    | split
    | dsimp only
    | refine Calm.snd (by assumption) ?_
    | refine Calm.fst (by assumption) ?_
    | with_reducible rfl
    | simp
    | omega

theorem State.restoreArrived_calm {s₀ s : State} (k : Calm s₀ s) (part : Nat) (ctx : Nat) : Calm s₀ (State.restoreArrived s part ctx) := by
  unfold State.restoreArrived
  repeat' first
    | with_reducible assumption
    | with_reducible apply State.okCmd_calm
    | with_reducible apply ctxRestore_calm
    | with_reducible apply calm_modFlight
    | with_reducible refine Calm.foldl _ (fun _ _ _ => ?_) _ ?_
    | with_reducible refine Calm.foldlFst _ (fun _ _ _ => ?_) _ ?_
    | (intro h; simp at h; done)
    | exact id
    | intro _
    | split
    | dsimp only
    | with_reducible rfl
    | simp
    | omega

theorem ctxSwitchInEnd_calm {s₀ s : State} (k : Calm s₀ s) (part : Nat) (ctx : Nat) : Calm s₀ (ctxSwitchInEnd part ctx s) := by
  unfold ctxSwitchInEnd
  repeat' first
    | with_reducible assumption
    | with_reducible apply State.modCtx_calm
    | with_reducible apply State.contextFault_calm
    | with_reducible apply State.dropBad_calm
    | with_reducible apply State.cairnRead_calm
    | with_reducible apply ctxRestore_calm
    | with_reducible apply State.restoreArrived_calm
    | (intro h; simp at h; done)
    | exact id
    | intro _
    | split
    | dsimp only
    | refine Calm.snd (by assumption) ?_
    | refine Calm.fst (by assumption) ?_
    | with_reducible rfl
    | simp
    | omega

theorem State.modPlace_calm {s₀ s : State} (k : Calm s₀ s) (p : Nat) (h : Nat) (i : Nat) (slab : Nat) (g : PlaceState → PlaceState) : Calm s₀ (State.modPlace s p h i slab g) := by
  unfold State.modPlace
  repeat' first
    | with_reducible assumption
    | with_reducible apply calm_modPart
    | (intro h; simp at h; done)
    | exact id
    | intro _
    | split
    | dsimp only
    | with_reducible rfl
    | simp
    | omega

theorem State.makeRoom_calm {s₀ s : State} (k : Calm s₀ s) (p slab need : Nat) (keep : List (Nat × Nat × Nat)) {t : State}
    (e : s.makeRoom p slab need keep = some t) : Calm s₀ t := by
  unfold State.makeRoom at e
  dsimp only at e
  split at e
  · cases e; exact k
  · split at e
    · cases e
    · cases e; exact Calm.foldl _ (fun _ _ h => State.modPlace_calm h _ _ _ _ _) _ k

theorem State.startLoads_calm {s₀ s : State} (k : Calm s₀ s) (p seq : Nat) (need : List (Nat × Nat × Nat)) {t : State}
    (e : s.startLoads p seq need = .ok t) : Calm s₀ t := by
  unfold State.startLoads at e
  dsimp only at e
  split at e
  · cases e
  · split at e
    · cases e
    · rename_i s1 h1
      cases e
      refine Calm.foldl _ (fun _ _ h => State.modPlace_calm h _ _ _ _ _) _ ?_
      refine Calm.foldlBind _ (fun a b c h h2 => ?_) _ (fun b hb => ?_) h1
      · split at h2
        · cases h2; exact h
        · exact State.makeRoom_calm h _ _ _ _ h2
      · cases hb; exact k

theorem State.readParts_calm {s₀ s : State} (k : Calm s₀ s) (f : Flight) (digest : Bool) (i : Nat) (l : List PartArg) :
    Calm s₀ (s.readParts f digest i l).1 := by
  induction l generalizing s i with
  | nil => exact k
  | cons a t ih =>
    unfold State.readParts
    split
    · rename_i e; exact Calm.fst e (State.hostIn_calm k ..)
    · rename_i e
      have k1 := Calm.fst e (State.hostIn_calm k ..)
      split
      · exact k1
      · split
        · rename_i e2; exact Calm.fst e2 (ih k1 _)
        · rename_i e2; exact Calm.fst e2 (ih k1 _)

theorem State.heat_calm {s₀ s : State} (k : Calm s₀ s) (p h seq : Nat) (l : List (Nat × Nat × Nat)) :
    Calm s₀ (s.heat p h seq l).1 := by
  unfold State.heat
  refine Calm.foldlFst _ (fun b a hb => ?_) _ k
  dsimp only
  split
  · exact State.modPlace_calm (State.makeRoom_calm hb _ _ _ _ (by assumption)) ..
  · exact hb

theorem modelLoad_calm {s₀ s : State} (k : Calm s₀ s) (f : Flight) : Calm s₀ (modelLoad s f) := by
  have fail : ∀ s e, Calm s₀ s → Calm s₀ (s.failCmd f e) := fun s e h => State.failCmd_calm h ..
  unfold modelLoad
  extract_lets n p h
  split
  · exact fail _ _ k
  split
  · exact fail _ _ k
  split
  · rename_i e; exact fail _ _ (Calm.fst e (State.hostIn_calm k ..))
  rename_i s1 bs e
  have k1 := Calm.fst e (State.hostIn_calm k ..)
  clear_value n p h
  extract_lets as
  split
  · exact fail _ _ k1
  split
  · exact fail _ _ k1
  split
  · exact fail _ _ k1
  split
  · exact fail _ _ k1
  split
  · exact fail _ _ k1
  split
  · rename_i e2; exact fail _ _ (Calm.fst e2 (State.readParts_calm k1 ..))
  rename_i s2 l e2
  have k2 := Calm.fst e2 (State.readParts_calm k1 ..)
  split
  rename_i g s3 hg
  extract_lets parts s4 spots
  split
  rename_i s5 cold hc
  refine State.okCmd_calm (State.dropBad_calm ?_ _) ..
  have h1 : Calm s₀ s3 := Calm.snd hg (by split; exacts [State.newHandle_calm k2, k2])
  have h2 : Calm s₀ s4 := calm_modPart h1 ..
  exact Calm.fst hc (by split; exacts [State.heat_calm h2 .., h2])

theorem modelDrop_calm {s₀ s : State} (k : Calm s₀ s) (f : Flight) : Calm s₀ (modelDrop s f) := by
  unfold modelDrop
  repeat' first
    | with_reducible assumption
    | with_reducible apply State.failCmd_calm
    | with_reducible apply State.okCmd_calm
    | with_reducible apply calm_modPart
    | (intro h; simp at h; done)
    | exact id
    | intro _
    | split
    | dsimp only
    | refine Calm.snd (by assumption) ?_
    | refine Calm.fst (by assumption) ?_
    | with_reducible rfl
    | simp
    | omega

theorem modelPin_calm {s₀ s : State} (k : Calm s₀ s) (f : Flight) : Calm s₀ (modelPin s f) := by
  unfold modelPin
  repeat' first
    | with_reducible assumption
    | with_reducible apply State.failCmd_calm
    | with_reducible apply State.okCmd_calm
    | with_reducible apply State.busyCmd_calm
    | with_reducible apply State.modPlace_calm
    | with_reducible refine State.startLoads_calm ?_ (e := by assumption) ..
    | with_reducible refine Calm.foldl _ (fun _ _ _ => ?_) _ ?_
    | with_reducible refine Calm.foldlFst _ (fun _ _ _ => ?_) _ ?_
    | (intro h; simp at h; done)
    | exact id
    | intro _
    | split
    | dsimp only
    | refine Calm.snd (by assumption) ?_
    | refine Calm.fst (by assumption) ?_
    | with_reducible rfl
    | simp
    | omega

theorem modelUnpin_calm {s₀ s : State} (k : Calm s₀ s) (f : Flight) : Calm s₀ (modelUnpin s f) := by
  unfold modelUnpin
  repeat' first
    | with_reducible assumption
    | with_reducible apply State.failCmd_calm
    | with_reducible apply State.okCmd_calm
    | with_reducible apply State.modPlace_calm
    | with_reducible refine Calm.foldl _ (fun _ _ _ => ?_) _ ?_
    | with_reducible refine Calm.foldlFst _ (fun _ _ _ => ?_) _ ?_
    | (intro h; simp at h; done)
    | exact id
    | intro _
    | split
    | dsimp only
    | refine Calm.snd (by assumption) ?_
    | refine Calm.fst (by assumption) ?_
    | with_reducible rfl
    | simp
    | omega

theorem quarryStat_calm {s₀ s : State} (k : Calm s₀ s) (f : Flight) : Calm s₀ (quarryStat s f) := by
  unfold quarryStat
  repeat' first
    | with_reducible assumption
    | with_reducible apply State.failCmd_calm
    | with_reducible apply State.okCmd_calm
    | (intro h; simp at h; done)
    | exact id
    | intro _
    | split
    | dsimp only
    | with_reducible rfl
    | simp
    | omega

theorem State.finishPins_calm {s₀ s : State} (k : Calm s₀ s) (p : Nat) : Calm s₀ (State.finishPins s p) := by
  unfold State.finishPins
  repeat' first
    | with_reducible assumption
    | with_reducible apply State.okCmd_calm
    | with_reducible apply modelPin_calm
    | with_reducible refine Calm.foldl _ (fun _ _ _ => ?_) _ ?_
    | with_reducible refine Calm.foldlFst _ (fun _ _ _ => ?_) _ ?_
    | (intro h; simp at h; done)
    | exact id
    | intro _
    | split
    | dsimp only
    | refine Calm.snd (by assumption) ?_
    | refine Calm.fst (by assumption) ?_
    | with_reducible rfl
    | simp
    | omega

theorem State.loadBad_calm {s₀ s : State} (k : Calm s₀ s) (p : Nat) (h : Nat) (i : Nat) (slab : Nat) (seqs : List Nat) (inj : Bool) : Calm s₀ (State.loadBad s p h i slab seqs inj) := by
  unfold State.loadBad
  repeat' first
    | with_reducible assumption
    | with_reducible apply State.failCmd_calm
    | with_reducible apply State.contextFault_calm
    | with_reducible apply State.modPlace_calm
    | with_reducible refine Calm.foldl _ (fun _ _ _ => ?_) _ ?_
    | with_reducible refine Calm.foldlFst _ (fun _ _ _ => ?_) _ ?_
    | (intro h; simp at h; done)
    | exact id
    | intro _
    | split
    | dsimp only
    | refine Calm.snd (by assumption) ?_
    | refine Calm.fst (by assumption) ?_
    | with_reducible rfl
    | simp
    | omega

theorem quarryLoadEnd_calm {s₀ s : State} (k : Calm s₀ s) (p : Nat) (h : Nat) (i : Nat) (slab : Nat) : Calm s₀ (quarryLoadEnd p h i slab s) := by
  unfold quarryLoadEnd
  repeat' first
    | with_reducible assumption
    | with_reducible apply State.dropBad_calm
    | with_reducible apply State.readHbm_calm
    | with_reducible apply State.modPlace_calm
    | with_reducible apply modelPin_calm
    | with_reducible apply State.finishPins_calm
    | with_reducible apply State.loadBad_calm
    | (intro h; simp at h; done)
    | exact id
    | intro _
    | split
    | dsimp only
    | refine Calm.snd (by assumption) ?_
    | refine Calm.fst (by assumption) ?_
    | with_reducible rfl
    | simp
    | omega

theorem State.modRegion_calm {s₀ s : State} (k : Calm s₀ s) (p : Nat) (h : Nat) (g : Region → Region) : Calm s₀ (State.modRegion s p h g) := by
  unfold State.modRegion
  repeat' first
    | with_reducible assumption
    | with_reducible apply calm_modPart
    | (intro h; simp at h; done)
    | exact id
    | intro _
    | split
    | dsimp only
    | with_reducible rfl
    | simp
    | omega

theorem regionCreate_calm {s₀ s : State} (k : Calm s₀ s) (f : Flight) : Calm s₀ (regionCreate s f) := by
  unfold regionCreate
  repeat' first
    | with_reducible assumption
    | with_reducible apply State.newHandle_calm
    | with_reducible apply State.failCmd_calm
    | with_reducible apply State.okCmd_calm
    | with_reducible apply calm_modPart
    | (intro h; simp at h; done)
    | exact id
    | intro _
    | split
    | dsimp only
    | refine Calm.snd (by assumption) ?_
    | refine Calm.fst (by assumption) ?_
    | with_reducible rfl
    | simp
    | omega

theorem regionMap_calm {s₀ s : State} (k : Calm s₀ s) (f : Flight) : Calm s₀ (regionMap s f) := by
  unfold regionMap
  repeat' first
    | with_reducible assumption
    | with_reducible apply State.failCmd_calm
    | with_reducible apply State.okCmd_calm
    | with_reducible apply State.dropBad_calm
    | with_reducible apply State.modRegion_calm
    | (intro h; simp at h; done)
    | exact id
    | intro _
    | split
    | dsimp only
    | refine Calm.snd (by assumption) ?_
    | refine Calm.fst (by assumption) ?_
    | with_reducible rfl
    | simp
    | omega

theorem regionUnmap_calm {s₀ s : State} (k : Calm s₀ s) (f : Flight) : Calm s₀ (regionUnmap s f) := by
  unfold regionUnmap
  repeat' first
    | with_reducible assumption
    | with_reducible apply State.failCmd_calm
    | with_reducible apply State.okCmd_calm
    | with_reducible apply State.busyCmd_calm
    | with_reducible apply State.modRegion_calm
    | (intro h; simp at h; done)
    | exact id
    | intro _
    | split
    | dsimp only
    | refine Calm.snd (by assumption) ?_
    | refine Calm.fst (by assumption) ?_
    | with_reducible rfl
    | simp
    | omega

theorem regionDestroy_calm {s₀ s : State} (k : Calm s₀ s) (f : Flight) : Calm s₀ (regionDestroy s f) := by
  unfold regionDestroy
  repeat' first
    | with_reducible assumption
    | with_reducible apply State.failCmd_calm
    | with_reducible apply State.okCmd_calm
    | with_reducible apply State.busyCmd_calm
    | with_reducible apply State.modRegion_calm
    | with_reducible apply calm_modPart
    | (intro h; simp at h; done)
    | exact id
    | intro _
    | split
    | dsimp only
    | refine Calm.snd (by assumption) ?_
    | refine Calm.fst (by assumption) ?_
    | with_reducible rfl
    | simp
    | omega

theorem State.unmapEnd_calm {s₀ s : State} (k : Calm s₀ s) (f : Flight) : Calm s₀ (State.unmapEnd s f) := by
  unfold State.unmapEnd
  repeat' first
    | with_reducible assumption
    | with_reducible apply State.modRegion_calm
    | with_reducible apply regionDestroy_calm
    | with_reducible apply calm_modPart
    | (intro h; simp at h; done)
    | exact id
    | intro _
    | split
    | dsimp only
    | with_reducible rfl
    | simp
    | omega

theorem State.putShare_calm {s₀ s : State} (k : Calm s₀ s) (p : Nat) (c : Nat) (slab : Nat) (f : Mem → Mem) : Calm s₀ (State.putShare s p c slab f) := by
  unfold State.putShare
  repeat' first
    | with_reducible assumption
    | with_reducible apply State.modCtx_calm
    | with_reducible apply calm_modSlab
    | (intro h; simp at h; done)
    | exact id
    | intro _
    | split
    | dsimp only
    | with_reducible rfl
    | simp
    | omega

theorem State.writeShare_calm {s₀ s : State} (k : Calm s₀ s) (p : Nat) (c : Nat) (slab : Nat) (a : Nat) (bs : List Byte) : Calm s₀ (State.writeShare s p c slab a bs) := by
  unfold State.writeShare
  repeat' first
    | with_reducible assumption
    | with_reducible apply State.overwrite_calm
    | with_reducible apply State.putShare_calm
    | (intro h; simp at h; done)
    | exact id
    | intro _
    | split
    | dsimp only
    | with_reducible rfl
    | simp
    | omega

theorem State.modSlot_calm {s₀ s : State} (k : Calm s₀ s) (p : Nat) (c : Nat) (slab : Nat) (i : Nat) (f : AccSlot → AccSlot) : Calm s₀ (State.modSlot s p c slab i f) := by
  unfold State.modSlot
  repeat' first
    | with_reducible assumption
    | with_reducible apply State.modCtx_calm
    | with_reducible apply calm_modSlab
    | (intro h; simp at h; done)
    | exact id
    | intro _
    | split
    | dsimp only
    | with_reducible rfl
    | simp
    | omega

theorem State.eccShare_calm {s₀ s : State} (k : Calm s₀ s) (part ctx seq slab : Nat) (l : List (Nat × Nat)) :
    Calm s₀ (s.eccShare part ctx seq slab l).1 := by
  induction l generalizing s with
  | nil => exact k
  | cons a t ih =>
    obtain ⟨a, n⟩ := a
    unfold State.eccShare
    repeat' first
      | assumption
      | with_reducible apply ih
      | with_reducible apply State.readSpad_calm
      | with_reducible apply State.dropBad_calm
      | with_reducible apply State.modPlace_calm
      | with_reducible refine Calm.foldl _ (fun _ _ _ => ?_) _ ?_
      | split
      | dsimp only
      | refine Calm.fst (by assumption) ?_

theorem State.placeImage_calm {s₀ s : State} (k : Calm s₀ s) (p : Nat) (c : Ctx) (b : List Byte) (slab : Nat) (i : Nat) : Calm s₀ (State.placeImage s p c b slab i) := by
  unfold State.placeImage
  repeat' first
    | with_reducible assumption
    | with_reducible apply State.writeShare_calm
    | with_reducible refine Calm.foldl _ (fun _ _ _ => ?_) _ ?_
    | with_reducible refine Calm.foldlFst _ (fun _ _ _ => ?_) _ ?_
    | (intro h; simp at h; done)
    | exact id
    | intro _
    | split
    | dsimp only
    | with_reducible rfl
    | simp
    | omega

theorem State.readFlat_calm {s₀ s : State} (k : Calm s₀ s) (p : Nat) (slab : Nat) (a : Nat) (n : Nat) : Calm s₀ (State.readFlat s p slab a n).1 := by
  unfold State.readFlat
  repeat' first
    | with_reducible assumption
    | with_reducible apply State.readHbm_calm
    | (intro h; simp at h; done)
    | exact id
    | intro _
    | split
    | dsimp only
    | refine Calm.snd (by assumption) ?_
    | refine Calm.fst (by assumption) ?_
    | with_reducible rfl
    | simp
    | omega

theorem State.imageBytes_calm {s₀ s : State} (k : Calm s₀ s) (f : Flight) : Calm s₀ (State.imageBytes s f).1 := by
  unfold State.imageBytes
  repeat' first
    | with_reducible assumption
    | with_reducible apply State.hostIn_calm
    | with_reducible apply State.readFlat_calm
    | (intro h; simp at h; done)
    | exact id
    | intro _
    | split
    | dsimp only
    | refine Calm.snd (by assumption) ?_
    | refine Calm.fst (by assumption) ?_
    | with_reducible rfl
    | simp
    | omega

theorem progLoad_calm {s₀ s : State} (k : Calm s₀ s) (f : Flight) : Calm s₀ (progLoad s f) := by
  unfold progLoad
  repeat' first
    | with_reducible assumption
    | with_reducible apply State.modCtx_calm
    | with_reducible apply State.failCmd_calm
    | with_reducible apply State.okCmd_calm
    | with_reducible apply State.placeImage_calm
    | with_reducible apply State.imageBytes_calm
    | with_reducible refine Calm.foldl _ (fun _ _ _ => ?_) _ ?_
    | with_reducible refine Calm.foldlFst _ (fun _ _ _ => ?_) _ ?_
    | (intro h; simp at h; done)
    | exact id
    | intro _
    | split
    | dsimp only
    | refine Calm.snd (by assumption) ?_
    | refine Calm.fst (by assumption) ?_
    | with_reducible rfl
    | simp
    | omega

theorem State.outEntries_calm {s₀ s : State} (k : Calm s₀ s) (f : Flight) : Calm s₀ (State.outEntries s f).1 := by
  unfold State.outEntries
  repeat' first
    | with_reducible assumption
    | with_reducible apply State.hostIn_calm
    | (intro h; simp at h; done)
    | exact id
    | intro _
    | split
    | dsimp only
    | refine Calm.snd (by assumption) ?_
    | refine Calm.fst (by assumption) ?_
    | with_reducible rfl
    | simp
    | omega

theorem State.enqueue_calm {s₀ s : State} (k : Calm s₀ s) (seq : Nat) (slab : Nat) : Calm s₀ (State.enqueue s seq slab) := by
  unfold State.enqueue
  repeat' first
    | with_reducible assumption
    | with_reducible apply calm_modSlab
    | with_reducible apply calm_modFlight
    | (intro h; simp at h; done)
    | exact id
    | intro _
    | split
    | dsimp only
    | with_reducible rfl
    | simp
    | omega

theorem passageEnqueue_calm {s₀ s : State} (k : Calm s₀ s) (slab : Nat) : Calm s₀ (passageEnqueue slab s) := by
  unfold passageEnqueue
  repeat' first
    | with_reducible assumption
    | with_reducible apply State.enqueue_calm
    | (intro h; simp at h; done)
    | exact id
    | intro _
    | split
    | dsimp only
    | refine Calm.snd (by assumption) ?_
    | refine Calm.fst (by assumption) ?_
    | with_reducible rfl
    | simp
    | omega

theorem State.writeIdent_calm {s₀ s : State} (k : Calm s₀ s) (p : Nat) (c : Ctx) (i : Ident) {t : State}
    (e : s.writeIdent p c i = some t) : Calm s₀ t := by
  unfold State.writeIdent at e
  dsimp only at e
  split at e
  · cases e; exact State.writeShare_calm k ..
  · split at e
    · obtain ⟨x, hx, rfl⟩ := Option.map_eq_some_iff.1 e
      exact State.overwrite_calm (State.writeFlat_calm (State.needFlatRange_calm k _ _ _ _ hx) ..) ..
    · cases e; exact k

theorem State.zeroRun_calm {s₀ s : State} (k : Calm s₀ s) (f : Flight) (c : Ctx) (g : Program) (outs : List OutEntry) :
    Calm s₀ (s.zeroRun f c g outs) := by
  unfold State.zeroRun
  dsimp only
  split
  · exact State.failCmd_calm k ..
  · split
    · exact State.failCmd_calm k ..
    · rename_i s1 h1
      refine State.okCmd_calm (calm_setFree ?_ _) ..
      exact Calm.foldlBind (fun e s => s.writeIdent f.fn c e) (fun _ _ _ h2 h3 => State.writeIdent_calm h2 _ _ _ h3) _
        (fun b hb => by cases hb; exact k) h1

theorem State.touch_calm {s₀ s : State} (k : Calm s₀ s) (p : Nat) (seq : Nat) (l : List (Nat × Nat × Nat)) : Calm s₀ (State.touch s p seq l) := by
  unfold State.touch
  repeat' first
    | with_reducible assumption
    | with_reducible apply State.modPlace_calm
    | with_reducible refine Calm.foldl _ (fun _ _ _ => ?_) _ ?_
    | with_reducible refine Calm.foldlFst _ (fun _ _ _ => ?_) _ ?_
    | (intro h; simp at h; done)
    | exact id
    | intro _
    | split
    | dsimp only
    | with_reducible rfl
    | simp
    | omega

theorem State.launch_calm {s₀ s : State} (k : Calm s₀ s) (f : Flight) (c : Ctx) (g : Program) (b : Nat) (outs : List OutEntry) : Calm s₀ (State.launch s f c g b outs) := by
  unfold State.launch
  repeat' first
    | with_reducible assumption
    | with_reducible apply State.failCmd_calm
    | with_reducible refine State.switchFor_calm ?_ (e := by assumption) ..
    | with_reducible refine State.startLoads_calm ?_ (e := by assumption) ..
    | with_reducible apply State.enqueue_calm
    | with_reducible apply State.touch_calm
    | with_reducible apply calm_modFlight
    | with_reducible refine Calm.foldl _ (fun _ _ _ => ?_) _ ?_
    | with_reducible refine Calm.foldlFst _ (fun _ _ _ => ?_) _ ?_
    | (intro h; simp at h; done)
    | exact id
    | intro _
    | split
    | dsimp only
    | refine Calm.snd (by assumption) ?_
    | refine Calm.fst (by assumption) ?_
    | with_reducible rfl
    | simp
    | omega

theorem runPassage_calm {s₀ s : State} (k : Calm s₀ s) (f : Flight) : Calm s₀ (runPassage s f) := by
  unfold runPassage
  repeat' first
    | with_reducible assumption
    | with_reducible apply State.modCtx_calm
    | with_reducible apply State.failCmd_calm
    | with_reducible apply State.outEntries_calm
    | with_reducible apply State.zeroRun_calm
    | with_reducible apply State.launch_calm
    | (intro h; simp at h; done)
    | exact id
    | intro _
    | split
    | dsimp only
    | refine Calm.snd (by assumption) ?_
    | refine Calm.fst (by assumption) ?_
    | with_reducible rfl
    | simp
    | omega

theorem State.outEcc_calm {s₀ s : State} (k : Calm s₀ s) (f : Flight) (c : Ctx) (seq : Nat) (o : OutEntry) : Calm s₀ (State.outEcc s f c seq o).1 := by
  unfold State.outEcc
  repeat' first
    | with_reducible assumption
    | with_reducible apply State.readHbm_calm
    | with_reducible apply State.eccShare_calm
    | (intro h; simp at h; done)
    | exact id
    | intro _
    | split
    | dsimp only
    | refine Calm.snd (by assumption) ?_
    | refine Calm.fst (by assumption) ?_
    | with_reducible rfl
    | simp
    | omega

theorem State.outEccs_calm {s₀ s : State} (k : Calm s₀ s) (f : Flight) (c : Ctx) (l : List OutEntry) :
    Calm s₀ (s.outEccs f c l).1 := by
  induction l generalizing s with
  | nil => exact k
  | cons a t ih =>
    unfold State.outEccs
    split
    · exact Calm.fst (by assumption) (State.outEcc_calm k ..)
    · exact ih (Calm.fst (by assumption) (State.outEcc_calm k ..))

theorem State.finishRun_calm {s₀ s : State} (k : Calm s₀ s) (f : Flight) (r : RunInfo) : Calm s₀ (State.finishRun s f r) := by
  unfold State.finishRun
  repeat' first
    | with_reducible assumption
    | with_reducible apply State.failCmd_calm
    | with_reducible apply State.okCmd_calm
    | with_reducible apply State.contextFault_calm
    | with_reducible apply State.outEccs_calm
    | with_reducible apply calm_modPart
    | (intro h; simp at h; done)
    | exact id
    | intro _
    | split
    | dsimp only
    | refine Calm.snd (by assumption) ?_
    | refine Calm.fst (by assumption) ?_
    | with_reducible rfl
    | simp
    | omega

theorem State.release_calm {s₀ s : State} (k : Calm s₀ s) (p : Nat) (h : Nat) : Calm s₀ (State.release s p h) := by
  unfold State.release
  repeat' first
    | with_reducible assumption
    | with_reducible apply calm_modPart
    | (intro h; simp at h; done)
    | exact id
    | intro _
    | split
    | dsimp only
    | with_reducible rfl
    | simp
    | omega

theorem fetch_calm {s₀ s : State} (k : Calm s₀ s) (f : Flight) : Calm s₀ (fetch s f) := by
  unfold fetch
  repeat' first
    | with_reducible assumption
    | with_reducible apply State.failCmd_calm
    | with_reducible apply State.okCmd_calm
    | with_reducible apply State.readHbm_calm
    | with_reducible apply State.release_calm
    | with_reducible apply calm_modFlight
    | (intro h; simp at h; done)
    | exact id
    | intro _
    | split
    | dsimp only
    | refine Calm.snd (by assumption) ?_
    | refine Calm.fst (by assumption) ?_
    | with_reducible rfl
    | simp
    | omega

theorem resultDrop_calm {s₀ s : State} (k : Calm s₀ s) (f : Flight) : Calm s₀ (resultDrop s f) := by
  unfold resultDrop
  repeat' first
    | with_reducible assumption
    | with_reducible apply State.failCmd_calm
    | with_reducible apply State.okCmd_calm
    | with_reducible apply State.release_calm
    | (intro h; simp at h; done)
    | exact id
    | intro _
    | split
    | dsimp only
    | refine Calm.snd (by assumption) ?_
    | refine Calm.fst (by assumption) ?_
    | with_reducible rfl
    | simp
    | omega

end Sys2Proof.Machine
end

