-- ==== Sys2Proof/Laws/CalmUnits.lean ====
section
/-! SUPPORT. Laws/CalmUnits.lean: the frame of Laws/Calm.lean for the sequencer, the slab units and the codec. -/

set_option linter.all false

namespace Sys2Proof.Machine

theorem State.modLive_calm {s₀ s : State} (k : Calm s₀ s) (slab : Nat) (seq : Nat) (g : Live → Live) : Calm s₀ (State.modLive s slab seq g) := by
  unfold State.modLive
  repeat' first
    | with_reducible assumption
    | with_reducible apply calm_modSlab
    | (intro h; simp at h; done)
    | exact id
    | intro _
    | split
    | dsimp only
    | with_reducible rfl
    | simp
    | omega

theorem State.raiseFlags_calm {s₀ s : State} (k : Calm s₀ s) (o : OpE) (fl : Nat) : Calm s₀ (State.raiseFlags s o fl) := by
  unfold State.raiseFlags
  repeat' first
    | with_reducible assumption
    | with_reducible apply calm_modFlight
    | (intro h; simp at h; done)
    | exact id
    | intro _
    | split
    | dsimp only
    | with_reducible rfl
    | simp
    | omega

theorem State.reportNan_calm {s₀ s : State} (k : Calm s₀ s) (slab : Nat) (o : OpE) (unit : Nat) (m : Marks) (inj : Bool) : Calm s₀ (State.reportNan s slab o unit m inj) := by
  unfold State.reportNan
  repeat' first
    | with_reducible assumption
    | with_reducible apply State.nanEvent_calm
    | (intro h; simp at h; done)
    | exact id
    | intro _
    | split
    | dsimp only
    | with_reducible rfl
    | simp
    | omega

theorem State.mark_calm {s₀ s : State} (k : Calm s₀ s) (slab : Nat) (o : OpE) (unit : Nat) (m : Marks) (inj : Bool) : Calm s₀ (State.mark s slab o unit m inj) := by
  unfold State.mark
  repeat' first
    | with_reducible assumption
    | with_reducible apply State.raiseFlags_calm
    | with_reducible apply State.reportNan_calm
    | (intro h; simp at h; done)
    | exact id
    | intro _
    | split
    | dsimp only
    | with_reducible rfl
    | simp
    | omega

theorem State.nanInjected_calm {s₀ s : State} (k : Calm s₀ s) (o : OpE) : Calm s₀ (State.nanInjected s o).2 := by
  unfold State.nanInjected
  repeat' first
    | with_reducible assumption
    | with_reducible apply State.opportunity_calm
    | (intro h; simp at h; done)
    | exact id
    | intro _
    | split
    | dsimp only
    | refine Calm.snd (by assumption) ?_
    | refine Calm.fst (by assumption) ?_
    | with_reducible rfl
    | simp
    | omega

theorem State.fire_calm {s₀ s : State} (k : Calm s₀ s) (slab : Nat) (o : OpE) : Calm s₀ (State.fire s slab o) := by
  unfold State.fire
  repeat' first
    | with_reducible assumption
    | with_reducible apply State.modLive_calm
    | with_reducible apply calm_modSlab
    | (intro h; simp at h; done)
    | exact id
    | intro _
    | split
    | dsimp only
    | with_reducible rfl
    | simp
    | omega

theorem fireRow_calm {s₀ s : State} (k : Calm s₀ s) (u op : Nat) (act : State → Nat → OpE → State) (slab : Nat)
    (h : ∀ t i o, Calm s₀ t → Calm s₀ (act t i o)) : Calm s₀ (fireRow u op act slab s) := by
  unfold fireRow
  split
  · exact k
  · split
    · exact h _ _ _ (State.fire_calm k ..)
    · exact k

theorem firePair_calm {s₀ s : State} (k : Calm s₀ s) (op : Nat) (slab : Nat) : Calm s₀ (firePair op slab s) := by
  unfold firePair
  repeat' first
    | with_reducible assumption
    | with_reducible apply State.modLive_calm
    | with_reducible apply calm_modSlab
    | (intro h; simp at h; done)
    | exact id
    | intro _
    | split
    | dsimp only
    | refine Calm.snd (by assumption) ?_
    | refine Calm.fst (by assumption) ?_
    | with_reducible rfl
    | simp
    | omega

theorem State.join_calm {s₀ s : State} (k : Calm s₀ s) (slab : Nat) (o : OpE) : Calm s₀ (State.join s slab o) := by
  unfold State.join
  repeat' first
    | with_reducible assumption
    | with_reducible apply calm_modSlab
    | (intro h; simp at h; done)
    | exact id
    | intro _
    | split
    | dsimp only
    | with_reducible rfl
    | simp
    | omega

theorem partnerRow_calm {s₀ s : State} (k : Calm s₀ s) (u op : Nat) (act : State → Nat → OpE → State) (slab : Nat)
    (h : ∀ t i o, Calm s₀ t → Calm s₀ (act t i o)) : Calm s₀ (partnerRow u op act slab s) := by
  unfold partnerRow
  split
  · exact k
  · split
    · exact h _ _ _ (calm_modSlab k ..)
    · exact k

theorem State.emitToken_calm {s₀ s : State} (k : Calm s₀ s) (slab : Nat) (o : OpE) : Calm s₀ (State.emitToken s slab o) := by
  unfold State.emitToken
  repeat' first
    | with_reducible assumption
    | with_reducible apply State.contextFault_calm
    | with_reducible apply State.modLive_calm
    | (intro h; simp at h; done)
    | exact id
    | intro _
    | split
    | dsimp only
    | refine Calm.snd (by assumption) ?_
    | refine Calm.fst (by assumption) ?_
    | with_reducible rfl
    | simp
    | omega

theorem State.retire_calm {s₀ s : State} (k : Calm s₀ s) (slab : Nat) (o : OpE) : Calm s₀ (State.retire s slab o) := by
  unfold State.retire
  repeat' first
    | with_reducible assumption
    | with_reducible apply State.modLive_calm
    | with_reducible apply calm_modSlab
    | (intro h; simp at h; done)
    | exact id
    | intro _
    | split
    | dsimp only
    | with_reducible rfl
    | simp
    | omega

theorem State.modStarted_calm {s₀ s : State} (k : Calm s₀ s) (slab : Nat) (id : Nat) (g : OpE → OpE) : Calm s₀ (State.modStarted s slab id g) := by
  unfold State.modStarted
  repeat' first
    | with_reducible assumption
    | with_reducible apply calm_modSlab
    | (intro h; simp at h; done)
    | exact id
    | intro _
    | split
    | dsimp only
    | with_reducible rfl
    | simp
    | omega

theorem State.opFault_calm {s₀ s : State} (k : Calm s₀ s) (slab : Nat) (o : OpE) (code : St) (d1 : Nat) (inj : Bool) : Calm s₀ (State.opFault s slab o code d1 inj) := by
  unfold State.opFault
  repeat' first
    | with_reducible assumption
    | with_reducible apply State.contextFault_calm
    | (intro h; simp at h; done)
    | exact id
    | intro _
    | split
    | dsimp only
    | with_reducible rfl
    | simp
    | omega

theorem State.withShare_calm {s₀ s : State} (k : Calm s₀ s) (slab : Nat) (o : OpE) (areas : List (Nat × Nat))
    (f : State → State) (h : ∀ t, Calm s₀ t → Calm s₀ (f t)) : Calm s₀ (s.withShare slab o areas f) := by
  unfold State.withShare
  split
  · rename_i e; exact State.contextFault_calm (Calm.fst e (State.eccShare_calm k ..)) ..
  · rename_i e; exact h _ (Calm.fst e (State.eccShare_calm k ..))

theorem State.noteWrite_calm {s₀ s : State} (k : Calm s₀ s) (slab : Nat) (o : OpE) (kind : Nat) (key : Nat) (addr : Nat) (len : Nat) : Calm s₀ (State.noteWrite s slab o kind key addr len) := by
  unfold State.noteWrite
  repeat' first
    | with_reducible assumption
    | with_reducible apply State.modLive_calm
    | (intro h; simp at h; done)
    | exact id
    | intro _
    | split
    | dsimp only
    | with_reducible rfl
    | simp
    | omega

theorem State.opWrite_calm {s₀ s : State} (k : Calm s₀ s) (slab : Nat) (o : OpE) (a : Nat) (bs : List Byte) : Calm s₀ (State.opWrite s slab o a bs) := by
  unfold State.opWrite
  repeat' first
    | with_reducible assumption
    | with_reducible apply State.writeShare_calm
    | with_reducible apply State.noteWrite_calm
    | (intro h; simp at h; done)
    | exact id
    | intro _
    | split
    | dsimp only
    | with_reducible rfl
    | simp
    | omega

theorem State.withAcc_calm {s₀ s : State} (k : Calm s₀ s) (slab : Nat) (o : OpE) (slot a n : Nat)
    (f : State → State) (h : ∀ t, Calm s₀ t → Calm s₀ (f t)) : Calm s₀ (s.withAcc slab o slot a n f) := by
  unfold State.withAcc
  split
  · rename_i e; exact State.contextFault_calm (Calm.fst e (State.readAcc_calm k ..)) ..
  · rename_i e; exact h _ (Calm.fst e (State.readAcc_calm k ..))

theorem State.putRegs_calm {s₀ s : State} (k : Calm s₀ s) (slab : Nat) (g : Nat) (vs : List Word) : Calm s₀ (State.putRegs s slab g vs) := by
  unfold State.putRegs
  repeat' first
    | with_reducible assumption
    | with_reducible apply calm_modSlab
    | (intro h; simp at h; done)
    | exact id
    | intro _
    | split
    | dsimp only
    | with_reducible rfl
    | simp
    | omega

theorem State.putBand_calm {s₀ s : State} (k : Calm s₀ s) (slab : Nat) (o : OpE) (g : Nat) (rs : List Res) : Calm s₀ (State.putBand s slab o g rs) := by
  unfold State.putBand
  repeat' first
    | with_reducible assumption
    | with_reducible apply State.mark_calm
    | with_reducible apply State.nanInjected_calm
    | with_reducible apply State.putRegs_calm
    | (intro h; simp at h; done)
    | exact id
    | intro _
    | split
    | dsimp only
    | refine Calm.snd (by assumption) ?_
    | refine Calm.fst (by assumption) ?_
    | with_reducible rfl
    | simp
    | omega

theorem State.flagsInjected_calm {s₀ s : State} (k : Calm s₀ s) (f : Flight) (ctx : Nat) (img : Nat) : Calm s₀ (State.flagsInjected s f ctx img) := by
  unfold State.flagsInjected
  repeat' first
    | with_reducible assumption
    | with_reducible apply State.opportunity_calm
    | with_reducible apply calm_modFlight
    | (intro h; simp at h; done)
    | exact id
    | intro _
    | split
    | dsimp only
    | refine Calm.snd (by assumption) ?_
    | refine Calm.fst (by assumption) ?_
    | with_reducible rfl
    | simp
    | omega

theorem passageSelect_calm {s₀ s : State} (k : Calm s₀ s) (slab : Nat) : Calm s₀ (passageSelect slab s) := by
  unfold passageSelect
  repeat' first
    | with_reducible assumption
    | with_reducible apply State.writeShare_calm
    | with_reducible apply State.flagsInjected_calm
    | with_reducible apply calm_modSlab
    | (intro h; simp at h; done)
    | exact id
    | intro _
    | split
    | dsimp only
    | refine Calm.snd (by assumption) ?_
    | refine Calm.fst (by assumption) ?_
    | with_reducible rfl
    | simp
    | omega

theorem State.issue_calm {s₀ s : State} (k : Calm s₀ s) (slab : Nat) (l : Live) (c : Ctx) (g : Program) (ln : Line) (us : List Nat) (left : Option Nat) : Calm s₀ (State.issue s slab l c g ln us left) := by
  unfold State.issue
  repeat' first
    | with_reducible assumption
    | with_reducible apply State.modCtx_calm
    | with_reducible apply State.contextFault_calm
    | with_reducible apply State.modLive_calm
    | with_reducible apply calm_modSlab
    | (intro h; simp at h; done)
    | exact id
    | intro _
    | split
    | dsimp only
    | refine Calm.snd (by assumption) ?_
    | refine Calm.fst (by assumption) ?_
    | with_reducible rfl
    | simp
    | omega

theorem lineIssue_calm {s₀ s : State} (k : Calm s₀ s) (slab : Nat) : Calm s₀ (lineIssue slab s) := by
  unfold lineIssue
  repeat' first
    | with_reducible assumption
    | with_reducible apply State.contextFault_calm
    | with_reducible apply State.eccShare_calm
    | with_reducible apply State.modLive_calm
    | with_reducible apply State.issue_calm
    | with_reducible apply calm_modSlab
    | (intro h; simp at h; done)
    | exact id
    | intro _
    | split
    | dsimp only
    | refine Calm.snd (by assumption) ?_
    | refine Calm.fst (by assumption) ?_
    | with_reducible rfl
    | simp
    | omega

theorem nop_calm {s₀ s : State} (k : Calm s₀ s) (slab : Nat) (unit : Nat) : Calm s₀ (nop slab unit s) := by
  unfold nop
  repeat' first
    | with_reducible assumption
    | with_reducible apply fireRow_calm
    | (intro h; simp at h; done)
    | exact id
    | intro _
    | split
    | dsimp only
    | with_reducible rfl
    | simp
    | omega

theorem loopBegin_calm {s₀ s : State} (k : Calm s₀ s) (slab : Nat) : Calm s₀ (loopBegin slab s) := by
  unfold loopBegin
  repeat' first
    | with_reducible assumption
    | with_reducible apply fireRow_calm
    | (intro h; simp at h; done)
    | exact id
    | intro _
    | split
    | dsimp only
    | with_reducible rfl
    | simp
    | omega

theorem loopEnd_calm {s₀ s : State} (k : Calm s₀ s) (slab : Nat) : Calm s₀ (loopEnd slab s) := by
  unfold loopEnd
  repeat' first
    | with_reducible assumption
    | with_reducible apply fireRow_calm
    | (intro h; simp at h; done)
    | exact id
    | intro _
    | split
    | dsimp only
    | with_reducible rfl
    | simp
    | omega

theorem twait_calm {s₀ s : State} (k : Calm s₀ s) (slab : Nat) : Calm s₀ (twait slab s) := by
  unfold twait
  repeat' first
    | with_reducible assumption
    | with_reducible apply fireRow_calm
    | (intro h; simp at h; done)
    | exact id
    | intro _
    | split
    | dsimp only
    | with_reducible rfl
    | simp
    | omega

theorem looprAct_calm {s₀ s : State} (k : Calm s₀ s) (slab : Nat) (o : OpE) : Calm s₀ (looprAct s slab o) := by
  unfold looprAct
  repeat' first
    | with_reducible assumption
    | with_reducible apply State.modLive_calm
    | with_reducible apply State.opFault_calm
    | (intro h; simp at h; done)
    | exact id
    | intro _
    | split
    | dsimp only
    | with_reducible rfl
    | simp
    | omega

theorem loopr_calm {s₀ s : State} (k : Calm s₀ s) (slab : Nat) : Calm s₀ (loopr slab s) := by
  unfold loopr
  repeat' first
    | with_reducible assumption
    | with_reducible apply fireRow_calm
    | with_reducible apply looprAct_calm
    | (intro h; simp at h; done)
    | exact id
    | intro _
    | split
    | dsimp only
    | with_reducible rfl
    | simp
    | omega

theorem fence_calm {s₀ s : State} (k : Calm s₀ s) (slab : Nat) : Calm s₀ (fence slab s) := by
  unfold fence
  repeat' first
    | with_reducible assumption
    | with_reducible apply fireRow_calm
    | (intro h; simp at h; done)
    | exact id
    | intro _
    | split
    | dsimp only
    | refine Calm.snd (by assumption) ?_
    | refine Calm.fst (by assumption) ?_
    | with_reducible rfl
    | simp
    | omega

theorem State.spoil_calm {s₀ s : State} (k : Calm s₀ s) (l : Live) : Calm s₀ (State.spoil s l) := by
  unfold State.spoil
  repeat' first
    | with_reducible assumption
    | with_reducible apply State.blur_calm
    | with_reducible refine Calm.foldl _ (fun _ _ _ => ?_) _ ?_
    | with_reducible refine Calm.foldlFst _ (fun _ _ _ => ?_) _ ?_
    | (intro h; simp at h; done)
    | exact id
    | intro _
    | split
    | dsimp only
    | with_reducible rfl
    | simp
    | omega

theorem State.land_calm {s₀ s : State} (k : Calm s₀ s) (slab : Nat) (p : Inbound → Bool) : Calm s₀ (State.land s slab p) := by
  unfold State.land
  repeat' first
    | with_reducible assumption
    | with_reducible apply State.writeShare_calm
    | with_reducible apply calm_modSlab
    | with_reducible refine Calm.foldl _ (fun _ _ _ => ?_) _ ?_
    | with_reducible refine Calm.foldlFst _ (fun _ _ _ => ?_) _ ?_
    | (intro h; simp at h; done)
    | exact id
    | intro _
    | split
    | dsimp only
    | with_reducible rfl
    | simp
    | omega

theorem State.landAll_calm {s₀ s : State} (k : Calm s₀ s) (seq : Nat) : Calm s₀ (State.landAll s seq) := by
  unfold State.landAll
  repeat' first
    | with_reducible assumption
    | with_reducible apply State.land_calm
    | with_reducible refine Calm.foldl _ (fun _ _ _ => ?_) _ ?_
    | with_reducible refine Calm.foldlFst _ (fun _ _ _ => ?_) _ ?_
    | (intro h; simp at h; done)
    | exact id
    | intro _
    | split
    | dsimp only
    | with_reducible rfl
    | simp
    | omega

theorem State.passageEnded_calm {s₀ s : State} (k : Calm s₀ s) (slab : Nat) (l : Live) : Calm s₀ (State.passageEnded s slab l) := by
  unfold State.passageEnded
  repeat' first
    | with_reducible assumption
    | with_reducible apply State.finishRun_calm
    | with_reducible apply State.landAll_calm
    | with_reducible apply calm_modSlab
    | with_reducible apply calm_modFlight
    | (intro h; simp at h; done)
    | exact id
    | intro _
    | split
    | dsimp only
    | refine Calm.snd (by assumption) ?_
    | refine Calm.fst (by assumption) ?_
    | with_reducible rfl
    | simp
    | omega

theorem passageEnd_calm {s₀ s : State} (k : Calm s₀ s) (slab : Nat) (seq : Nat) : Calm s₀ (passageEnd slab seq s) := by
  unfold passageEnd
  repeat' first
    | with_reducible assumption
    | with_reducible apply State.contextFault_calm
    | with_reducible apply State.spoil_calm
    | with_reducible apply State.passageEnded_calm
    | (intro h; simp at h; done)
    | exact id
    | intro _
    | split
    | dsimp only
    | refine Calm.snd (by assumption) ?_
    | refine Calm.fst (by assumption) ?_
    | with_reducible rfl
    | simp
    | omega

theorem passageStall_calm {s₀ s : State} (k : Calm s₀ s) (slab : Nat) (seq : Nat) : Calm s₀ (passageStall slab seq s) := by
  unfold passageStall
  repeat' first
    | with_reducible assumption
    | with_reducible apply State.opportunity_calm
    | with_reducible apply State.contextFault_calm
    | (intro h; simp at h; done)
    | exact id
    | intro _
    | split
    | dsimp only
    | refine Calm.snd (by assumption) ?_
    | refine Calm.fst (by assumption) ?_
    | with_reducible rfl
    | simp
    | omega

theorem State.tellEntry_calm {s₀ s : State} (k : Calm s₀ s) (slab : Nat) (o : OpE) (m : Marks) (inj : Bool) : Calm s₀ (State.tellEntry s slab o m inj) := by
  unfold State.tellEntry
  repeat' first
    | with_reducible assumption
    | with_reducible apply State.raiseFlags_calm
    | with_reducible apply State.reportNan_calm
    | with_reducible apply calm_modSlab
    | (intro h; simp at h; done)
    | exact id
    | intro _
    | split
    | dsimp only
    | refine Calm.snd (by assumption) ?_
    | refine Calm.fst (by assumption) ?_
    | with_reducible rfl
    | simp
    | omega

theorem State.tell_calm {s₀ s : State} (k : Calm s₀ s) (slab : Nat) (o : OpE) (m : Marks) (inj : Bool) : Calm s₀ (State.tell s slab o m inj) := by
  unfold State.tell
  repeat' first
    | with_reducible assumption
    | with_reducible apply State.mark_calm
    | with_reducible apply State.tellEntry_calm
    | (intro h; simp at h; done)
    | exact id
    | intro _
    | split
    | dsimp only
    | with_reducible rfl
    | simp
    | omega

theorem State.productInjected_calm {s₀ s : State} (k : Calm s₀ s) (slab : Nat) (o : OpE) : Calm s₀ (State.productInjected s slab o).2 := by
  unfold State.productInjected
  repeat' first
    | with_reducible assumption
    | with_reducible apply State.nanInjected_calm
    | (intro h; simp at h; done)
    | exact id
    | intro _
    | split
    | dsimp only
    | refine Calm.snd (by assumption) ?_
    | refine Calm.fst (by assumption) ?_
    | with_reducible rfl
    | simp
    | omega

theorem State.multiply_calm {s₀ s : State} (k : Calm s₀ s) (slab : Nat) (o : OpE) (a : Operand) (w : Operand) (t : Target) : Calm s₀ (State.multiply s slab o a w t) := by
  unfold State.multiply
  repeat' first
    | with_reducible assumption
    | with_reducible apply State.overwrite_calm
    | with_reducible apply State.modSlot_calm
    | with_reducible apply State.tell_calm
    | with_reducible apply State.productInjected_calm
    | (intro h; simp at h; done)
    | exact id
    | intro _
    | split
    | dsimp only
    | refine Calm.snd (by assumption) ?_
    | refine Calm.fst (by assumption) ?_
    | with_reducible rfl
    | simp
    | omega

theorem State.arrayReads_calm {s₀ s : State} (k : Calm s₀ s) (slab : Nat) (o : OpE) (w : Nat) (d1 : Nat) (areas : List (Nat × Nat)) (t : Target) (k : State → State) (hk : ∀ t , Calm s₀ t → Calm s₀ (k t )) : Calm s₀ (State.arrayReads s slab o w d1 areas t k) := by
  unfold State.arrayReads
  repeat' first
    | with_reducible assumption
    | with_reducible apply hk
    | with_reducible apply State.opFault_calm
    | with_reducible apply State.withShare_calm
    | with_reducible apply State.withAcc_calm
    | (intro h; simp at h; done)
    | exact id
    | intro _
    | split
    | dsimp only
    | with_reducible rfl
    | simp
    | omega

theorem State.product_calm {s₀ s : State} (k : Calm s₀ s) (slab : Nat) (o : OpE) (a : Nat) (w : Nat) (d1 : Nat) (t : Target) : Calm s₀ (State.product s slab o a w d1 t) := by
  unfold State.product
  repeat' first
    | with_reducible assumption
    | with_reducible apply State.multiply_calm
    | with_reducible apply State.arrayReads_calm
    | (intro h; simp at h; done)
    | exact id
    | intro _
    | split
    | dsimp only
    | with_reducible rfl
    | simp
    | omega

theorem mmAct_calm {s₀ s : State} (k : Calm s₀ s) (slab : Nat) (o : OpE) : Calm s₀ (mmAct s slab o) := by
  unfold mmAct
  repeat' first
    | with_reducible assumption
    | with_reducible apply State.product_calm
    | (intro h; simp at h; done)
    | exact id
    | intro _
    | split
    | dsimp only
    | with_reducible rfl
    | simp
    | omega

theorem mmListAct_calm {s₀ s : State} (k : Calm s₀ s) (slab : Nat) (o : OpE) : Calm s₀ (mmListAct s slab o) := by
  unfold mmListAct
  repeat' first
    | with_reducible assumption
    | with_reducible apply State.opFault_calm
    | with_reducible apply State.withShare_calm
    | with_reducible apply calm_modSlab
    | (intro h; simp at h; done)
    | exact id
    | intro _
    | split
    | dsimp only
    | with_reducible rfl
    | simp
    | omega

theorem State.runEntry_calm {s₀ s : State} (k : Calm s₀ s) (slab : Nat) (o : OpE) (r : ListRun) (e : ListEntry) : Calm s₀ (State.runEntry s slab o r e) := by
  unfold State.runEntry
  repeat' first
    | with_reducible assumption
    | with_reducible apply State.modSlot_calm
    | with_reducible apply State.product_calm
    | with_reducible apply calm_modSlab
    | (intro h; simp at h; done)
    | exact id
    | intro _
    | split
    | dsimp only
    | with_reducible rfl
    | simp
    | omega

theorem mmListEntryRead_calm {s₀ s : State} (k : Calm s₀ s) (slab : Nat) : Calm s₀ (mmListEntryRead slab s) := by
  unfold mmListEntryRead
  repeat' first
    | with_reducible assumption
    | with_reducible apply State.opFault_calm
    | with_reducible apply State.withShare_calm
    | with_reducible apply State.runEntry_calm
    | (intro h; simp at h; done)
    | exact id
    | intro _
    | split
    | dsimp only
    | refine Calm.snd (by assumption) ?_
    | refine Calm.fst (by assumption) ?_
    | with_reducible rfl
    | simp
    | omega

theorem mmChainAct_calm {s₀ s : State} (k : Calm s₀ s) (slab : Nat) (o : OpE) : Calm s₀ (mmChainAct s slab o) := by
  unfold mmChainAct
  repeat' first
    | with_reducible assumption
    | with_reducible apply State.withAcc_calm
    | with_reducible apply State.multiply_calm
    | with_reducible apply State.arrayReads_calm
    | (intro h; simp at h; done)
    | exact id
    | intro _
    | split
    | dsimp only
    | refine Calm.snd (by assumption) ?_
    | refine Calm.fst (by assumption) ?_
    | with_reducible rfl
    | simp
    | omega

theorem mmArriveAct_calm {s₀ s : State} (k : Calm s₀ s) (slab : Nat) (o : OpE) : Calm s₀ (mmArriveAct s slab o) := by
  unfold mmArriveAct
  repeat' first
    | with_reducible assumption
    | with_reducible apply State.opFault_calm
    | with_reducible apply State.product_calm
    | (intro h; simp at h; done)
    | exact id
    | intro _
    | split
    | dsimp only
    | refine Calm.snd (by assumption) ?_
    | refine Calm.fst (by assumption) ?_
    | with_reducible rfl
    | simp
    | omega

theorem State.rewriteSlot_calm {s₀ s : State} (k : Calm s₀ s) (slab : Nat) (o : OpE) (f : AccSlot → AccSlot) : Calm s₀ (State.rewriteSlot s slab o f) := by
  unfold State.rewriteSlot
  repeat' first
    | with_reducible assumption
    | with_reducible apply State.overwrite_calm
    | with_reducible apply State.modSlot_calm
    | (intro h; simp at h; done)
    | exact id
    | intro _
    | split
    | dsimp only
    | with_reducible rfl
    | simp
    | omega

theorem accClearAct_calm {s₀ s : State} (k : Calm s₀ s) (slab : Nat) (o : OpE) : Calm s₀ (accClearAct s slab o) := by
  unfold accClearAct
  repeat' first
    | with_reducible assumption
    | with_reducible apply State.rewriteSlot_calm
    | (intro h; simp at h; done)
    | exact id
    | intro _
    | split
    | dsimp only
    | with_reducible rfl
    | simp
    | omega

theorem accSatclrAct_calm {s₀ s : State} (k : Calm s₀ s) (slab : Nat) (o : OpE) : Calm s₀ (accSatclrAct s slab o) := by
  unfold accSatclrAct
  repeat' first
    | with_reducible assumption
    | with_reducible apply State.modSlot_calm
    | (intro h; simp at h; done)
    | exact id
    | intro _
    | split
    | dsimp only
    | with_reducible rfl
    | simp
    | omega

theorem accSpillAct_calm {s₀ s : State} (k : Calm s₀ s) (slab : Nat) (o : OpE) : Calm s₀ (accSpillAct s slab o) := by
  unfold accSpillAct
  repeat' first
    | with_reducible assumption
    | with_reducible apply State.mark_calm
    | with_reducible apply State.withShare_calm
    | with_reducible apply State.opWrite_calm
    | with_reducible apply State.withAcc_calm
    | with_reducible apply State.rewriteSlot_calm
    | (intro h; simp at h; done)
    | exact id
    | intro _
    | split
    | dsimp only
    | with_reducible rfl
    | simp
    | omega

theorem accResumeAct_calm {s₀ s : State} (k : Calm s₀ s) (slab : Nat) (o : OpE) : Calm s₀ (accResumeAct s slab o) := by
  unfold accResumeAct
  repeat' first
    | with_reducible assumption
    | with_reducible apply State.withShare_calm
    | with_reducible apply State.opWrite_calm
    | with_reducible apply State.rewriteSlot_calm
    | (intro h; simp at h; done)
    | exact id
    | intro _
    | split
    | dsimp only
    | with_reducible rfl
    | simp
    | omega

theorem State.modSession_calm {s₀ s : State} (k : Calm s₀ s) (h : Nat) (g : CodecSession → CodecSession) : Calm s₀ (State.modSession s h g) := by
  unfold State.modSession
  repeat' first
    | with_reducible assumption
    | with_reducible apply calm_setCodec
    | (intro h; simp at h; done)
    | exact id
    | intro _
    | split
    | dsimp only
    | with_reducible rfl
    | simp
    | omega

theorem State.modCores_calm {s₀ s : State} (k : Calm s₀ s) (on : List Nat) (g : Core → Core) : Calm s₀ (State.modCores s on g) := by
  unfold State.modCores
  repeat' first
    | with_reducible assumption
    | with_reducible apply calm_setCodec
    | (intro h; simp at h; done)
    | exact id
    | intro _
    | split
    | dsimp only
    | with_reducible rfl
    | simp
    | omega

theorem codecOpen_calm {s₀ s : State} (k : Calm s₀ s) (f : Flight) : Calm s₀ (codecOpen s f) := by
  unfold codecOpen
  repeat' first
    | with_reducible assumption
    | with_reducible apply State.newHandle_calm
    | with_reducible apply State.failCmd_calm
    | with_reducible apply State.okCmd_calm
    | with_reducible apply State.hostIn_calm
    | with_reducible apply calm_setCodec
    | with_reducible apply calm_setFree
    | (intro h; simp at h; done)
    | exact id
    | intro _
    | split
    | dsimp only
    | refine Calm.snd (by assumption) ?_
    | refine Calm.fst (by assumption) ?_
    | with_reducible rfl
    | simp
    | omega

theorem codecClose_calm {s₀ s : State} (k : Calm s₀ s) (f : Flight) : Calm s₀ (codecClose s f) := by
  unfold codecClose
  repeat' first
    | with_reducible assumption
    | with_reducible apply State.failCmd_calm
    | with_reducible apply State.okCmd_calm
    | with_reducible apply State.modCores_calm
    | with_reducible apply calm_setCodec
    | (intro h; simp at h; done)
    | exact id
    | intro _
    | split
    | dsimp only
    | refine Calm.snd (by assumption) ?_
    | refine Calm.fst (by assumption) ?_
    | with_reducible rfl
    | simp
    | omega

theorem codecEncode_calm {s₀ s : State} (k : Calm s₀ s) (f : Flight) : Calm s₀ (codecEncode s f) := by
  unfold codecEncode
  repeat' first
    | with_reducible assumption
    | with_reducible apply State.failCmd_calm
    | with_reducible apply State.busyCmd_calm
    | (intro h; simp at h; done)
    | exact id
    | intro _
    | split
    | dsimp only
    | refine Calm.snd (by assumption) ?_
    | refine Calm.fst (by assumption) ?_
    | with_reducible rfl
    | simp
    | omega

theorem State.holdOutput_calm {s₀ s : State} (k : Calm s₀ s) (f : Flight) (c : CodecSession) (bs : List Byte) {t : State}
    (e : s.holdOutput f c bs = .ok t) : Calm s₀ t := by
  unfold State.holdOutput at e
  split at e
  · cases e
  · split at e
    · cases e
    · cases e; exact calm_modPart k ..

theorem State.finishEncode_calm {s₀ s : State} (k : Calm s₀ s) (f : Flight) (c : CodecSession) (bad : Option Nat) : Calm s₀ (State.finishEncode s f c bad) := by
  unfold State.finishEncode
  repeat' first
    | with_reducible assumption
    | with_reducible apply State.failCmd_calm
    | with_reducible apply State.modSession_calm
    | with_reducible refine State.holdOutput_calm ?_ (e := by assumption) ..
    | with_reducible apply calm_modFlight
    | (intro h; simp at h; done)
    | exact id
    | intro _
    | split
    | dsimp only
    | refine Calm.snd (by assumption) ?_
    | refine Calm.fst (by assumption) ?_
    | with_reducible rfl
    | simp
    | omega

theorem encodeFrameStart_calm {s₀ s : State} (k : Calm s₀ s) (h : Nat) : Calm s₀ (encodeFrameStart h s) := by
  unfold encodeFrameStart
  repeat' first
    | with_reducible assumption
    | with_reducible apply State.modSession_calm
    | with_reducible apply State.modCores_calm
    | with_reducible apply State.finishEncode_calm
    | (intro h; simp at h; done)
    | exact id
    | intro _
    | split
    | dsimp only
    | refine Calm.snd (by assumption) ?_
    | refine Calm.fst (by assumption) ?_
    | with_reducible rfl
    | simp
    | omega

theorem encodeFrameEnd_calm {s₀ s : State} (k : Calm s₀ s) (h : Nat) : Calm s₀ (encodeFrameEnd h s) := by
  unfold encodeFrameEnd
  repeat' first
    | with_reducible assumption
    | with_reducible apply State.modSession_calm
    | with_reducible apply State.modCores_calm
    | with_reducible apply State.finishEncode_calm
    | (intro h; simp at h; done)
    | exact id
    | intro _
    | split
    | dsimp only
    | refine Calm.snd (by assumption) ?_
    | refine Calm.fst (by assumption) ?_
    | with_reducible rfl
    | simp
    | omega

theorem State.startDecode_calm {s₀ s : State} (k : Calm s₀ s) (f : Flight) (c : CodecSession) : Calm s₀ (State.startDecode s f c) := by
  unfold State.startDecode
  repeat' first
    | with_reducible assumption
    | with_reducible apply State.opportunity_calm
    | with_reducible apply State.failCmd_calm
    | with_reducible apply State.busyCmd_calm
    | with_reducible apply State.hostIn_calm
    | with_reducible apply State.modSession_calm
    | with_reducible apply State.modCores_calm
    | (intro h; simp at h; done)
    | exact id
    | intro _
    | split
    | dsimp only
    | refine Calm.snd (by assumption) ?_
    | refine Calm.fst (by assumption) ?_
    | with_reducible rfl
    | simp
    | omega

theorem State.nextDecode_calm {s₀ s : State} (k : Calm s₀ s) (h n : Nat) : Calm s₀ (s.nextDecode h n) := by
  induction n generalizing s with
  | zero => exact k
  | succ n ih =>
    unfold State.nextDecode
    split
    · exact k
    · split
      · exact k
      · split
        · exact k
        · exact ih (State.startDecode_calm k ..)

theorem State.nextDecodes_calm {s₀ s : State} (k : Calm s₀ s) (fn : Nat) : Calm s₀ (State.nextDecodes s fn) := by
  unfold State.nextDecodes
  repeat' first
    | with_reducible assumption
    | with_reducible apply State.nextDecode_calm
    | with_reducible refine Calm.foldl _ (fun _ _ _ => ?_) _ ?_
    | with_reducible refine Calm.foldlFst _ (fun _ _ _ => ?_) _ ?_
    | (intro h; simp at h; done)
    | exact id
    | intro _
    | split
    | dsimp only
    | with_reducible rfl
    | simp
    | omega

theorem codecDecode_calm {s₀ s : State} (k : Calm s₀ s) (f : Flight) : Calm s₀ (codecDecode s f) := by
  unfold codecDecode
  repeat' first
    | with_reducible assumption
    | with_reducible apply State.failCmd_calm
    | with_reducible apply State.busyCmd_calm
    | with_reducible apply State.nextDecode_calm
    | (intro h; simp at h; done)
    | exact id
    | intro _
    | split
    | dsimp only
    | refine Calm.snd (by assumption) ?_
    | refine Calm.fst (by assumption) ?_
    | with_reducible rfl
    | simp
    | omega

theorem State.finishDecode_calm {s₀ s : State} (k : Calm s₀ s) (f : Flight) (c : CodecSession) : Calm s₀ (State.finishDecode s f c) := by
  unfold State.finishDecode
  repeat' first
    | with_reducible assumption
    | with_reducible apply State.modSession_calm
    | with_reducible apply State.modCores_calm
    | with_reducible apply State.nextDecode_calm
    | with_reducible apply calm_modFlight
    | (intro h; simp at h; done)
    | exact id
    | intro _
    | split
    | dsimp only
    | refine Calm.snd (by assumption) ?_
    | refine Calm.fst (by assumption) ?_
    | with_reducible rfl
    | simp
    | omega

theorem State.writeReady_calm {s₀ s : State} (k : Calm s₀ s) (f : Flight) (h n : Nat) : Calm s₀ (s.writeReady f h n) := by
  induction n generalizing s with
  | zero => exact k
  | succ n ih =>
    unfold State.writeReady
    split
    · exact k
    · split
      · exact k
      · split
        · exact k
        · exact ih (State.writeShare_calm (State.modSession_calm k ..) ..)

theorem State.nextFrame_calm {s₀ s : State} (k : Calm s₀ s) (f : Flight) (c : CodecSession) (d : Config.PicHdr) (late : Bool) : Calm s₀ (State.nextFrame s f c d late) := by
  unfold State.nextFrame
  repeat' first
    | with_reducible assumption
    | with_reducible apply State.opportunity_calm
    | with_reducible apply State.emit_calm
    | with_reducible apply nextFree_calm
    | with_reducible apply State.modSession_calm
    | with_reducible apply State.modCores_calm
    | with_reducible apply State.writeReady_calm
    | (intro h; simp at h; done)
    | exact id
    | intro _
    | split
    | dsimp only
    | refine Calm.snd (by assumption) ?_
    | refine Calm.fst (by assumption) ?_
    | with_reducible rfl
    | simp
    | omega

theorem State.decodeFrame_calm {s₀ s : State} (k : Calm s₀ s) (f : Flight) (h : Nat) (late : Bool) : Calm s₀ (State.decodeFrame s f h late) := by
  unfold State.decodeFrame
  repeat' first
    | with_reducible assumption
    | with_reducible apply State.modSession_calm
    | with_reducible apply State.finishDecode_calm
    | with_reducible apply State.writeReady_calm
    | with_reducible apply State.nextFrame_calm
    | (intro h; simp at h; done)
    | exact id
    | intro _
    | split
    | dsimp only
    | refine Calm.snd (by assumption) ?_
    | refine Calm.fst (by assumption) ?_
    | with_reducible rfl
    | simp
    | omega

theorem State.decodeStep_calm {s₀ s : State} (k : Calm s₀ s) (h : Nat) (late : Bool) : Calm s₀ (State.decodeStep s h late) := by
  unfold State.decodeStep
  repeat' first
    | with_reducible assumption
    | with_reducible apply State.modSession_calm
    | with_reducible apply State.modCores_calm
    | with_reducible apply State.nextDecode_calm
    | with_reducible apply codecDecode_calm
    | with_reducible apply State.decodeFrame_calm
    | (intro h; simp at h; done)
    | exact id
    | intro _
    | split
    | dsimp only
    | refine Calm.snd (by assumption) ?_
    | refine Calm.fst (by assumption) ?_
    | with_reducible rfl
    | simp
    | omega

theorem decodeFrameEnd_calm {s₀ s : State} (k : Calm s₀ s) (h : Nat) : Calm s₀ (decodeFrameEnd h s) := by
  unfold decodeFrameEnd
  repeat' first
    | with_reducible assumption
    | with_reducible apply State.decodeStep_calm
    | (intro h; simp at h; done)
    | exact id
    | intro _
    | split
    | dsimp only
    | with_reducible rfl
    | simp
    | omega

theorem decodeBudgetExpire_calm {s₀ s : State} (k : Calm s₀ s) (h : Nat) : Calm s₀ (decodeBudgetExpire h s) := by
  unfold decodeBudgetExpire
  repeat' first
    | with_reducible assumption
    | with_reducible apply State.decodeStep_calm
    | (intro h; simp at h; done)
    | exact id
    | intro _
    | split
    | dsimp only
    | with_reducible rfl
    | simp
    | omega

theorem State.scrambleCodec_calm {s₀ s : State} (k : Calm s₀ s) (p : Nat) : Calm s₀ (State.scrambleCodec s p) := by
  unfold State.scrambleCodec
  repeat' first
    | with_reducible assumption
    | with_reducible apply State.modSession_calm
    | with_reducible apply calm_setFree
    | with_reducible refine Calm.foldl _ (fun _ _ _ => ?_) _ ?_
    | with_reducible refine Calm.foldlFst _ (fun _ _ _ => ?_) _ ?_
    | (intro h; simp at h; done)
    | exact id
    | intro _
    | split
    | dsimp only
    | with_reducible rfl
    | simp
    | omega

theorem State.elementWise_calm {s₀ s : State} (k : Calm s₀ s) (slab : Nat) (o : OpE) (f : Word → Word → Word → Res) : Calm s₀ (State.elementWise s slab o f) := by
  unfold State.elementWise
  repeat' first
    | with_reducible assumption
    | with_reducible apply State.putBand_calm
    | (intro h; simp at h; done)
    | exact id
    | intro _
    | split
    | dsimp only
    | with_reducible rfl
    | simp
    | omega

theorem vAddAct_calm {s₀ s : State} (k : Calm s₀ s) (slab : Nat) (o : OpE) : Calm s₀ (vAddAct s slab o) := by
  unfold vAddAct
  repeat' first
    | with_reducible assumption
    | with_reducible apply State.elementWise_calm
    | (intro h; simp at h; done)
    | exact id
    | intro _
    | split
    | dsimp only
    | with_reducible rfl
    | simp
    | omega

theorem vSubAct_calm {s₀ s : State} (k : Calm s₀ s) (slab : Nat) (o : OpE) : Calm s₀ (vSubAct s slab o) := by
  unfold vSubAct
  repeat' first
    | with_reducible assumption
    | with_reducible apply State.elementWise_calm
    | (intro h; simp at h; done)
    | exact id
    | intro _
    | split
    | dsimp only
    | with_reducible rfl
    | simp
    | omega

theorem vMulAct_calm {s₀ s : State} (k : Calm s₀ s) (slab : Nat) (o : OpE) : Calm s₀ (vMulAct s slab o) := by
  unfold vMulAct
  repeat' first
    | with_reducible assumption
    | with_reducible apply State.elementWise_calm
    | (intro h; simp at h; done)
    | exact id
    | intro _
    | split
    | dsimp only
    | with_reducible rfl
    | simp
    | omega

theorem vFmaAct_calm {s₀ s : State} (k : Calm s₀ s) (slab : Nat) (o : OpE) : Calm s₀ (vFmaAct s slab o) := by
  unfold vFmaAct
  repeat' first
    | with_reducible assumption
    | with_reducible apply State.elementWise_calm
    | (intro h; simp at h; done)
    | exact id
    | intro _
    | split
    | dsimp only
    | with_reducible rfl
    | simp
    | omega

theorem vMaxAct_calm {s₀ s : State} (k : Calm s₀ s) (slab : Nat) (o : OpE) : Calm s₀ (vMaxAct s slab o) := by
  unfold vMaxAct
  repeat' first
    | with_reducible assumption
    | with_reducible apply State.elementWise_calm
    | (intro h; simp at h; done)
    | exact id
    | intro _
    | split
    | dsimp only
    | with_reducible rfl
    | simp
    | omega

theorem vMinAct_calm {s₀ s : State} (k : Calm s₀ s) (slab : Nat) (o : OpE) : Calm s₀ (vMinAct s slab o) := by
  unfold vMinAct
  repeat' first
    | with_reducible assumption
    | with_reducible apply State.elementWise_calm
    | (intro h; simp at h; done)
    | exact id
    | intro _
    | split
    | dsimp only
    | with_reducible rfl
    | simp
    | omega

theorem vAbsAct_calm {s₀ s : State} (k : Calm s₀ s) (slab : Nat) (o : OpE) : Calm s₀ (vAbsAct s slab o) := by
  unfold vAbsAct
  repeat' first
    | with_reducible assumption
    | with_reducible apply State.elementWise_calm
    | (intro h; simp at h; done)
    | exact id
    | intro _
    | split
    | dsimp only
    | with_reducible rfl
    | simp
    | omega

theorem vNegAct_calm {s₀ s : State} (k : Calm s₀ s) (slab : Nat) (o : OpE) : Calm s₀ (vNegAct s slab o) := by
  unfold vNegAct
  repeat' first
    | with_reducible assumption
    | with_reducible apply State.elementWise_calm
    | (intro h; simp at h; done)
    | exact id
    | intro _
    | split
    | dsimp only
    | with_reducible rfl
    | simp
    | omega

theorem vScaleAct_calm {s₀ s : State} (k : Calm s₀ s) (slab : Nat) (o : OpE) : Calm s₀ (vScaleAct s slab o) := by
  unfold vScaleAct
  repeat' first
    | with_reducible assumption
    | with_reducible apply State.elementWise_calm
    | (intro h; simp at h; done)
    | exact id
    | intro _
    | split
    | dsimp only
    | with_reducible rfl
    | simp
    | omega

theorem vAddiAct_calm {s₀ s : State} (k : Calm s₀ s) (slab : Nat) (o : OpE) : Calm s₀ (vAddiAct s slab o) := by
  unfold vAddiAct
  repeat' first
    | with_reducible assumption
    | with_reducible apply State.elementWise_calm
    | (intro h; simp at h; done)
    | exact id
    | intro _
    | split
    | dsimp only
    | with_reducible rfl
    | simp
    | omega

theorem vGaddAct_calm {s₀ s : State} (k : Calm s₀ s) (slab : Nat) (o : OpE) : Calm s₀ (vGaddAct s slab o) := by
  unfold vGaddAct
  repeat' first
    | with_reducible assumption
    | with_reducible apply State.elementWise_calm
    | (intro h; simp at h; done)
    | exact id
    | intro _
    | split
    | dsimp only
    | with_reducible rfl
    | simp
    | omega

theorem vCvtAct_calm {s₀ s : State} (k : Calm s₀ s) (slab : Nat) (o : OpE) : Calm s₀ (vCvtAct s slab o) := by
  unfold vCvtAct
  repeat' first
    | with_reducible assumption
    | with_reducible apply State.putBand_calm
    | (intro h; simp at h; done)
    | exact id
    | intro _
    | split
    | dsimp only
    | with_reducible rfl
    | simp
    | omega

theorem vDitherAct_calm {s₀ s : State} (k : Calm s₀ s) (slab : Nat) (o : OpE) : Calm s₀ (vDitherAct s slab o) := by
  unfold vDitherAct
  repeat' first
    | with_reducible assumption
    | with_reducible apply State.putBand_calm
    | (intro h; simp at h; done)
    | exact id
    | intro _
    | split
    | dsimp only
    | with_reducible rfl
    | simp
    | omega

theorem State.reduceRows_calm {s₀ s : State} (k : Calm s₀ s) (slab : Nat) (o : OpE) (f : List (List Word) → List Word → List Res) : Calm s₀ (State.reduceRows s slab o f) := by
  unfold State.reduceRows
  repeat' first
    | with_reducible assumption
    | with_reducible apply State.putBand_calm
    | (intro h; simp at h; done)
    | exact id
    | intro _
    | split
    | dsimp only
    | with_reducible rfl
    | simp
    | omega

theorem vRsumAct_calm {s₀ s : State} (k : Calm s₀ s) (slab : Nat) (o : OpE) : Calm s₀ (vRsumAct s slab o) := by
  unfold vRsumAct
  repeat' first
    | with_reducible assumption
    | with_reducible apply State.reduceRows_calm
    | (intro h; simp at h; done)
    | exact id
    | intro _
    | split
    | dsimp only
    | with_reducible rfl
    | simp
    | omega

theorem vRmaxAct_calm {s₀ s : State} (k : Calm s₀ s) (slab : Nat) (o : OpE) : Calm s₀ (vRmaxAct s slab o) := by
  unfold vRmaxAct
  repeat' first
    | with_reducible assumption
    | with_reducible apply State.reduceRows_calm
    | (intro h; simp at h; done)
    | exact id
    | intro _
    | split
    | dsimp only
    | with_reducible rfl
    | simp
    | omega

theorem vRwelAct_calm {s₀ s : State} (k : Calm s₀ s) (slab : Nat) (o : OpE) : Calm s₀ (vRwelAct s slab o) := by
  unfold vRwelAct
  repeat' first
    | with_reducible assumption
    | with_reducible apply State.reduceRows_calm
    | (intro h; simp at h; done)
    | exact id
    | intro _
    | split
    | dsimp only
    | with_reducible rfl
    | simp
    | omega

theorem vArgmaxAct_calm {s₀ s : State} (k : Calm s₀ s) (slab : Nat) (o : OpE) : Calm s₀ (vArgmaxAct s slab o) := by
  unfold vArgmaxAct
  repeat' first
    | with_reducible assumption
    | with_reducible apply State.reduceRows_calm
    | (intro h; simp at h; done)
    | exact id
    | intro _
    | split
    | dsimp only
    | with_reducible rfl
    | simp
    | omega

theorem State.convolve_calm {s₀ s : State} (k : Calm s₀ s) (slab : Nat) (o : OpE) (acc : Bool) (halo : Nat) (taps : Nat → Nat → List (Nat × Nat × Nat)) : Calm s₀ (State.convolve s slab o acc halo taps) := by
  unfold State.convolve
  repeat' first
    | with_reducible assumption
    | with_reducible apply State.putBand_calm
    | (intro h; simp at h; done)
    | exact id
    | intro _
    | split
    | dsimp only
    | with_reducible rfl
    | simp
    | omega

theorem vDwconvAct_calm {s₀ s : State} (k : Calm s₀ s) (slab : Nat) (o : OpE) : Calm s₀ (vDwconvAct s slab o) := by
  unfold vDwconvAct
  repeat' first
    | with_reducible assumption
    | with_reducible apply State.convolve_calm
    | (intro h; simp at h; done)
    | exact id
    | intro _
    | split
    | dsimp only
    | with_reducible rfl
    | simp
    | omega

theorem vGconvAct_calm {s₀ s : State} (k : Calm s₀ s) (slab : Nat) (o : OpE) : Calm s₀ (vGconvAct s slab o) := by
  unfold vGconvAct
  repeat' first
    | with_reducible assumption
    | with_reducible apply State.convolve_calm
    | (intro h; simp at h; done)
    | exact id
    | intro _
    | split
    | dsimp only
    | with_reducible rfl
    | simp
    | omega

theorem vLdAct_calm {s₀ s : State} (k : Calm s₀ s) (slab : Nat) (o : OpE) : Calm s₀ (vLdAct s slab o) := by
  unfold vLdAct
  repeat' first
    | with_reducible assumption
    | with_reducible apply State.withShare_calm
    | with_reducible apply State.putRegs_calm
    | (intro h; simp at h; done)
    | exact id
    | intro _
    | split
    | dsimp only
    | with_reducible rfl
    | simp
    | omega

theorem vStAct_calm {s₀ s : State} (k : Calm s₀ s) (slab : Nat) (o : OpE) : Calm s₀ (vStAct s slab o) := by
  unfold vStAct
  repeat' first
    | with_reducible assumption
    | with_reducible apply State.opWrite_calm
    | with_reducible refine Calm.foldl _ (fun _ _ _ => ?_) _ ?_
    | with_reducible refine Calm.foldlFst _ (fun _ _ _ => ?_) _ ?_
    | (intro h; simp at h; done)
    | exact id
    | intro _
    | split
    | dsimp only
    | with_reducible rfl
    | simp
    | omega

theorem State.putTileRow_calm {s₀ s : State} (k : Calm s₀ s) (slab : Nat) (o : OpE) (t : Tile) (r : Nat) (c : Coded) : Calm s₀ (State.putTileRow s slab o t r c) := by
  unfold State.putTileRow
  repeat' first
    | with_reducible assumption
    | with_reducible apply State.opWrite_calm
    | (intro h; simp at h; done)
    | exact id
    | intro _
    | split
    | dsimp only
    | with_reducible rfl
    | simp
    | omega

theorem State.epilogue_calm {s₀ s : State} (k : Calm s₀ s) (slab : Nat) (o : OpE) (d : Option Fuse) (vals : List Word) : Calm s₀ (State.epilogue s slab o d vals) := by
  unfold State.epilogue
  repeat' first
    | with_reducible assumption
    | with_reducible apply State.mark_calm
    | with_reducible apply State.nanInjected_calm
    | with_reducible apply State.putTileRow_calm
    | with_reducible refine Calm.foldl _ (fun _ _ _ => ?_) _ ?_
    | with_reducible refine Calm.foldlFst _ (fun _ _ _ => ?_) _ ?_
    | (intro h; simp at h; done)
    | exact id
    | intro _
    | split
    | dsimp only
    | refine Calm.snd (by assumption) ?_
    | refine Calm.fst (by assumption) ?_
    | with_reducible rfl
    | simp
    | omega

theorem State.statPass_calm {s₀ s : State} (k : Calm s₀ s) (slab : Nat) (o : OpE) (f : Fuse) (vals : List Word) : Calm s₀ (State.statPass s slab o f vals) := by
  unfold State.statPass
  repeat' first
    | with_reducible assumption
    | with_reducible apply State.mark_calm
    | with_reducible apply State.opWrite_calm
    | with_reducible refine Calm.foldl _ (fun _ _ _ => ?_) _ ?_
    | with_reducible refine Calm.foldlFst _ (fun _ _ _ => ?_) _ ?_
    | (intro h; simp at h; done)
    | exact id
    | intro _
    | split
    | dsimp only
    | with_reducible rfl
    | simp
    | omega

theorem State.drained_calm {s₀ s : State} (k : Calm s₀ s) (slab : Nat) (o : OpE) (reads : List Area) (k : State → List Word → State) (hk : ∀ t x0, Calm s₀ t → Calm s₀ (k t x0)) : Calm s₀ (State.drained s slab o reads k) := by
  unfold State.drained
  repeat' first
    | with_reducible assumption
    | with_reducible apply hk
    | with_reducible apply State.withShare_calm
    | with_reducible apply State.withAcc_calm
    | (intro h; simp at h; done)
    | exact id
    | intro _
    | split
    | dsimp only
    | refine Calm.snd (by assumption) ?_
    | refine Calm.fst (by assumption) ?_
    | with_reducible rfl
    | simp
    | omega

theorem vEpiAct_calm {s₀ s : State} (k : Calm s₀ s) (slab : Nat) (o : OpE) : Calm s₀ (vEpiAct s slab o) := by
  unfold vEpiAct
  repeat' first
    | with_reducible assumption
    | with_reducible apply State.epilogue_calm
    | with_reducible apply State.statPass_calm
    | with_reducible apply State.drained_calm
    | (intro h; simp at h; done)
    | exact id
    | intro _
    | split
    | dsimp only
    | refine Calm.snd (by assumption) ?_
    | refine Calm.fst (by assumption) ?_
    | with_reducible rfl
    | simp
    | omega

theorem State.osmScore_calm {s₀ s : State} (k : Calm s₀ s) (slab : Nat) (o : OpE) (f : Fuse) (vals : List Word) : Calm s₀ (State.osmScore s slab o f vals) := by
  unfold State.osmScore
  repeat' first
    | with_reducible assumption
    | with_reducible apply State.mark_calm
    | with_reducible apply State.nanInjected_calm
    | with_reducible apply State.opWrite_calm
    | with_reducible apply State.putTileRow_calm
    | with_reducible refine Calm.foldl _ (fun _ _ _ => ?_) _ ?_
    | with_reducible refine Calm.foldlFst _ (fun _ _ _ => ?_) _ ?_
    | (intro h; simp at h; done)
    | exact id
    | intro _
    | split
    | dsimp only
    | refine Calm.snd (by assumption) ?_
    | refine Calm.fst (by assumption) ?_
    | with_reducible rfl
    | simp
    | omega

theorem State.osmOut_calm {s₀ s : State} (k : Calm s₀ s) (slab : Nat) (o : OpE) (f : Fuse) (vals : List Word) : Calm s₀ (State.osmOut s slab o f vals) := by
  unfold State.osmOut
  repeat' first
    | with_reducible assumption
    | with_reducible apply State.mark_calm
    | with_reducible apply State.nanInjected_calm
    | with_reducible apply State.opWrite_calm
    | with_reducible apply State.putTileRow_calm
    | with_reducible refine Calm.foldl _ (fun _ _ _ => ?_) _ ?_
    | with_reducible refine Calm.foldlFst _ (fun _ _ _ => ?_) _ ?_
    | (intro h; simp at h; done)
    | exact id
    | intro _
    | split
    | dsimp only
    | refine Calm.snd (by assumption) ?_
    | refine Calm.fst (by assumption) ?_
    | with_reducible rfl
    | simp
    | omega

theorem vOsmAct_calm {s₀ s : State} (k : Calm s₀ s) (slab : Nat) (o : OpE) : Calm s₀ (vOsmAct s slab o) := by
  unfold vOsmAct
  repeat' first
    | with_reducible assumption
    | with_reducible apply State.drained_calm
    | with_reducible apply State.osmScore_calm
    | with_reducible apply State.osmOut_calm
    | (intro h; simp at h; done)
    | exact id
    | intro _
    | split
    | dsimp only
    | refine Calm.snd (by assumption) ?_
    | refine Calm.fst (by assumption) ?_
    | with_reducible rfl
    | simp
    | omega

theorem State.mapBand_calm {s₀ s : State} (k : Calm s₀ s) (slab : Nat) (o : OpE) (f : Word → Res) : Calm s₀ (State.mapBand s slab o f) := by
  unfold State.mapBand
  repeat' first
    | with_reducible assumption
    | with_reducible apply State.putBand_calm
    | (intro h; simp at h; done)
    | exact id
    | intro _
    | split
    | dsimp only
    | with_reducible rfl
    | simp
    | omega

theorem State.specialBand_calm {s₀ s : State} (k : Calm s₀ s) (slab : Nat) (o : OpE) (f : SFn) : Calm s₀ (State.specialBand s slab o f) := by
  unfold State.specialBand
  repeat' first
    | with_reducible assumption
    | with_reducible apply State.mapBand_calm
    | (intro h; simp at h; done)
    | exact id
    | intro _
    | split
    | dsimp only
    | with_reducible rfl
    | simp
    | omega

theorem vbExpAct_calm {s₀ s : State} (k : Calm s₀ s) (slab : Nat) (o : OpE) : Calm s₀ (vbExpAct s slab o) := by
  unfold vbExpAct
  repeat' first
    | with_reducible assumption
    | with_reducible apply State.specialBand_calm
    | (intro h; simp at h; done)
    | exact id
    | intro _
    | split
    | dsimp only
    | with_reducible rfl
    | simp
    | omega

theorem vbLogAct_calm {s₀ s : State} (k : Calm s₀ s) (slab : Nat) (o : OpE) : Calm s₀ (vbLogAct s slab o) := by
  unfold vbLogAct
  repeat' first
    | with_reducible assumption
    | with_reducible apply State.specialBand_calm
    | (intro h; simp at h; done)
    | exact id
    | intro _
    | split
    | dsimp only
    | with_reducible rfl
    | simp
    | omega

theorem vbRsqrtAct_calm {s₀ s : State} (k : Calm s₀ s) (slab : Nat) (o : OpE) : Calm s₀ (vbRsqrtAct s slab o) := by
  unfold vbRsqrtAct
  repeat' first
    | with_reducible assumption
    | with_reducible apply State.specialBand_calm
    | (intro h; simp at h; done)
    | exact id
    | intro _
    | split
    | dsimp only
    | with_reducible rfl
    | simp
    | omega

theorem vbRcpAct_calm {s₀ s : State} (k : Calm s₀ s) (slab : Nat) (o : OpE) : Calm s₀ (vbRcpAct s slab o) := by
  unfold vbRcpAct
  repeat' first
    | with_reducible assumption
    | with_reducible apply State.specialBand_calm
    | (intro h; simp at h; done)
    | exact id
    | intro _
    | split
    | dsimp only
    | with_reducible rfl
    | simp
    | omega

theorem vbSigmoidAct_calm {s₀ s : State} (k : Calm s₀ s) (slab : Nat) (o : OpE) : Calm s₀ (vbSigmoidAct s slab o) := by
  unfold vbSigmoidAct
  repeat' first
    | with_reducible assumption
    | with_reducible apply State.specialBand_calm
    | (intro h; simp at h; done)
    | exact id
    | intro _
    | split
    | dsimp only
    | with_reducible rfl
    | simp
    | omega

theorem vbTanhAct_calm {s₀ s : State} (k : Calm s₀ s) (slab : Nat) (o : OpE) : Calm s₀ (vbTanhAct s slab o) := by
  unfold vbTanhAct
  repeat' first
    | with_reducible assumption
    | with_reducible apply State.specialBand_calm
    | (intro h; simp at h; done)
    | exact id
    | intro _
    | split
    | dsimp only
    | with_reducible rfl
    | simp
    | omega

theorem vbGeluAct_calm {s₀ s : State} (k : Calm s₀ s) (slab : Nat) (o : OpE) : Calm s₀ (vbGeluAct s slab o) := by
  unfold vbGeluAct
  repeat' first
    | with_reducible assumption
    | with_reducible apply State.specialBand_calm
    | (intro h; simp at h; done)
    | exact id
    | intro _
    | split
    | dsimp only
    | with_reducible rfl
    | simp
    | omega

theorem vbSiluAct_calm {s₀ s : State} (k : Calm s₀ s) (slab : Nat) (o : OpE) : Calm s₀ (vbSiluAct s slab o) := by
  unfold vbSiluAct
  repeat' first
    | with_reducible assumption
    | with_reducible apply State.specialBand_calm
    | (intro h; simp at h; done)
    | exact id
    | intro _
    | split
    | dsimp only
    | with_reducible rfl
    | simp
    | omega

theorem vbSinAct_calm {s₀ s : State} (k : Calm s₀ s) (slab : Nat) (o : OpE) : Calm s₀ (vbSinAct s slab o) := by
  unfold vbSinAct
  repeat' first
    | with_reducible assumption
    | with_reducible apply State.specialBand_calm
    | (intro h; simp at h; done)
    | exact id
    | intro _
    | split
    | dsimp only
    | with_reducible rfl
    | simp
    | omega

theorem vbCosAct_calm {s₀ s : State} (k : Calm s₀ s) (slab : Nat) (o : OpE) : Calm s₀ (vbCosAct s slab o) := by
  unfold vbCosAct
  repeat' first
    | with_reducible assumption
    | with_reducible apply State.specialBand_calm
    | (intro h; simp at h; done)
    | exact id
    | intro _
    | split
    | dsimp only
    | with_reducible rfl
    | simp
    | omega

theorem vbGumbelAct_calm {s₀ s : State} (k : Calm s₀ s) (slab : Nat) (o : OpE) : Calm s₀ (vbGumbelAct s slab o) := by
  unfold vbGumbelAct
  repeat' first
    | with_reducible assumption
    | with_reducible apply State.mapBand_calm
    | (intro h; simp at h; done)
    | exact id
    | intro _
    | split
    | dsimp only
    | with_reducible rfl
    | simp
    | omega

theorem vbCompressAct_calm {s₀ s : State} (k : Calm s₀ s) (slab : Nat) (o : OpE) : Calm s₀ (vbCompressAct s slab o) := by
  unfold vbCompressAct
  repeat' first
    | with_reducible assumption
    | with_reducible apply State.modStarted_calm
    | with_reducible apply State.putRegs_calm
    | (intro h; simp at h; done)
    | exact id
    | intro _
    | split
    | dsimp only
    | with_reducible rfl
    | simp
    | omega

theorem vbExpandAct_calm {s₀ s : State} (k : Calm s₀ s) (slab : Nat) (o : OpE) : Calm s₀ (vbExpandAct s slab o) := by
  unfold vbExpandAct
  repeat' first
    | with_reducible assumption
    | with_reducible apply State.putRegs_calm
    | (intro h; simp at h; done)
    | exact id
    | intro _
    | split
    | dsimp only
    | with_reducible rfl
    | simp
    | omega

theorem vbPermuteAct_calm {s₀ s : State} (k : Calm s₀ s) (slab : Nat) (o : OpE) : Calm s₀ (vbPermuteAct s slab o) := by
  unfold vbPermuteAct
  repeat' first
    | with_reducible assumption
    | with_reducible apply State.putRegs_calm
    | (intro h; simp at h; done)
    | exact id
    | intro _
    | split
    | dsimp only
    | with_reducible rfl
    | simp
    | omega

theorem State.cropBoxesFrom_calm {s₀ s : State} (k : Calm s₀ s) (slab : Nat) (o : OpE) (c : Crop) (inj : Bool)
    (l : List Nat) (m : Marks) : Calm s₀ (s.cropBoxesFrom slab o c inj l m) := by
  induction l generalizing s m with
  | nil => exact State.mark_calm k ..
  | cons i t ih =>
    unfold State.cropBoxesFrom
    dsimp only
    split
    · rename_i s1 j e
      exact State.contextFault_calm (State.mark_calm (Calm.fst e (State.eccShare_calm k ..)) ..) ..
    · rename_i s1 e
      have k1 : Calm s₀ s1 := Calm.fst e (State.eccShare_calm k ..)
      split
      · exact State.opFault_calm (State.mark_calm k1 ..) ..
      · split
        · rename_i e2
          exact State.contextFault_calm (State.mark_calm (Calm.fst e2 (State.eccShare_calm k1 ..)) ..) ..
        · rename_i e2
          exact ih (State.opWrite_calm (Calm.fst e2 (State.eccShare_calm k1 ..)) ..) _

theorem vbCropAct_calm {s₀ s : State} (k : Calm s₀ s) (slab : Nat) (o : OpE) : Calm s₀ (vbCropAct s slab o) := by
  unfold vbCropAct
  repeat' first
    | with_reducible assumption
    | with_reducible apply State.nanInjected_calm
    | with_reducible apply State.cropBoxesFrom_calm
    | (intro h; simp at h; done)
    | exact id
    | intro _
    | split
    | dsimp only
    | refine Calm.snd (by assumption) ?_
    | refine Calm.fst (by assumption) ?_
    | with_reducible rfl
    | simp
    | omega

theorem flDrawAct_calm {s₀ s : State} (k : Calm s₀ s) (slab : Nat) (o : OpE) : Calm s₀ (flDrawAct s slab o) := by
  unfold flDrawAct
  repeat' first
    | with_reducible assumption
    | with_reducible apply State.modLive_calm
    | with_reducible apply State.putRegs_calm
    | (intro h; simp at h; done)
    | exact id
    | intro _
    | split
    | dsimp only
    | refine Calm.snd (by assumption) ?_
    | refine Calm.fst (by assumption) ?_
    | with_reducible rfl
    | simp
    | omega

theorem State.xfFault_calm {s₀ s : State} (k : Calm s₀ s) (slab : Nat) (o : OpE) (code : St) (unit : Nat) (item : Nat) (inj : Bool) : Calm s₀ (State.xfFault s slab o code unit item inj) := by
  unfold State.xfFault
  repeat' first
    | with_reducible assumption
    | with_reducible apply State.contextFault_calm
    | (intro h; simp at h; done)
    | exact id
    | intro _
    | split
    | dsimp only
    | with_reducible rfl
    | simp
    | omega

theorem State.hostBytes_calm {s₀ s : State} (k : Calm s₀ s) (p : Nat) (bs : List Byte) : Calm s₀ (State.hostBytes s p bs).1 := by
  unfold State.hostBytes
  repeat' first
    | with_reducible assumption
    | with_reducible apply State.draw_calm
    | (intro h; simp at h; done)
    | exact id
    | intro _
    | split
    | dsimp only
    | refine Calm.snd (by assumption) ?_
    | refine Calm.fst (by assumption) ?_
    | with_reducible rfl
    | simp
    | omega

theorem State.xfRead_calm {s₀ s : State} (k : Calm s₀ s) (slab : Nat) (o : OpE) (item : Nat) (d : XfDesc) (r : Nat) (k : Nat) : Calm s₀ (State.xfRead s slab o item d r k).1 := by
  unfold State.xfRead
  repeat' first
    | with_reducible assumption
    | with_reducible apply State.readHbm_calm
    | with_reducible apply State.eccShare_calm
    | with_reducible apply State.xfFault_calm
    | with_reducible apply State.hostBytes_calm
    | (intro h; simp at h; done)
    | exact id
    | intro _
    | split
    | dsimp only
    | refine Calm.snd (by assumption) ?_
    | refine Calm.fst (by assumption) ?_
    | with_reducible rfl
    | simp
    | omega

theorem State.sendTo_calm {s₀ s : State} (k : Calm s₀ s) (slab : Nat) (o : OpE) (t : Nat) (a : Nat) (bs : List Byte) : Calm s₀ (State.sendTo s slab o t a bs) := by
  unfold State.sendTo
  repeat' first
    | with_reducible assumption
    | with_reducible apply calm_modSlab
    | (intro h; simp at h; done)
    | exact id
    | intro _
    | split
    | dsimp only
    | with_reducible rfl
    | simp
    | omega

theorem State.xfWrite_calm {s₀ s : State} (k : Calm s₀ s) (slab : Nat) (o : OpE) (item : Nat) (d : XfDesc) (r : Nat) (k : Nat) (bs : List Byte) : Calm s₀ (State.xfWrite s slab o item d r k bs).1 := by
  unfold State.xfWrite
  repeat' first
    | with_reducible assumption
    | with_reducible apply State.overwrite_calm
    | with_reducible refine State.needFlat_calm ?_ (e := by assumption) ..
    | with_reducible apply State.writeFlat_calm
    | with_reducible apply State.noteWrite_calm
    | with_reducible apply State.opWrite_calm
    | with_reducible apply State.modSession_calm
    | with_reducible apply State.xfFault_calm
    | with_reducible apply State.hostBytes_calm
    | with_reducible apply State.sendTo_calm
    | with_reducible apply calm_writeHost
    | (intro h; simp at h; done)
    | exact id
    | intro _
    | split
    | dsimp only
    | refine Calm.snd (by assumption) ?_
    | refine Calm.fst (by assumption) ?_
    | with_reducible rfl
    | simp
    | omega

theorem State.xfUnits_calm {s₀ s : State} (k : Calm s₀ s) (slab : Nat) (o : OpE) (item : Nat) (d : XfDesc)
    (l : List (Nat × Nat)) : Calm s₀ (s.xfUnits slab o item d l).1 := by
  induction l generalizing s with
  | nil => exact k
  | cons a t ih =>
    unfold State.xfUnits
    split
    · rename_i e; exact Calm.fst e (State.xfRead_calm k ..)
    · rename_i e
      have k1 := Calm.fst e (State.xfRead_calm k ..)
      split
      · rename_i e2; exact Calm.fst e2 (State.xfWrite_calm k1 ..)
      · rename_i e2; exact ih (Calm.fst e2 (State.xfWrite_calm k1 ..))

theorem State.moveDesc_calm {s₀ s : State} (k : Calm s₀ s) (slab : Nat) (o : OpE) (i : Nat) (d : XfDesc) : Calm s₀ (State.moveDesc s slab o i d).1 := by
  unfold State.moveDesc
  repeat' first
    | with_reducible assumption
    | with_reducible apply State.atsInjected_calm
    | with_reducible apply State.xfFault_calm
    | with_reducible apply State.xfUnits_calm
    | (intro h; simp at h; done)
    | exact id
    | intro _
    | split
    | dsimp only
    | refine Calm.snd (by assumption) ?_
    | refine Calm.fst (by assumption) ?_
    | with_reducible rfl
    | simp
    | omega

theorem State.runDesc_calm {s₀ s : State} (k : Calm s₀ s) (slab : Nat) (o : OpE) (i : Nat) : Calm s₀ (State.runDesc s slab o i).1 := by
  unfold State.runDesc
  repeat' first
    | with_reducible assumption
    | with_reducible apply State.eccShare_calm
    | with_reducible apply State.xfFault_calm
    | with_reducible apply State.moveDesc_calm
    | with_reducible apply calm_setPort
    | (intro h; simp at h; done)
    | exact id
    | intro _
    | split
    | dsimp only
    | refine Calm.snd (by assumption) ?_
    | refine Calm.fst (by assumption) ?_
    | with_reducible rfl
    | simp
    | omega

theorem State.runDescs_calm {s₀ s : State} (k : Calm s₀ s) (slab : Nat) (o : OpE) (upTo : XfDesc → Bool)
    (l : List Nat) : Calm s₀ (s.runDescs slab o upTo l).1 := by
  induction l generalizing s with
  | nil => exact k
  | cons i t ih =>
    unfold State.runDescs
    split
    · exact k
    · split
      · rename_i e; exact ih (State.modStarted_calm (Calm.fst e (State.runDesc_calm k ..)) ..)
      · exact State.runDesc_calm k ..

theorem xfRun_calm {s₀ s : State} (k : Calm s₀ s) (slab : Nat) : Calm s₀ (xfRun slab s) := by
  unfold xfRun
  repeat' first
    | with_reducible assumption
    | with_reducible apply fireRow_calm
    | with_reducible apply State.runDescs_calm
    | (intro h; simp at h; done)
    | exact id
    | intro _
    | split
    | dsimp only
    | refine Calm.snd (by assumption) ?_
    | refine Calm.fst (by assumption) ?_
    | with_reducible rfl
    | simp
    | omega

theorem State.walkFault_calm {s₀ s : State} (k : Calm s₀ s) (slab : Nat) (o : OpE) (code : St) (bind : Nat) (offset : Nat) (piece : Nat) (d1 : Nat) : Calm s₀ (State.walkFault s slab o code bind offset piece d1) := by
  unfold State.walkFault
  repeat' first
    | with_reducible assumption
    | with_reducible apply State.contextFault_calm
    | (intro h; simp at h; done)
    | exact id
    | intro _
    | split
    | dsimp only
    | with_reducible rfl
    | simp
    | omega

theorem State.movePiece_calm {s₀ s : State} (k : Calm s₀ s) (slab : Nat) (o : OpE) (h : Nat) (toRegion : Bool)
    (va oa piece : Nat) (start : Bool) (n : Nat) : Calm s₀ (s.movePiece slab o h toRegion va oa piece start n).1 := by
  induction n generalizing s va oa start with
  | zero => exact k
  | succ n ih =>
    unfold State.movePiece
    split
    · split
      · rename_i e; dsimp only; exact State.xfFault_calm (Calm.fst e (State.eccShare_calm k ..)) ..
      · rename_i e
        exact ih (State.noteWrite_calm (State.overwrite_calm (State.modRegion_calm (Calm.fst e (State.eccShare_calm k ..)) ..) ..) ..) ..
    · split
      · rename_i e; dsimp only; exact State.xfFault_calm (Calm.fst e (State.readHbm_calm k ..)) ..
      · rename_i e; exact ih (State.opWrite_calm (Calm.fst e (State.readHbm_calm k ..)) ..) ..

theorem State.walkRow_calm {s₀ s : State} (k : Calm s₀ s) (slab : Nat) (o : OpE) (h bind : Nat) (toRegion : Bool)
    (fuel va oa left piece : Nat) : Calm s₀ (s.walkRow slab o h bind toRegion fuel va oa left piece).1 := by
  induction fuel generalizing s va oa left piece with
  | zero => exact k
  | succ n ih =>
    unfold State.walkRow
    split
    · exact k
    · split
      · dsimp only; exact State.walkFault_calm k ..
      · split
        · dsimp only; exact State.walkFault_calm k ..
        · dsimp only
          split
          · rename_i e; exact Calm.fst e (State.movePiece_calm k ..)
          · rename_i e; exact ih (Calm.fst e (State.movePiece_calm k ..)) ..

theorem State.walkRows_calm {s₀ s : State} (k : Calm s₀ s) (slab : Nat) (o : OpE) (h bind : Nat) (d : XfDesc)
    (l : List Nat) (piece : Nat) : Calm s₀ (s.walkRows slab o h bind d l piece).1 := by
  induction l generalizing s piece with
  | nil => exact k
  | cons r t ih =>
    unfold State.walkRows
    dsimp only
    split
    · rename_i e; exact Calm.fst e (State.walkRow_calm k ..)
    · rename_i e; exact ih (Calm.fst e (State.walkRow_calm k ..)) ..

theorem xfPagedAct_calm {s₀ s : State} (k : Calm s₀ s) (slab : Nat) (o : OpE) : Calm s₀ (xfPagedAct s slab o) := by
  unfold xfPagedAct
  repeat' first
    | with_reducible assumption
    | with_reducible apply State.modStarted_calm
    | with_reducible apply State.opFault_calm
    | with_reducible apply State.withShare_calm
    | with_reducible apply State.walkFault_calm
    | with_reducible apply State.walkRows_calm
    | (intro h; simp at h; done)
    | exact id
    | intro _
    | split
    | dsimp only
    | refine Calm.snd (by assumption) ?_
    | refine Calm.fst (by assumption) ?_
    | with_reducible rfl
    | simp
    | omega

theorem State.modQueue_calm {s₀ s : State} (k : Calm s₀ s) (slab : Nat) (q : Nat) (f : GQueue → GQueue) : Calm s₀ (State.modQueue s slab q f) := by
  unfold State.modQueue
  repeat' first
    | with_reducible assumption
    | with_reducible apply calm_modSlab
    | (intro h; simp at h; done)
    | exact id
    | intro _
    | split
    | dsimp only
    | with_reducible rfl
    | simp
    | omega

theorem State.startHead_calm {s₀ s : State} (k : Calm s₀ s) (slab : Nat) (q : Nat) : Calm s₀ (State.startHead s slab q) := by
  unfold State.startHead
  repeat' first
    | with_reducible assumption
    | with_reducible apply State.opportunity_calm
    | with_reducible apply State.opFault_calm
    | with_reducible apply State.withShare_calm
    | with_reducible apply State.modQueue_calm
    | (intro h; simp at h; done)
    | exact id
    | intro _
    | split
    | dsimp only
    | refine Calm.snd (by assumption) ?_
    | refine Calm.fst (by assumption) ?_
    | with_reducible rfl
    | simp
    | omega

theorem State.carry_calm {s₀ s : State} (k : Calm s₀ s) (slab : Nat) (o : OpE) (g : Group) : Calm s₀ (State.carry s slab o g) := by
  unfold State.carry
  repeat' first
    | with_reducible assumption
    | with_reducible apply calm_setSlabs
    | (intro h; simp at h; done)
    | exact id
    | intro _
    | split
    | dsimp only
    | with_reducible rfl
    | simp
    | omega

theorem fireColl_calm {s₀ s : State} (k : Calm s₀ s) (op : Nat) (slab : Nat) : Calm s₀ (fireColl op slab s) := by
  unfold fireColl
  repeat' first
    | with_reducible assumption
    | with_reducible apply State.fire_calm
    | with_reducible apply State.modQueue_calm
    | with_reducible apply State.startHead_calm
    | with_reducible apply State.carry_calm
    | (intro h; simp at h; done)
    | exact id
    | intro _
    | split
    | dsimp only
    | refine Calm.snd (by assumption) ?_
    | refine Calm.fst (by assumption) ?_
    | with_reducible rfl
    | simp
    | omega

theorem State.spoilRing_calm {s₀ s : State} (k : Calm s₀ s) (slab : Nat) (o : OpE) (g : Group) : Calm s₀ (State.spoilRing s slab o g) := by
  unfold State.spoilRing
  repeat' first
    | with_reducible assumption
    | with_reducible apply State.draw_calm
    | with_reducible apply State.opWrite_calm
    | (intro h; simp at h; done)
    | exact id
    | intro _
    | split
    | dsimp only
    | refine Calm.snd (by assumption) ?_
    | refine Calm.fst (by assumption) ?_
    | with_reducible rfl
    | simp
    | omega

theorem State.memberWrite_calm {s₀ s : State} (k : Calm s₀ s) (m : Member) (bs : List Byte) : Calm s₀ (State.memberWrite s m bs) := by
  unfold State.memberWrite
  repeat' first
    | with_reducible assumption
    | with_reducible apply State.opWrite_calm
    | (intro h; simp at h; done)
    | exact id
    | intro _
    | split
    | dsimp only
    | with_reducible rfl
    | simp
    | omega

theorem State.reduceMeet_calm {s₀ s : State} (k : Calm s₀ s) (ms : List Member) (srcs : List (List Byte)) : Calm s₀ (State.reduceMeet s ms srcs) := by
  unfold State.reduceMeet
  repeat' first
    | with_reducible assumption
    | with_reducible apply State.mark_calm
    | with_reducible apply State.memberWrite_calm
    | with_reducible refine Calm.foldl _ (fun _ _ _ => ?_) _ ?_
    | with_reducible refine Calm.foldlFst _ (fun _ _ _ => ?_) _ ?_
    | (intro h; simp at h; done)
    | exact id
    | intro _
    | split
    | dsimp only
    | refine Calm.snd (by assumption) ?_
    | refine Calm.fst (by assumption) ?_
    | with_reducible rfl
    | simp
    | omega

theorem State.placeMeet_calm {s₀ s : State} (k : Calm s₀ s) (ms : List Member) (srcs : List (List Byte)) : Calm s₀ (State.placeMeet s ms srcs) := by
  unfold State.placeMeet
  repeat' first
    | with_reducible assumption
    | with_reducible apply State.memberWrite_calm
    | with_reducible refine Calm.foldl _ (fun _ _ _ => ?_) _ ?_
    | with_reducible refine Calm.foldlFst _ (fun _ _ _ => ?_) _ ?_
    | (intro h; simp at h; done)
    | exact id
    | intro _
    | split
    | dsimp only
    | refine Calm.snd (by assumption) ?_
    | refine Calm.fst (by assumption) ?_
    | with_reducible rfl
    | simp
    | omega

theorem State.readSources_calm {s₀ s : State} (k : Calm s₀ s) (n : Nat) (l : List (Member × Nat)) :
    Calm s₀ (s.readSources n l).1 := by
  induction l generalizing s with
  | nil => exact k
  | cons a t ih =>
    obtain ⟨m, rank⟩ := a
    unfold State.readSources
    split
    · rename_i e; exact Calm.fst e (State.eccShare_calm k ..)
    · rename_i e; exact ih (Calm.fst e (State.eccShare_calm k ..))

theorem State.meetData_calm {s₀ s : State} (k : Calm s₀ s) (g : Group) (ms : List Member) : Calm s₀ (State.meetData s g ms) := by
  unfold State.meetData
  repeat' first
    | with_reducible assumption
    | with_reducible apply State.contextFault_calm
    | with_reducible apply State.modQueue_calm
    | with_reducible apply State.spoilRing_calm
    | with_reducible apply State.reduceMeet_calm
    | with_reducible apply State.placeMeet_calm
    | with_reducible apply State.readSources_calm
    | with_reducible refine Calm.foldl _ (fun _ _ _ => ?_) _ ?_
    | with_reducible refine Calm.foldlFst _ (fun _ _ _ => ?_) _ ?_
    | (intro h; simp at h; done)
    | exact id
    | intro _
    | split
    | dsimp only
    | refine Calm.snd (by assumption) ?_
    | refine Calm.fst (by assumption) ?_
    | with_reducible rfl
    | simp
    | omega

theorem State.order_calm {s₀ s : State} (k : Calm s₀ s) (ms : List Member) : Calm s₀ (State.order s ms) := by
  unfold State.order
  repeat' first
    | with_reducible assumption
    | with_reducible apply calm_modSlab
    | with_reducible refine Calm.foldl _ (fun _ _ _ => ?_) _ ?_
    | with_reducible refine Calm.foldlFst _ (fun _ _ _ => ?_) _ ?_
    | (intro h; simp at h; done)
    | exact id
    | intro _
    | split
    | dsimp only
    | with_reducible rfl
    | simp
    | omega

theorem collectiveMeet_calm {s₀ s : State} (k : Calm s₀ s) (part : Nat) (ctx : Nat) (lidx : Nat) : Calm s₀ (collectiveMeet part ctx lidx s) := by
  unfold collectiveMeet
  repeat' first
    | with_reducible assumption
    | with_reducible apply State.contextFault_calm
    | with_reducible apply State.modQueue_calm
    | with_reducible apply State.meetData_calm
    | with_reducible apply State.order_calm
    | with_reducible refine Calm.foldl _ (fun _ _ _ => ?_) _ ?_
    | with_reducible refine Calm.foldlFst _ (fun _ _ _ => ?_) _ ?_
    | (intro h; simp at h; done)
    | exact id
    | intro _
    | split
    | dsimp only
    | refine Calm.snd (by assumption) ?_
    | refine Calm.fst (by assumption) ?_
    | with_reducible rfl
    | simp
    | omega

theorem State.emitUnits_calm {s₀ s : State} (k : Calm s₀ s) (slab q : Nat) (o : OpE) (n : Nat) :
    Calm s₀ (s.emitUnits slab q o n) := by
  induction n generalizing s with
  | zero => exact k
  | succ n ih =>
    unfold State.emitUnits
    split
    · exact k
    · split
      · exact ih (State.emitToken_calm (State.modQueue_calm k ..) ..)
      · exact k

theorem gatherUnitArrive_calm {s₀ s : State} (k : Calm s₀ s) (slab : Nat) (queue : Nat) (unit : Nat) : Calm s₀ (gatherUnitArrive slab queue unit s) := by
  unfold gatherUnitArrive
  repeat' first
    | with_reducible assumption
    | with_reducible apply State.contextFault_calm
    | with_reducible apply State.eccShare_calm
    | with_reducible apply State.opWrite_calm
    | with_reducible apply State.modQueue_calm
    | with_reducible apply State.emitUnits_calm
    | (intro h; simp at h; done)
    | exact id
    | intro _
    | split
    | dsimp only
    | refine Calm.snd (by assumption) ?_
    | refine Calm.fst (by assumption) ?_
    | with_reducible rfl
    | simp
    | omega

theorem collWatchdogExpire_calm {s₀ s : State} (k : Calm s₀ s) (slab : Nat) (queue : Nat) : Calm s₀ (collWatchdogExpire slab queue s) := by
  unfold collWatchdogExpire
  repeat' first
    | with_reducible assumption
    | with_reducible apply State.contextFault_calm
    | (intro h; simp at h; done)
    | exact id
    | intro _
    | split
    | dsimp only
    | refine Calm.snd (by assumption) ?_
    | refine Calm.fst (by assumption) ?_
    | with_reducible rfl
    | simp
    | omega

theorem State.collEnd_calm {s₀ s : State} (k : Calm s₀ s) (slab : Nat) (o : OpE) : Calm s₀ (State.collEnd s slab o) := by
  unfold State.collEnd
  repeat' first
    | with_reducible assumption
    | with_reducible apply State.emitToken_calm
    | with_reducible apply State.retire_calm
    | with_reducible apply State.land_calm
    | with_reducible apply State.modQueue_calm
    | with_reducible apply State.startHead_calm
    | with_reducible apply State.spoilRing_calm
    | (intro h; simp at h; done)
    | exact id
    | intro _
    | split
    | dsimp only
    | refine Calm.snd (by assumption) ?_
    | refine Calm.fst (by assumption) ?_
    | with_reducible rfl
    | simp
    | omega

theorem State.arriveEnded_calm {s₀ s : State} (k : Calm s₀ s) (slab : Nat) (o : OpE) : Calm s₀ (State.arriveEnded s slab o) := by
  unfold State.arriveEnded
  repeat' first
    | with_reducible assumption
    | with_reducible apply State.modQueue_calm
    | (intro h; simp at h; done)
    | exact id
    | intro _
    | split
    | dsimp only
    | refine Calm.snd (by assumption) ?_
    | refine Calm.fst (by assumption) ?_
    | with_reducible rfl
    | simp
    | omega

theorem opEnd_calm {s₀ s : State} (k : Calm s₀ s) (slab : Nat) (unit : Nat) (idx : Nat) : Calm s₀ (opEnd slab unit idx s) := by
  unfold opEnd
  repeat' first
    | with_reducible assumption
    | with_reducible apply State.emitToken_calm
    | with_reducible apply State.retire_calm
    | with_reducible apply State.collEnd_calm
    | with_reducible apply State.arriveEnded_calm
    | (intro h; simp at h; done)
    | exact id
    | intro _
    | split
    | dsimp only
    | refine Calm.snd (by assumption) ?_
    | refine Calm.fst (by assumption) ?_
    | with_reducible rfl
    | simp
    | omega

end Sys2Proof.Machine
end

