-- ==== Sys2Proof/Laws/CalmModule.lean ====
section
/-! SUPPORT. Laws/CalmModule.lean: the frame of Laws/Calm.lean for Geode, power, start-up, Talus commands, the mailbox. -/

set_option linter.all false

namespace Sys2Proof.Machine

theorem attest_calm {s₀ s : State} (k : Calm s₀ s) (f : Flight) : Calm s₀ (attest s f) := by
  unfold attest
  repeat' first
    | with_reducible assumption
    | with_reducible apply State.entropyDraw_calm
    | with_reducible apply State.failCmd_calm
    | with_reducible apply State.okCmd_calm
    | with_reducible apply calm_modPart
    | (intro h; simp at h; done)
    | exact id
    | intro _
    | split
    | dsimp only
    | refine Calm.snd (by assumption) ?_
    | refine Calm.fst (by assumption) ?_
    | with_reducible rfl
    | simp
    | omega

theorem State.rekey_calm {s₀ s : State} (k : Calm s₀ s) (p : Nat) (new : Nat) : Calm s₀ (State.rekey s p new) := by
  unfold State.rekey
  repeat' first
    | with_reducible assumption
    | with_reducible apply State.scrambleCodec_calm
    | with_reducible apply calm_setFree
    | with_reducible apply calm_modPart
    | (intro h; simp at h; done)
    | exact id
    | intro _
    | split
    | dsimp only
    | with_reducible rfl
    | simp
    | omega

theorem State.sessionReady_calm {s₀ s : State} (k : Calm s₀ s) (f : Flight) : Calm s₀ (State.sessionReady s f) := by
  unfold State.sessionReady
  repeat' first
    | with_reducible assumption
    | with_reducible apply State.entropyDraw_calm
    | with_reducible apply State.rekey_calm
    | with_reducible apply calm_modFlight
    | (intro h; simp at h; done)
    | exact id
    | intro _
    | split
    | dsimp only
    | refine Calm.snd (by assumption) ?_
    | refine Calm.fst (by assumption) ?_
    | with_reducible rfl
    | simp
    | omega

theorem sessionOpen_calm {s₀ s : State} (k : Calm s₀ s) (f : Flight) : Calm s₀ (sessionOpen s f) := by
  unfold sessionOpen
  repeat' first
    | with_reducible assumption
    | with_reducible apply State.newHandle_calm
    | with_reducible apply State.failCmd_calm
    | with_reducible apply State.hostIn_calm
    | with_reducible apply State.closeWindow_calm
    | with_reducible apply State.sessionReady_calm
    | with_reducible apply calm_modPart
    | with_reducible apply calm_modFlight
    | (intro h; simp at h; done)
    | exact id
    | intro _
    | split
    | dsimp only
    | refine Calm.snd (by assumption) ?_
    | refine Calm.fst (by assumption) ?_
    | with_reducible rfl
    | simp
    | omega

theorem State.endSession_calm {s₀ s : State} (k : Calm s₀ s) (p : Nat) : Calm s₀ (s.endSession p) := by
  have h : Calm s₀ ((s.teardownAll p).setCodec ((s.teardownAll p).codec.closePart p)) :=
    calm_setCodec (State.teardownAll_calm k p) _ (by simp)
  unfold State.endSession
  dsimp only
  refine State.dropBad_calm ?_ _
  refine calm_modPart ?_ _ _
  exact State.entropyDraw_calm h

theorem sessionClose_calm {s₀ s : State} (k : Calm s₀ s) (f : Flight) : Calm s₀ (sessionClose s f) := by
  unfold sessionClose
  split
  · exact State.failCmd_calm k ..
  · exact calm_modFlight (State.okCmd_calm (State.endSession_calm (State.abortPart_calm k _ _) _) ..) _ _

theorem signerAdd_calm {s₀ s : State} (k : Calm s₀ s) (f : Flight) : Calm s₀ (signerAdd s f) := by
  unfold signerAdd
  repeat' first
    | with_reducible assumption
    | with_reducible apply State.failCmd_calm
    | with_reducible apply State.okCmd_calm
    | with_reducible apply State.hostIn_calm
    | with_reducible apply calm_modPart
    | (intro h; simp at h; done)
    | exact id
    | intro _
    | split
    | dsimp only
    | refine Calm.snd (by assumption) ?_
    | refine Calm.fst (by assumption) ?_
    | with_reducible rfl
    | simp
    | omega

theorem signerRemove_calm {s₀ s : State} (k : Calm s₀ s) (f : Flight) : Calm s₀ (signerRemove s f) := by
  unfold signerRemove
  repeat' first
    | with_reducible assumption
    | with_reducible apply State.failCmd_calm
    | with_reducible apply State.okCmd_calm
    | with_reducible apply calm_modPart
    | (intro h; simp at h; done)
    | exact id
    | intro _
    | split
    | dsimp only
    | with_reducible rfl
    | simp
    | omega

theorem State.debugFails_calm {s₀ s : State} (k : Calm s₀ s) (f : Flight) (c : St) : Calm s₀ (State.debugFails s f c) := by
  unfold State.debugFails
  repeat' first
    | with_reducible assumption
    | with_reducible apply State.entropyDraw_calm
    | with_reducible apply State.failCmd_calm
    | with_reducible apply calm_setGeode
    | (intro h; simp at h; done)
    | exact id
    | intro _
    | split
    | dsimp only
    | refine Calm.snd (by assumption) ?_
    | refine Calm.fst (by assumption) ?_
    | with_reducible rfl
    | simp
    | omega

theorem State.openDebug_calm {s₀ s : State} (k : Calm s₀ s) (scope : Nat) : Calm s₀ (State.openDebug s scope) := by
  unfold State.openDebug
  repeat' first
    | with_reducible assumption
    | with_reducible apply State.entropyDraw_calm
    | with_reducible apply calm_setPort
    | with_reducible apply calm_setGeode
    | (intro h; simp at h; done)
    | exact id
    | intro _
    | split
    | dsimp only
    | refine Calm.snd (by assumption) ?_
    | refine Calm.fst (by assumption) ?_
    | with_reducible rfl
    | simp
    | omega

theorem debugUnlock_calm {s₀ s : State} (k : Calm s₀ s) (f : Flight) : Calm s₀ (debugUnlock s f) := by
  unfold debugUnlock
  split
  · rename_i e
    exact State.debugFails_calm (Calm.fst e (by split; exacts [State.hostIn_calm k .., k])) ..
  · rename_i s1 t e
    have k1 : Calm s₀ s1 := Calm.fst e (by split; exacts [State.hostIn_calm k .., k])
    split
    · exact State.debugFails_calm k1 ..
    · have h1 := Calm.foldl (r := s₀) (fun (s : State) i => if (s.part (i + 1)).live then s.destroyPart (i + 1) f.seq else s)
        (fun b a hb => by
          split
          · exact State.destroyPart_calm hb ..
          · exact hb) (List.range 15) k1
      exact State.okCmd_calm (State.openDebug_calm (calm_modPart (State.rekey_calm h1 ..) ..) ..) ..

theorem geoSvnCommitWrite_calm {s₀ s : State} (k : Calm s₀ s) (v : Word) : Calm s₀ (geoSvnCommitWrite v s) := by
  unfold geoSvnCommitWrite
  repeat' first
    | with_reducible assumption
    | with_reducible apply calm_setHub
    | (intro h; simp at h; done)
    | exact id
    | intro _
    | split
    | dsimp only
    | with_reducible rfl
    | simp
    | omega

theorem entropyHealthFail_calm {s₀ s : State} (k : Calm s₀ s) : Calm s₀ (entropyHealthFail s) := by
  unfold entropyHealthFail
  repeat' first
    | with_reducible assumption
    | with_reducible apply State.opportunity_calm
    | with_reducible apply State.stopModule_calm
    | with_reducible apply calm_setGeode
    | (intro h; simp at h; done)
    | exact id
    | intro _
    | split
    | dsimp only
    | refine Calm.snd (by assumption) ?_
    | refine Calm.fst (by assumption) ?_
    | with_reducible rfl
    | simp
    | omega

@[simp] theorem PowerMgr.junction_domains (p : PowerMgr) (u temp now : Nat) :
    (p.junction u temp now).domains = p.domains := by
  unfold PowerMgr.junction; simp only []; repeat' split
  all_goals rfl

theorem State.passes_calm {s₀ s : State} (k : Calm s₀ s) (pin : Nat) (ns : Nat) : Calm s₀ (State.passes s pin ns).2 := by
  unfold State.passes
  repeat' first
    | with_reducible assumption
    | with_reducible apply State.draw_calm
    | (intro h; simp at h; done)
    | exact id
    | intro _
    | split
    | dsimp only
    | refine Calm.snd (by assumption) ?_
    | refine Calm.fst (by assumption) ?_
    | with_reducible rfl
    | simp
    | omega

theorem State.loseHub_calm {s₀ s : State} (k : Calm s₀ s) : Calm s₀ (State.loseHub s) := by
  unfold State.loseHub
  repeat' first
    | with_reducible assumption
    | with_reducible apply calm_setHub
    | with_reducible apply calm_setTalus
    | (intro h; simp at h; done)
    | exact id
    | intro _
    | split
    | dsimp only
    | with_reducible rfl
    | simp
    | omega

theorem State.backToWaiting_calm {s₀ s : State} (k : Calm s₀ s) : Calm s₀ (State.backToWaiting s) := by
  unfold State.backToWaiting
  repeat' first
    | with_reducible assumption
    | with_reducible apply calm_setHub
    | (intro h; simp at h; done)
    | exact id
    | intro _
    | split
    | dsimp only
    | with_reducible rfl
    | simp
    | omega

theorem vinExcursion_calm {s₀ s : State} (k : Calm s₀ s) (mv : Nat) : Calm s₀ (vinExcursion mv s) := by
  unfold vinExcursion
  repeat' first
    | with_reducible assumption
    | with_reducible apply State.backToWaiting_calm
    | with_reducible apply calm_setPower
    | (intro h; simp at h; done)
    | exact id
    | intro _
    | split
    | dsimp only
    | with_reducible rfl
    | simp
    | omega

theorem vinDebounceExpire_calm {s₀ s : State} (k : Calm s₀ s) : Calm s₀ (vinDebounceExpire s) := by
  unfold vinDebounceExpire
  repeat' first
    | with_reducible assumption
    | with_reducible apply State.stopModule_calm
    | with_reducible apply State.loseHub_calm
    | with_reducible apply State.backToWaiting_calm
    | (intro h; simp at h; done)
    | exact id
    | intro _
    | split
    | dsimp only
    | refine Calm.snd (by assumption) ?_
    | refine Calm.fst (by assumption) ?_
    | with_reducible rfl
    | simp
    | omega

theorem State.pwrGoodFalls_calm {s₀ s : State} (k : Calm s₀ s) (inj : Bool) : Calm s₀ (State.pwrGoodFalls s inj) := by
  unfold State.pwrGoodFalls
  repeat' first
    | with_reducible assumption
    | with_reducible apply State.stopModule_calm
    | with_reducible apply State.backToWaiting_calm
    | with_reducible apply calm_setHub
    | (intro h; simp at h; done)
    | exact id
    | intro _
    | split
    | dsimp only
    | with_reducible rfl
    | simp
    | omega

theorem pwrGoodInDeassert_calm {s₀ s : State} (k : Calm s₀ s) (ns : Nat) : Calm s₀ (pwrGoodInDeassert ns s) := by
  unfold pwrGoodInDeassert
  repeat' first
    | with_reducible assumption
    | with_reducible apply State.passes_calm
    | with_reducible apply State.pwrGoodFalls_calm
    | (intro h; simp at h; done)
    | exact id
    | intro _
    | split
    | dsimp only
    | refine Calm.snd (by assumption) ?_
    | refine Calm.fst (by assumption) ?_
    | with_reducible rfl
    | simp
    | omega

theorem State.loseMemories_calm {s₀ s : State} (k : Calm s₀ s) : Calm s₀ (State.loseMemories s) := by
  unfold State.loseMemories
  repeat' first
    | with_reducible assumption
    | with_reducible apply calm_setParts
    | with_reducible apply calm_setSlabs
    | (intro h; simp at h; done)
    | exact id
    | intro _
    | split
    | dsimp only
    | with_reducible rfl
    | simp
    | omega

theorem supplyShutdown_calm {s₀ s : State} (k : Calm s₀ s) : Calm s₀ (supplyShutdown s) := by
  unfold supplyShutdown
  repeat' first
    | with_reducible assumption
    | with_reducible apply State.loseHub_calm
    | with_reducible apply State.backToWaiting_calm
    | with_reducible apply State.loseMemories_calm
    | with_reducible apply calm_setHub
    | (intro h; simp at h; done)
    | exact id
    | intro _
    | split
    | dsimp only
    | refine Calm.snd (by assumption) ?_
    | refine Calm.fst (by assumption) ?_
    | with_reducible rfl
    | simp
    | omega

theorem stackTempReading_calm {s₀ s : State} (k : Calm s₀ s) (k : Nat) (temp : Nat) : Calm s₀ (stackTempReading k temp s) := by
  unfold stackTempReading
  repeat' first
    | with_reducible assumption
    | with_reducible apply State.opportunity_calm
    | with_reducible apply State.moduleEvent_calm
    | with_reducible apply State.stopModule_calm
    | with_reducible apply calm_modSlab
    | (intro h; simp at h; done)
    | exact id
    | intro _
    | split
    | dsimp only
    | refine Calm.snd (by assumption) ?_
    | refine Calm.fst (by assumption) ?_
    | with_reducible rfl
    | simp
    | omega

theorem State.powerLimitEvent_calm {s₀ s : State} (k : Calm s₀ s) (therm : Bool) (inj : Bool) : Calm s₀ (State.powerLimitEvent s therm inj) := by
  unfold State.powerLimitEvent
  repeat' first
    | with_reducible assumption
    | with_reducible apply State.draw_calm
    | with_reducible apply State.moduleEvent_calm
    | (intro h; simp at h; done)
    | exact id
    | intro _
    | split
    | dsimp only
    | refine Calm.snd (by assumption) ?_
    | refine Calm.fst (by assumption) ?_
    | with_reducible rfl
    | simp
    | omega

theorem drawLimitReached_calm {s₀ s : State} (k : Calm s₀ s) (watts : Nat) (mask : Nat) : Calm s₀ (drawLimitReached watts mask s) := by
  unfold drawLimitReached
  repeat' first
    | with_reducible assumption
    | with_reducible apply State.draw_calm
    | with_reducible apply State.opportunity_calm
    | with_reducible apply State.powerLimitEvent_calm
    | with_reducible apply calm_setPower
    | (intro h; simp at h; done)
    | exact id
    | intro _
    | split
    | dsimp only
    | refine Calm.snd (by assumption) ?_
    | refine Calm.fst (by assumption) ?_
    | with_reducible rfl
    | simp
    | omega

theorem powerLimitEpisodeEnd_calm {s₀ s : State} (k : Calm s₀ s) (watts : Nat) : Calm s₀ (powerLimitEpisodeEnd watts s) := by
  unfold powerLimitEpisodeEnd
  repeat' first
    | with_reducible assumption
    | with_reducible apply State.draw_calm
    | with_reducible apply calm_setPower
    | (intro h; simp at h; done)
    | exact id
    | intro _
    | split
    | dsimp only
    | refine Calm.snd (by assumption) ?_
    | refine Calm.fst (by assumption) ?_
    | with_reducible rfl
    | simp
    | omega

theorem junctionTempReading_calm {s₀ s : State} (k : Calm s₀ s) (u : Nat) (temp : Nat) : Calm s₀ (junctionTempReading u temp s) := by
  unfold junctionTempReading
  repeat' first
    | with_reducible assumption
    | with_reducible apply State.opportunity_calm
    | with_reducible apply State.stopModule_calm
    | with_reducible apply State.powerLimitEvent_calm
    | with_reducible apply calm_setPower
    | (intro h; simp at h; done)
    | exact id
    | intro _
    | split
    | dsimp only
    | refine Calm.snd (by assumption) ?_
    | refine Calm.fst (by assumption) ?_
    | with_reducible rfl
    | simp
    | omega

theorem State.modDomain_calm {s₀ s : State} (k : Calm s₀ s) (d : Nat) (g : Domain → Domain) : Calm s₀ (State.modDomain s d g) := by
  unfold State.modDomain
  repeat' first
    | with_reducible assumption
    | with_reducible apply calm_setPower
    | (intro h; simp at h; done)
    | exact id
    | intro _
    | split
    | dsimp only
    | with_reducible rfl
    | simp
    | omega

theorem State.calStale_calm {s₀ s : State} (k : Calm s₀ s) (d : Nat) (failed : Bool) (inj : Bool) : Calm s₀ (State.calStale s d failed inj) := by
  unfold State.calStale
  repeat' first
    | with_reducible assumption
    | with_reducible apply State.moduleEvent_calm
    | (intro h; simp at h; done)
    | exact id
    | intro _
    | split
    | dsimp only
    | with_reducible rfl
    | simp
    | omega

theorem calLoadSample_calm {s₀ s : State} (k : Calm s₀ s) (d : Nat) (load : Nat) : Calm s₀ (calLoadSample d load s) := by
  unfold calLoadSample
  repeat' first
    | with_reducible assumption
    | with_reducible apply State.opportunity_calm
    | with_reducible apply State.modDomain_calm
    | with_reducible apply State.calStale_calm
    | (intro h; simp at h; done)
    | exact id
    | intro _
    | split
    | dsimp only
    | refine Calm.snd (by assumption) ?_
    | refine Calm.fst (by assumption) ?_
    | with_reducible rfl
    | simp
    | omega

theorem recalStart_calm {s₀ s : State} (k : Calm s₀ s) (d : Nat) : Calm s₀ (recalStart d s) := by
  unfold recalStart
  repeat' first
    | with_reducible assumption
    | with_reducible apply State.modDomain_calm
    | (intro h; simp at h; done)
    | exact id
    | intro _
    | split
    | dsimp only
    | with_reducible rfl
    | simp
    | omega

theorem recalEnd_calm {s₀ s : State} (k : Calm s₀ s) (d : Nat) (valid : Bool) : Calm s₀ (recalEnd d valid s) := by
  unfold recalEnd
  repeat' first
    | with_reducible assumption
    | with_reducible apply State.modDomain_calm
    | with_reducible apply State.calStale_calm
    | (intro h; simp at h; done)
    | exact id
    | intro _
    | split
    | dsimp only
    | refine Calm.snd (by assumption) ?_
    | refine Calm.fst (by assumption) ?_
    | with_reducible rfl
    | simp
    | omega

theorem State.wake_calm {s₀ s : State} (k : Calm s₀ s) : Calm s₀ (State.wake s) := by
  unfold State.wake
  repeat' first
    | with_reducible assumption
    | with_reducible apply calm_setHub
    | (intro h; simp at h; done)
    | exact id
    | intro _
    | split
    | dsimp only
    | with_reducible rfl
    | simp
    | omega

theorem restEntryEnd_calm {s₀ s : State} (k : Calm s₀ s) : Calm s₀ (restEntryEnd s) := by
  unfold restEntryEnd
  repeat' first
    | with_reducible assumption
    | with_reducible apply calm_setHub
    | with_reducible apply calm_setPower
    | (intro h; simp at h; done)
    | exact id
    | intro _
    | split
    | dsimp only
    | with_reducible rfl
    | simp
    | omega

theorem wakePin_calm {s₀ s : State} (k : Calm s₀ s) (ns : Nat) : Calm s₀ (wakePin ns s) := by
  unfold wakePin
  repeat' first
    | with_reducible assumption
    | with_reducible apply State.passes_calm
    | with_reducible apply State.wake_calm
    | (intro h; simp at h; done)
    | exact id
    | intro _
    | split
    | dsimp only
    | refine Calm.snd (by assumption) ?_
    | refine Calm.fst (by assumption) ?_
    | with_reducible rfl
    | simp
    | omega

theorem pwrWakeWrite_calm {s₀ s : State} (k : Calm s₀ s) (v : Word) : Calm s₀ (pwrWakeWrite v s) := by
  unfold pwrWakeWrite
  repeat' first
    | with_reducible assumption
    | with_reducible apply State.wake_calm
    | (intro h; simp at h; done)
    | exact id
    | intro _
    | split
    | dsimp only
    | with_reducible rfl
    | simp
    | omega

theorem State.resetUnits_keep {s₀ s : State} (k : Keep s₀ s) (pw : Power) : Keep s₀ (s.resetUnits pw) :=
  k.trans ⟨rfl, rfl, rfl, by simp [State.resetUnits, Geode.reset], fun i => ⟨rfl, rfl, rfl, rfl, rfl, rfl, i.7⟩⟩

theorem State.modRst_keep {s₀ s : State} (k : Keep s₀ s) : Keep s₀ s.modRst := by
  unfold State.modRst
  have h : Keep s₀ (s.setHub { s.hub with pins := { s.hub.pins with modRst := true } }) :=
    k.andThen (calm_setHub (Calm.refl _) _ rfl rfl rfl (Nat.le_refl _) id)
  revert h
  generalize s.setHub { s.hub with pins := { s.hub.pins with modRst := true } } = s1
  intro h
  dsimp only
  split
  · exact h
  · refine State.resetUnits_keep ?_ _
    exact h.andThen (calm_setTalus (Calm.refl _) _ (by rfl))

theorem State.resetUnits_power (s : State) (pw : Power) : (s.resetUnits pw).hub.power = pw := by
  simp [State.resetUnits]

theorem State.modRst_down (s : State) : s.modRst.hub.power ≠ .up := by
  unfold State.modRst
  dsimp only
  split
  · rename_i h; rw [h]; decide
  · rw [State.resetUnits_power]; decide

theorem State.modRst_alive {s₀ s : State} (k : Alive s₀ s) : Alive s₀ s.modRst :=
  (State.modRst_keep k.toKeep).alive s.modRst_down

theorem State.resetUnits_alive {s₀ s : State} (k : Alive s₀ s) (pw : Power) (h : pw ≠ .up) : Alive s₀ (s.resetUnits pw) :=
  (State.resetUnits_keep k.toKeep pw).alive (by rw [State.resetUnits_power]; exact h)

theorem State.startDone_keep {s₀ s : State} (k : Keep s₀ s) (r : StepReport) : Keep s₀ (s.startDone r) := by
  unfold State.startDone State.entropyDraw
  refine k.trans ⟨?_, ?_, ?_, ?_, fun i => ⟨?_, ?_, ?_, ?_, ?_, ?_, ?_⟩⟩
  any_goals simp
  exacts [i.1, i.2, i.3, i.5, i.6, i.7]

theorem powerOn_alive {s₀ s : State} (k : Alive s₀ s) (mv straps : Nat) : Alive s₀ (powerOn mv straps s) := by
  unfold powerOn
  have h : Alive s₀ ((s.setPower { s.power with vin := mv, excursion := false }).setHub
      { s.hub with pins := { s.hub.pins with pwrGood := true } }) :=
    (k.andThen (calm_setPower (Calm.refl _) { s.power with vin := mv, excursion := false } (by rfl))).trans (Calm.alive
      (by exact calm_setHub (Calm.refl _) _ rfl rfl rfl (Nat.le_refl _) id))
  split
  · exact k
  · revert h
    generalize (s.setPower { s.power with vin := mv, excursion := false }).setHub
      { s.hub with pins := { s.hub.pins with pwrGood := true } } = s1
    intro h
    dsimp only
    split
    · exact h
    · refine State.resetUnits_alive (h.trans (Calm.alive ?_)) _ ?_
      · exact calm_setHub (Calm.refl _) _ rfl rfl rfl (Nat.le_refl _) id
      · split <;> decide

theorem modRstAssert_alive {s₀ s : State} (k : Alive s₀ s) (ns : Nat) : Alive s₀ (modRstAssert ns s) := by
  unfold modRstAssert
  repeat' first
    | with_reducible assumption
    | with_reducible refine Alive.andThen ?_ (State.passes_calm (Calm.refl _) ..)
    | with_reducible apply State.modRst_alive
    | (intro h; simp at h; done)
    | exact id
    | intro _
    | split
    | dsimp only
    | refine Alive.snd (by assumption) ?_
    | with_reducible rfl
    | simp
    | omega

theorem modRstRelease_calm {s₀ s : State} (k : Calm s₀ s) : Calm s₀ (modRstRelease s) := by
  unfold modRstRelease
  repeat' first
    | with_reducible assumption
    | with_reducible apply State.modRst_alive
    | with_reducible apply calm_setHub
    | (intro h; simp at h; done)
    | exact id
    | intro _
    | split
    | dsimp only
    | with_reducible rfl
    | simp
    | omega

theorem State.resetPartition_calm {s₀ s : State} (k : Calm s₀ s) (p : Nat) (keepHeld : Bool) : Calm s₀ (State.resetPartition s p keepHeld) := by
  unfold State.resetPartition
  repeat' first
    | with_reducible assumption
    | with_reducible apply State.teardownAll_calm
    | with_reducible apply regionUnmap_calm
    | with_reducible apply regionDestroy_calm
    | with_reducible apply State.unmapEnd_calm
    | with_reducible apply State.endSession_calm
    | with_reducible apply calm_setFlights
    | with_reducible apply calm_setCodec
    | with_reducible apply calm_modPart
    | with_reducible refine Calm.foldl _ (fun _ _ _ => ?_) _ ?_
    | with_reducible refine Calm.foldlFst _ (fun _ _ _ => ?_) _ ?_
    | (intro h; simp at h; done)
    | exact id
    | intro _
    | split
    | dsimp only
    | with_reducible rfl
    | simp
    | omega

theorem State.resetFunction_calm {s₀ s : State} (k : Calm s₀ s) (i : Nat) : Calm s₀ (State.resetFunction s i) := by
  unfold State.resetFunction
  repeat' first
    | with_reducible assumption
    | with_reducible apply calm_setTalus
    | with_reducible apply calm_modFn
    | (intro h; simp at h; done)
    | exact id
    | intro _
    | split
    | dsimp only
    | with_reducible rfl
    | simp
    | omega

theorem State.flrOne_calm {s₀ s : State} (k : Calm s₀ s) (i : Nat) (keepHeld : Bool) : Calm s₀ (State.flrOne s i keepHeld) := by
  unfold State.flrOne
  repeat' first
    | with_reducible assumption
    | with_reducible apply State.resetPartition_calm
    | with_reducible apply State.resetFunction_calm
    | (intro h; simp at h; done)
    | exact id
    | intro _
    | split
    | dsimp only
    | with_reducible rfl
    | simp
    | omega

theorem State.clearVfs_calm {s₀ s : State} (k : Calm s₀ s) : Calm s₀ (State.clearVfs s) := by
  unfold State.clearVfs
  repeat' first
    | with_reducible assumption
    | with_reducible apply State.flrOne_calm
    | with_reducible apply calm_setPort
    | with_reducible refine Calm.foldl _ (fun _ _ _ => ?_) _ ?_
    | with_reducible refine Calm.foldlFst _ (fun _ _ _ => ?_) _ ?_
    | (intro h; simp at h; done)
    | exact id
    | intro _
    | split
    | dsimp only
    | with_reducible rfl
    | simp
    | omega

theorem functionLevelReset_calm {s₀ s : State} (k : Calm s₀ s) (i : Nat) : Calm s₀ (functionLevelReset i s) := by
  unfold functionLevelReset
  repeat' first
    | with_reducible assumption
    | with_reducible apply State.wake_calm
    | with_reducible apply State.flrOne_calm
    | with_reducible apply State.clearVfs_calm
    | (intro h; simp at h; done)
    | exact id
    | intro _
    | split
    | dsimp only
    | with_reducible rfl
    | simp
    | omega

theorem vfEnableClear_calm {s₀ s : State} (k : Calm s₀ s) : Calm s₀ (vfEnableClear s) := by
  unfold vfEnableClear
  repeat' first
    | with_reducible assumption
    | with_reducible apply State.clearVfs_calm
    | (intro h; simp at h; done)
    | exact id
    | intro _
    | split
    | dsimp only
    | with_reducible rfl
    | simp
    | omega

theorem vfEnableSet_calm {s₀ s : State} (k : Calm s₀ s) (num : Nat) : Calm s₀ (vfEnableSet num s) := by
  unfold vfEnableSet
  repeat' first
    | with_reducible assumption
    | with_reducible apply calm_setPort
    | (intro h; simp at h; done)
    | exact id
    | intro _
    | split
    | dsimp only
    | with_reducible rfl
    | simp
    | omega

theorem State.hostPortReset_calm {s₀ s : State} (k : Calm s₀ s) : Calm s₀ (State.hostPortReset s) := by
  unfold State.hostPortReset
  repeat' first
    | with_reducible assumption
    | with_reducible apply State.wake_calm
    | with_reducible apply State.flrOne_calm
    | with_reducible apply calm_setPort
    | with_reducible refine Calm.foldl _ (fun _ _ _ => ?_) _ ?_
    | with_reducible refine Calm.foldlFst _ (fun _ _ _ => ?_) _ ?_
    | (intro h; simp at h; done)
    | exact id
    | intro _
    | split
    | dsimp only
    | with_reducible rfl
    | simp
    | omega

theorem State.perst_calm {s₀ s : State} (k : Calm s₀ s) : Calm s₀ (State.perst s) := by
  unfold State.perst
  repeat' first
    | with_reducible assumption
    | with_reducible apply State.hostPortReset_calm
    | with_reducible apply calm_setHub
    | (intro h; simp at h; done)
    | exact id
    | intro _
    | split
    | dsimp only
    | with_reducible rfl
    | simp
    | omega

theorem perstAssert_calm {s₀ s : State} (k : Calm s₀ s) (ns : Nat) : Calm s₀ (perstAssert ns s) := by
  unfold perstAssert
  repeat' first
    | with_reducible assumption
    | with_reducible apply State.passes_calm
    | with_reducible apply State.perst_calm
    | (intro h; simp at h; done)
    | exact id
    | intro _
    | split
    | dsimp only
    | refine Calm.snd (by assumption) ?_
    | refine Calm.fst (by assumption) ?_
    | with_reducible rfl
    | simp
    | omega

theorem perstRelease_calm {s₀ s : State} (k : Calm s₀ s) : Calm s₀ (perstRelease s) := by
  unfold perstRelease
  repeat' first
    | with_reducible assumption
    | with_reducible apply State.perst_calm
    | with_reducible apply calm_setHub
    | (intro h; simp at h; done)
    | exact id
    | intro _
    | split
    | dsimp only
    | with_reducible rfl
    | simp
    | omega

theorem State.startStop_calm {s₀ s : State} (k : Calm s₀ s) (code : St) (d1 : Nat) (inj : Bool) : Calm s₀ (State.startStop s code d1 inj) := by
  unfold State.startStop
  repeat' first
    | with_reducible assumption
    | with_reducible apply State.draw_calm
    | with_reducible apply State.stopModule_calm
    | with_reducible apply calm_setTalus
    | (intro h; simp at h; done)
    | exact id
    | intro _
    | split
    | dsimp only
    | refine Calm.snd (by assumption) ?_
    | refine Calm.fst (by assumption) ?_
    | with_reducible rfl
    | simp
    | omega

theorem State.nextStep_calm {s₀ s : State} (k : Calm s₀ s) : Calm s₀ (State.nextStep s) := by
  unfold State.nextStep
  repeat' first
    | with_reducible assumption
    | with_reducible apply calm_setHub
    | (intro h; simp at h; done)
    | exact id
    | intro _
    | split
    | dsimp only
    | with_reducible rfl
    | simp
    | omega

theorem State.stepBoot_calm {s₀ s : State} (k : Calm s₀ s) (r : StepReport) : Calm s₀ (State.stepBoot s r) := by
  unfold State.stepBoot
  repeat' first
    | with_reducible assumption
    | with_reducible apply State.startStop_calm
    | with_reducible apply State.nextStep_calm
    | with_reducible apply calm_setHub
    | with_reducible apply calm_setGeode
    | (intro h; simp at h; done)
    | exact id
    | intro _
    | split
    | dsimp only
    | refine Calm.snd (by assumption) ?_
    | refine Calm.fst (by assumption) ?_
    | with_reducible rfl
    | simp
    | omega

theorem State.stepHbm_calm {s₀ s : State} (k : Calm s₀ s) (r : StepReport) : Calm s₀ (State.stepHbm s r) := by
  unfold State.stepHbm
  repeat' first
    | with_reducible assumption
    | with_reducible apply State.nextStep_calm
    | with_reducible apply calm_setPort
    | with_reducible apply calm_setSlabs
    | with_reducible apply calm_setPower
    | (intro h; simp at h; done)
    | exact id
    | intro _
    | split
    | dsimp only
    | with_reducible rfl
    | simp
    | omega

theorem State.stepSelfTest_calm {s₀ s : State} (k : Calm s₀ s) : Calm s₀ (State.stepSelfTest s) := by
  unfold State.stepSelfTest
  repeat' first
    | with_reducible assumption
    | with_reducible apply State.nextStep_calm
    | with_reducible apply calm_setSlabs
    | (intro h; simp at h; done)
    | exact id
    | intro _
    | split
    | dsimp only
    | with_reducible rfl
    | simp
    | omega

theorem State.stepFabric_calm {s₀ s : State} (k : Calm s₀ s) (r : StepReport) : Calm s₀ (State.stepFabric s r) := by
  unfold State.stepFabric
  repeat' first
    | with_reducible assumption
    | with_reducible apply State.nextStep_calm
    | with_reducible apply calm_setSlabs
    | (intro h; simp at h; done)
    | exact id
    | intro _
    | split
    | dsimp only
    | with_reducible rfl
    | simp
    | omega

theorem startupStepEnd_keep {s₀ s : State} (k : Keep s₀ s) (r : StepReport) : Keep s₀ (startupStepEnd r s) := by
  unfold startupStepEnd
  split
  · exact k
  · split
    · exact k.andThen (State.startStop_calm (Calm.refl _) ..)
    · split
      · exact k.andThen (State.nextStep_calm (Calm.refl _) ..)
      · exact k.andThen (State.stepBoot_calm (Calm.refl _) ..)
      · exact k.andThen (State.stepHbm_calm (Calm.refl _) ..)
      · exact k.andThen (State.stepSelfTest_calm (Calm.refl _) ..)
      · exact k.andThen (State.stepFabric_calm (Calm.refl _) ..)
      · exact State.startDone_keep k r

theorem startupTimeout_calm {s₀ s : State} (k : Calm s₀ s) : Calm s₀ (startupTimeout s) := by
  unfold startupTimeout
  repeat' first
    | with_reducible assumption
    | with_reducible apply State.draw_calm
    | with_reducible apply State.startStop_calm
    | (intro h; simp at h; done)
    | exact id
    | intro _
    | split
    | dsimp only
    | refine Calm.snd (by assumption) ?_
    | refine Calm.fst (by assumption) ?_
    | with_reducible rfl
    | simp
    | omega

theorem hsTimeout_calm {s₀ s : State} (k : Calm s₀ s) (src : Nat) (initiator : Nat) (d1 : Nat) : Calm s₀ (hsTimeout src initiator d1 s) := by
  unfold hsTimeout
  repeat' first
    | with_reducible assumption
    | with_reducible apply State.opportunity_calm
    | with_reducible apply State.stopModule_calm
    | (intro h; simp at h; done)
    | exact id
    | intro _
    | split
    | dsimp only
    | refine Calm.snd (by assumption) ?_
    | refine Calm.fst (by assumption) ?_
    | with_reducible rfl
    | simp
    | omega

@[simp] theorem Talus.ack_rings (t : Talus) (v : Nat) (c : St) : (t.ack v c).rings = t.rings := rfl

@[simp] theorem Talus.ackIn_rings (t : Talus) (views : List Nat) (code : Nat) : (t.ackIn views code).rings = t.rings := by
  unfold Talus.ackIn
  split
  · rfl
  · rename_i a _
    clear * -
    induction views generalizing t with
    | nil => rfl
    | cons v l ih => simp only [List.foldl_cons]; exact ih _

theorem State.ringSet_calm {s₀ s : State} (k : Calm s₀ s) (f : Flight) : Calm s₀ (State.ringSet s f) := by
  unfold State.ringSet
  repeat' first
    | with_reducible assumption
    | with_reducible apply State.flushDrops_calm
    | with_reducible apply State.failCmd_calm
    | with_reducible apply State.okCmd_calm
    | with_reducible apply calm_modRing
    | (intro h; simp at h; done)
    | exact id
    | intro _
    | split
    | dsimp only
    | with_reducible rfl
    | simp
    | omega

theorem State.alarmAck_calm {s₀ s : State} (k : Calm s₀ s) (f : Flight) : Calm s₀ (State.alarmAck s f) := by
  unfold State.alarmAck
  repeat' first
    | with_reducible assumption
    | with_reducible apply State.failCmd_calm
    | with_reducible apply State.okCmd_calm
    | with_reducible apply calm_setTalus
    | (intro h; simp at h; done)
    | exact id
    | intro _
    | split
    | dsimp only
    | with_reducible rfl
    | simp
    | omega

theorem talHeadWrite_calm {s₀ s : State} (k : Calm s₀ s) (fn : Nat) (ofModule : Bool) (v : Word) : Calm s₀ (talHeadWrite fn ofModule v s) := by
  unfold talHeadWrite
  repeat' first
    | with_reducible assumption
    | with_reducible apply State.flushDrops_calm
    | with_reducible apply calm_modRing
    | (intro h; simp at h; done)
    | exact id
    | intro _
    | split
    | dsimp only
    | with_reducible rfl
    | simp
    | omega

theorem coalesceWindowEnd_calm {s₀ s : State} (k : Calm s₀ s) (ring : Nat) (idx : Nat) : Calm s₀ (coalesceWindowEnd ring idx s) := by
  unfold coalesceWindowEnd
  repeat' first
    | with_reducible assumption
    | with_reducible apply State.deliver_calm
    | with_reducible apply calm_modRing
    | (intro h; simp at h; done)
    | exact id
    | intro _
    | split
    | dsimp only
    | refine Calm.snd (by assumption) ?_
    | refine Calm.fst (by assumption) ?_
    | with_reducible rfl
    | simp
    | omega

theorem evtDroppedRecord_calm {s₀ s : State} (k : Calm s₀ s) (ring : Nat) (cls : Nat) : Calm s₀ (evtDroppedRecord ring cls s) := by
  unfold evtDroppedRecord
  repeat' first
    | with_reducible assumption
    | with_reducible apply State.flushDrop_calm
    | (intro h; simp at h; done)
    | exact id
    | intro _
    | split
    | dsimp only
    | refine Calm.snd (by assumption) ?_
    | refine Calm.fst (by assumption) ?_
    | with_reducible rfl
    | simp
    | omega

theorem alarmConditionEnd_calm {s₀ s : State} (k : Calm s₀ s) (idx : Nat) : Calm s₀ (alarmConditionEnd idx s) := by
  unfold alarmConditionEnd
  repeat' first
    | with_reducible assumption
    | with_reducible apply State.deliver_calm
    | with_reducible apply calm_setTalus
    | (intro h; simp at h; done)
    | exact id
    | intro _
    | split
    | dsimp only
    | refine Calm.snd (by assumption) ?_
    | refine Calm.fst (by assumption) ?_
    | with_reducible rfl
    | simp
    | omega

theorem State.sideRead_calm {s₀ s : State} (k : Calm s₀ s) (f : Flight) (n : Nat) (x : Side) : Calm s₀ (s.sideRead f n x).1 := by
  unfold State.sideRead
  split
  · exact State.hostIn_calm k ..
  · have h := fun slab a => State.readFlat_calm k f.fn slab a n
    split <;> rename_i e <;> exact Calm.fst e (h _ _)
  · have h := fun c slab a => State.eccShare_calm k f.fn c f.seq slab [(a, n)]
    split <;> rename_i e <;> dsimp only
    · exact Calm.fst e (h _ _ _)
    · exact State.contextFault_calm (Calm.fst e (h _ _ _)) ..

theorem State.sideWrite_calm {s₀ s : State} (k : Calm s₀ s) (f : Flight) (bs : List Byte) (x : Side) {t : State}
    (e : s.sideWrite f bs x = some t) : Calm s₀ t := by
  unfold State.sideWrite at e
  split at e
  · cases e; exact State.writeShare_calm k ..
  · obtain ⟨x, hx, rfl⟩ := Option.map_eq_some_iff.1 e
    exact State.overwrite_calm (State.writeFlat_calm (State.needFlatRange_calm k _ _ _ _ hx) ..) ..
  · cases e; exact k

theorem copy_calm {s₀ s : State} (k : Calm s₀ s) (f : Flight) : Calm s₀ (copy s f) := by
  unfold copy
  repeat' first
    | with_reducible assumption
    | with_reducible apply State.failCmd_calm
    | with_reducible apply State.okCmd_calm
    | with_reducible apply State.sideRead_calm
    | with_reducible refine State.sideWrite_calm ?_ (e := by assumption) ..
    | (intro h; simp at h; done)
    | exact id
    | intro _
    | split
    | dsimp only
    | refine Calm.snd (by assumption) ?_
    | refine Calm.fst (by assumption) ?_
    | with_reducible rfl
    | simp
    | omega

theorem fill_calm {s₀ s : State} (k : Calm s₀ s) (f : Flight) : Calm s₀ (fill s f) := by
  unfold fill
  repeat' first
    | with_reducible assumption
    | with_reducible apply State.failCmd_calm
    | with_reducible apply State.okCmd_calm
    | with_reducible refine State.sideWrite_calm ?_ (e := by assumption) ..
    | (intro h; simp at h; done)
    | exact id
    | intro _
    | split
    | dsimp only
    | refine Calm.snd (by assumption) ?_
    | refine Calm.fst (by assumption) ?_
    | with_reducible rfl
    | simp
    | omega

theorem State.bindGroup_calm {s₀ s : State} (k : Calm s₀ s) (part : Nat) (ctx : Nat) (g : Group) : Calm s₀ (State.bindGroup s part ctx g) := by
  unfold State.bindGroup
  repeat' first
    | with_reducible assumption
    | with_reducible apply State.modCtx_calm
    | with_reducible apply calm_modSlab
    | with_reducible refine Calm.foldl _ (fun _ _ _ => ?_) _ ?_
    | with_reducible refine Calm.foldlFst _ (fun _ _ _ => ?_) _ ?_
    | (intro h; simp at h; done)
    | exact id
    | intro _
    | split
    | dsimp only
    | with_reducible rfl
    | simp
    | omega

theorem groupCreate_calm {s₀ s : State} (k : Calm s₀ s) (f : Flight) : Calm s₀ (groupCreate s f) := by
  unfold groupCreate
  repeat' first
    | with_reducible assumption
    | with_reducible apply State.failCmd_calm
    | with_reducible apply State.okCmd_calm
    | with_reducible apply State.bindGroup_calm
    | (intro h; simp at h; done)
    | exact id
    | intro _
    | split
    | dsimp only
    | refine Calm.snd (by assumption) ?_
    | refine Calm.fst (by assumption) ?_
    | with_reducible rfl
    | simp
    | omega

theorem groupDestroy_calm {s₀ s : State} (k : Calm s₀ s) (f : Flight) : Calm s₀ (groupDestroy s f) := by
  unfold groupDestroy
  repeat' first
    | with_reducible assumption
    | with_reducible apply State.modCtx_calm
    | with_reducible apply State.failCmd_calm
    | with_reducible apply State.okCmd_calm
    | with_reducible apply State.releaseGroup_calm
    | (intro h; simp at h; done)
    | exact id
    | intro _
    | split
    | dsimp only
    | refine Calm.snd (by assumption) ?_
    | refine Calm.fst (by assumption) ?_
    | with_reducible rfl
    | simp
    | omega

theorem State.pathEvent_calm {s₀ s : State} (k : Calm s₀ s) (fn : Nat) (scope : Nat) (c : St) (d0 : Nat) : Calm s₀ (State.pathEvent s fn scope c d0) := by
  unfold State.pathEvent
  repeat' first
    | with_reducible assumption
    | with_reducible apply State.emit_calm
    | (intro h; simp at h; done)
    | exact id
    | intro _
    | split
    | dsimp only
    | refine Calm.snd (by assumption) ?_
    | refine Calm.fst (by assumption) ?_
    | with_reducible rfl
    | simp
    | omega

theorem State.pinPulse_alive {s₀ s : State} (k : Alive s₀ s) (pin ns : Nat) : Alive s₀ (s.pinPulse pin ns) := by
  unfold State.pinPulse
  have h := k.andThen (State.passes_calm (Calm.refl s) pin ns)
  revert h
  generalize s.passes pin ns = p
  intro h
  obtain ⟨b, s1⟩ := p
  cases b
  · exact h
  · dsimp only at h ⊢
    split
    · exact h.andThen (perstRelease_calm (State.perst_calm (Calm.refl _)))
    · exact (State.modRst_alive h).andThen (modRstRelease_calm (Calm.refl _))
    · refine (h.andThen (State.pwrGoodFalls_calm (Calm.refl _) true)).andThen ?_
      exact calm_setHub (Calm.refl _) _ rfl rfl rfl (Nat.le_refl _) id
    · split
      · exact h.andThen (State.wake_calm (Calm.refl _))
      · exact h
    · exact h

theorem State.actNow_alive {s₀ s : State} (k : Alive s₀ s) (fn : Nat) (point : Nat) (scope : Nat) (param : Nat) : Alive s₀ (State.actNow s fn point scope param) := by
  unfold State.actNow
  repeat' first
    | with_reducible assumption
    | with_reducible refine Alive.andThen ?_ (State.stopModule_calm (Calm.refl _) ..)
    | with_reducible refine Alive.andThen ?_ (State.pathEvent_calm (Calm.refl _) ..)
    | with_reducible apply State.pinPulse_alive
    | (intro h; simp at h; done)
    | exact id
    | intro _
    | split
    | dsimp only
    | refine Alive.snd (by assumption) ?_
    | with_reducible rfl
    | simp
    | omega

theorem State.actTimes_alive {s₀ s : State} (k : Alive s₀ s) (f : Flight) (point scope param n : Nat) :
    Alive s₀ (s.actTimes f point scope param n) := by
  induction n generalizing s with
  | zero => exact k
  | succ n ih =>
    unfold State.actTimes
    split
    · exact k
    · exact ih (State.actNow_alive k ..)

theorem State.inject_alive {s₀ s : State} (k : Alive s₀ s) (f : Flight) : Alive s₀ (s.inject f) := by
  unfold State.inject
  extract_lets point scope count ctx param now path rest n a
  split
  · exact k.andThen (State.failCmd_calm (Calm.refl _) ..)
  split
  · exact k.andThen (State.failCmd_calm (Calm.refl _) ..)
  · split
    · exact k.andThen (State.failCmd_calm (Calm.refl _) ..)
    · split
      · exact (State.actTimes_alive k ..).andThen (State.okCmd_calm (Calm.refl _) ..)
      · exact (k.andThen (calm_setTalus (Calm.refl _) _ (by rfl))).andThen (State.okCmd_calm (Calm.refl _) ..)

theorem State.injectClear_calm {s₀ s : State} (k : Calm s₀ s) (f : Flight) : Calm s₀ (State.injectClear s f) := by
  unfold State.injectClear
  repeat' first
    | with_reducible assumption
    | with_reducible apply State.okCmd_calm
    | with_reducible apply calm_setTalus
    | (intro h; simp at h; done)
    | exact id
    | intro _
    | split
    | dsimp only
    | with_reducible rfl
    | simp
    | omega

theorem State.statusGet_calm {s₀ s : State} (k : Calm s₀ s) (f : Flight) : Calm s₀ (State.statusGet s f) := by
  unfold State.statusGet
  repeat' first
    | with_reducible assumption
    | with_reducible apply State.failCmd_calm
    | with_reducible apply State.okCmd_calm
    | (intro h; simp at h; done)
    | exact id
    | intro _
    | split
    | dsimp only
    | with_reducible rfl
    | simp
    | omega

theorem serviceModeSwitch_keep {s₀ s : State} (k : Keep s₀ s) : Keep s₀ (serviceModeSwitch s) := by
  unfold serviceModeSwitch
  split
  · exact k
  · dsimp only
    split
    · exact k
    · refine Keep.andThen ?_ (State.okCmd_calm (Calm.refl _) ..)
      refine Keep.andThen ?_ (calm_setTalus (Calm.refl _) _ (by rfl))
      exact k.trans ⟨rfl, rfl, rfl, Nat.le_refl s.geode.draws, fun i => ⟨i.1, i.2, i.3, i.4, i.5, i.6, i.7⟩⟩

theorem State.restEnter_calm {s₀ s : State} (k : Calm s₀ s) (f : Flight) : Calm s₀ (State.restEnter s f) := by
  unfold State.restEnter
  repeat' first
    | with_reducible assumption
    | with_reducible apply State.failCmd_calm
    | with_reducible apply State.okCmd_calm
    | (intro h; simp at h; done)
    | exact id
    | intro _
    | split
    | dsimp only
    | with_reducible rfl
    | simp
    | omega

theorem State.setSlot_calm {s₀ s : State} (k : Calm s₀ s) (fn : Nat) (b : Slot) : Calm s₀ (State.setSlot s fn b) := by
  unfold State.setSlot
  repeat' first
    | with_reducible assumption
    | with_reducible apply calm_modFn
    | (intro h; simp at h; done)
    | exact id
    | intro _
    | split
    | dsimp only
    | with_reducible rfl
    | simp
    | omega

theorem State.serviceEnter_calm {s₀ s : State} (k : Calm s₀ s) (f : Flight) : Calm s₀ (State.serviceEnter s f) := by
  unfold State.serviceEnter
  repeat' first
    | with_reducible assumption
    | with_reducible apply State.busyCmd_calm
    | (intro h; simp at h; done)
    | exact id
    | intro _
    | split
    | dsimp only
    | with_reducible rfl
    | simp
    | omega

theorem State.perform_alive {s₀ s : State} (k : Alive s₀ s) (f : Flight) : Alive s₀ (s.perform f) := by
  unfold State.perform
  split
  · exact k.andThen (State.statusGet_calm (Calm.refl _) ..)
  · exact k.andThen (State.serviceEnter_calm (Calm.refl _) ..)
  · exact k.andThen (State.restEnter_calm (Calm.refl _) ..)
  · exact k.andThen (partCreate_calm (Calm.refl _) ..)
  · exact k.andThen (partDestroy_calm (Calm.refl _) ..)
  · exact k.andThen (partSet_calm (Calm.refl _) ..)
  · exact k.andThen (ctxCreate_calm (Calm.refl _) ..)
  · exact k.andThen (ctxDestroy_calm (Calm.refl _) ..)
  · exact k.andThen (ctxSave_calm (Calm.refl _) ..)
  · exact k.andThen (ctxRestore_calm (Calm.refl _) ..)
  · exact k.andThen (modelLoad_calm (Calm.refl _) ..)
  · exact k.andThen (modelDrop_calm (Calm.refl _) ..)
  · exact k.andThen (modelPin_calm (Calm.refl _) ..)
  · exact k.andThen (modelUnpin_calm (Calm.refl _) ..)
  · exact k.andThen (quarryStat_calm (Calm.refl _) ..)
  · exact k.andThen (regionCreate_calm (Calm.refl _) ..)
  · exact k.andThen (regionDestroy_calm (Calm.refl _) ..)
  · exact k.andThen (regionMap_calm (Calm.refl _) ..)
  · exact k.andThen (regionUnmap_calm (Calm.refl _) ..)
  · exact k.andThen (progLoad_calm (Calm.refl _) ..)
  · exact k.andThen (runPassage_calm (Calm.refl _) ..)
  · exact k.andThen (fetch_calm (Calm.refl _) ..)
  · exact k.andThen (resultDrop_calm (Calm.refl _) ..)
  · exact k.andThen (groupCreate_calm (Calm.refl _) ..)
  · exact k.andThen (groupDestroy_calm (Calm.refl _) ..)
  · exact k.andThen (copy_calm (Calm.refl _) ..)
  · exact k.andThen (fill_calm (Calm.refl _) ..)
  · exact k.andThen (codecOpen_calm (Calm.refl _) ..)
  · exact k.andThen (codecClose_calm (Calm.refl _) ..)
  · exact k.andThen (codecEncode_calm (Calm.refl _) ..)
  · exact k.andThen (codecDecode_calm (Calm.refl _) ..)
  · exact k.andThen (attest_calm (Calm.refl _) ..)
  · exact k.andThen (sessionOpen_calm (Calm.refl _) ..)
  · exact k.andThen (sessionClose_calm (Calm.refl _) ..)
  · exact k.andThen (signerAdd_calm (Calm.refl _) ..)
  · exact k.andThen (signerRemove_calm (Calm.refl _) ..)
  · exact k.andThen (debugUnlock_calm (Calm.refl _) ..)
  · exact k.andThen (State.ringSet_calm (Calm.refl _) ..)
  · exact k.andThen (State.alarmAck_calm (Calm.refl _) ..)
  · exact State.inject_alive k ..
  · exact k.andThen (State.injectClear_calm (Calm.refl _) ..)

theorem State.proceed_alive {s₀ s : State} (k : Alive s₀ s) (f : Flight) : Alive s₀ (State.proceed s f) := by
  unfold State.proceed
  repeat' first
    | with_reducible assumption
    | with_reducible apply State.perform_alive
    | with_reducible refine Alive.andThen ?_ (calm_modFlight (Calm.refl _) _ _)
    | (intro h; simp at h; done)
    | exact id
    | intro _
    | split
    | dsimp only
    | with_reducible rfl
    | simp
    | omega

theorem State.start_alive {s₀ s : State} (k : Alive s₀ s) (f : Flight) : Alive s₀ (State.start s f) := by
  unfold State.start
  repeat' first
    | with_reducible assumption
    | with_reducible refine Alive.andThen ?_ (State.failCmd_calm (Calm.refl _) ..)
    | with_reducible apply State.proceed_alive
    | with_reducible refine Alive.andThen ?_ (calm_modPart (Calm.refl _) _ _)
    | with_reducible refine Alive.andThen ?_ (calm_modFlight (Calm.refl _) _ _)
    | (intro h; simp at h; done)
    | exact id
    | intro _
    | split
    | dsimp only
    | refine Alive.snd (by assumption) ?_
    | with_reducible rfl
    | simp
    | omega

theorem State.tryStart_alive {s₀ s : State} (k : Alive s₀ s) (f : Flight) : Alive s₀ (State.tryStart s f) := by
  unfold State.tryStart
  repeat' first
    | with_reducible assumption
    | with_reducible apply State.start_alive
    | (intro h; simp at h; done)
    | exact id
    | intro _
    | split
    | dsimp only
    | with_reducible rfl
    | simp
    | omega

theorem State.setSlot_alive {s₀ s : State} (k : Alive s₀ s) (fn : Nat) (b : Slot) : Alive s₀ (s.setSlot fn b) :=
  k.andThen (State.setSlot_calm (Calm.refl _) ..)

theorem State.accept_alive {s₀ s : State} (k : Alive s₀ s) (fn : Nat) (c : Cmd) (b : Slot) : Alive s₀ (s.accept fn c b) := by
  unfold State.accept
  split
  · exact State.setSlot_alive k ..
  · have h := k.andThen (State.takeSeq_calm (Calm.refl s))
    revert h
    generalize s.takeSeq = p
    intro h
    obtain ⟨q, s1⟩ := p
    dsimp only at h ⊢
    refine State.tryStart_alive ?_ _
    have h2 : Alive s₀ ((s1.setSlot fn { b with state := .accepted, status := .ok, seq := q }).setFlights
        (s1.flights ++ [flightOf fn q c b])) :=
      (State.setSlot_alive h ..).andThen (calm_setFlights (Calm.refl _) _)
    split
    · exact h2.andThen (calm_setHub (Calm.refl _) _ rfl rfl rfl (Nat.le_refl _) id)
    · exact h2

theorem State.take_alive {s₀ s : State} (k : Alive s₀ s) (fn i : Nat) : Alive s₀ (s.take fn i) := by
  unfold State.take
  generalize (s.fn fn).slot i = b
  dsimp only
  split
  · exact k
  · split
    · exact State.accept_alive k ..
    · exact State.setSlot_alive k ..

theorem State.sealSlot_alive {s₀ s : State} (k : Alive s₀ s) (fn : Nat) (k : Nat) : Alive s₀ (State.sealSlot s fn k) := by
  unfold State.sealSlot
  repeat' first
    | with_reducible assumption
    | with_reducible refine Alive.andThen ?_ (State.wake_calm (Calm.refl _) ..)
    | with_reducible refine Alive.andThen ?_ (State.setSlot_calm (Calm.refl _) ..)
    | with_reducible apply State.take_alive
    | (intro h; simp at h; done)
    | exact id
    | intro _
    | split
    | dsimp only
    | with_reducible rfl
    | simp
    | omega

theorem sealRow_alive {s₀ s : State} (k : Alive s₀ s) (c : Cmd) (fn : Nat) (k : Nat) : Alive s₀ (sealRow c fn k s) := by
  unfold sealRow
  repeat' first
    | with_reducible assumption
    | with_reducible apply State.sealSlot_alive
    | (intro h; simp at h; done)
    | exact id
    | intro _
    | split
    | dsimp only
    | with_reducible rfl
    | simp
    | omega

theorem sealUnknown_alive {s₀ s : State} (k : Alive s₀ s) (fn : Nat) (k : Nat) : Alive s₀ (sealUnknown fn k s) := by
  unfold sealUnknown
  repeat' first
    | with_reducible assumption
    | with_reducible apply State.sealSlot_alive
    | (intro h; simp at h; done)
    | exact id
    | intro _
    | split
    | dsimp only
    | with_reducible rfl
    | simp
    | omega

theorem restWakeEnd_alive {s₀ s : State} (k : Alive s₀ s) : Alive s₀ (restWakeEnd s) := by
  unfold restWakeEnd
  split
  · have h : Alive s₀ (s.setHub { s.hub with rest := .awake }) :=
      k.andThen (calm_setHub (Calm.refl _) _ rfl rfl rfl (Nat.le_refl _) id)
    revert h
    generalize s.setHub { s.hub with rest := .awake } = s1
    generalize List.range 16 = l
    intro h
    exact Alive.foldl _ (fun b a hb => Alive.foldl _ (fun b2 a2 h2 => State.take_alive h2 a a2) _ hb) l h
  · exact k

theorem orderedStart_alive {s₀ s : State} (k : Alive s₀ s) (fn : Nat) (seq : Nat) : Alive s₀ (orderedStart fn seq s) := by
  unfold orderedStart
  repeat' first
    | with_reducible assumption
    | with_reducible apply State.tryStart_alive
    | (intro h; simp at h; done)
    | exact id
    | intro _
    | split
    | dsimp only
    | refine Alive.snd (by assumption) ?_
    | with_reducible rfl
    | simp
    | omega

theorem State.settle_calm {s₀ s : State} (k : Calm s₀ s) (f : Flight) : Calm s₀ (State.settle s f) := by
  unfold State.settle
  repeat' first
    | with_reducible assumption
    | with_reducible apply State.modCtx_calm
    | with_reducible apply partSet_calm
    | with_reducible apply ctxCreate_calm
    | with_reducible apply regionUnmap_calm
    | with_reducible apply regionDestroy_calm
    | with_reducible apply State.unmapEnd_calm
    | with_reducible apply State.sessionReady_calm
    | with_reducible apply sessionOpen_calm
    | with_reducible apply calm_modFlight
    | (intro h; simp at h; done)
    | exact id
    | intro _
    | split
    | dsimp only
    | refine Calm.snd (by assumption) ?_
    | refine Calm.fst (by assumption) ?_
    | with_reducible rfl
    | simp
    | omega

theorem State.recordEnd_calm {s₀ s : State} (k : Calm s₀ s) (f : Flight) : Calm s₀ (State.recordEnd s f) := by
  unfold State.recordEnd
  repeat' first
    | with_reducible assumption
    | with_reducible apply State.sendMsix_calm
    | with_reducible apply calm_setFlights
    | with_reducible apply calm_modFn
    | (intro h; simp at h; done)
    | exact id
    | intro _
    | split
    | dsimp only
    | with_reducible rfl
    | simp
    | omega

theorem State.afterRecord_calm {s₀ s : State} (k : Calm s₀ s) (f : Flight) : Calm s₀ (State.afterRecord s f) := by
  unfold State.afterRecord
  repeat' first
    | with_reducible assumption
    | with_reducible apply State.restEnter_calm
    | with_reducible apply calm_setHub
    | (intro h; simp at h; done)
    | exact id
    | intro _
    | split
    | dsimp only
    | with_reducible rfl
    | simp
    | omega

theorem State.writeOut_calm {s₀ s : State} (k : Calm s₀ s) (f : Flight) (o : OutBuf) : Calm s₀ (State.writeOut s f o) := by
  unfold State.writeOut
  repeat' first
    | with_reducible assumption
    | with_reducible apply State.stewardWrite_calm
    | (intro h; simp at h; done)
    | exact id
    | intro _
    | split
    | dsimp only
    | with_reducible rfl
    | simp
    | omega

theorem State.restoreHeld_calm {s₀ s : State} (k : Calm s₀ s) (f : Flight) : Calm s₀ (State.restoreHeld s f) := by
  unfold State.restoreHeld
  repeat' first
    | with_reducible assumption
    | with_reducible apply runPassage_calm
    | with_reducible apply fetch_calm
    | with_reducible apply sessionOpen_calm
    | with_reducible apply calm_modPart
    | (intro h; simp at h; done)
    | exact id
    | intro _
    | split
    | dsimp only
    | refine Calm.snd (by assumption) ?_
    | refine Calm.fst (by assumption) ?_
    | with_reducible rfl
    | simp
    | omega

theorem State.resultFails_calm {s₀ s : State} (k : Calm s₀ s) (f : Flight) : Calm s₀ (State.resultFails s f).1 := by
  unfold State.resultFails
  repeat' first
    | with_reducible assumption
    | with_reducible apply State.hostOpen_calm
    | (intro h; simp at h; done)
    | exact id
    | intro _
    | split
    | dsimp only
    | with_reducible rfl
    | simp
    | omega

theorem State.results_calm {s₀ s : State} (k : Calm s₀ s) (f : Flight) : Calm s₀ (State.results s f).1 := by
  unfold State.results
  repeat' first
    | with_reducible assumption
    | with_reducible apply State.writeOut_calm
    | with_reducible apply State.restoreHeld_calm
    | with_reducible apply State.resultFails_calm
    | with_reducible refine Calm.foldl _ (fun _ _ _ => ?_) _ ?_
    | with_reducible refine Calm.foldlFst _ (fun _ _ _ => ?_) _ ?_
    | (intro h; simp at h; done)
    | exact id
    | intro _
    | split
    | dsimp only
    | refine Calm.snd (by assumption) ?_
    | refine Calm.fst (by assumption) ?_
    | with_reducible rfl
    | simp
    | omega

theorem State.putCompletion_calm {s₀ s : State} (k : Calm s₀ s) (f : Flight) (refused : Bool) : Calm s₀ (State.putCompletion s f refused) := by
  unfold State.putCompletion
  repeat' first
    | with_reducible assumption
    | with_reducible apply State.stewardWrite_calm
    | with_reducible apply State.atsInjected_calm
    | with_reducible apply State.recordRefused_calm
    | (intro h; simp at h; done)
    | exact id
    | intro _
    | split
    | dsimp only
    | refine Calm.snd (by assumption) ?_
    | refine Calm.fst (by assumption) ?_
    | with_reducible rfl
    | simp
    | omega

theorem State.complete_calm {s₀ s : State} (k : Calm s₀ s) (f : Flight) (refused : Bool) : Calm s₀ (State.complete s f refused) := by
  unfold State.complete
  repeat' first
    | with_reducible assumption
    | with_reducible apply State.recordEnd_calm
    | with_reducible apply State.afterRecord_calm
    | with_reducible apply State.results_calm
    | with_reducible apply State.putCompletion_calm
    | (intro h; simp at h; done)
    | exact id
    | intro _
    | split
    | dsimp only
    | refine Calm.snd (by assumption) ?_
    | refine Calm.fst (by assumption) ?_
    | with_reducible rfl
    | simp
    | omega

theorem State.completeSeq_calm {s₀ s : State} (k : Calm s₀ s) (fn : Nat) (seq : Nat) (refused : Bool) : Calm s₀ (State.completeSeq s fn seq refused) := by
  unfold State.completeSeq
  repeat' first
    | with_reducible assumption
    | with_reducible apply State.settle_calm
    | with_reducible apply State.complete_calm
    | (intro h; simp at h; done)
    | exact id
    | intro _
    | split
    | dsimp only
    | refine Calm.snd (by assumption) ?_
    | refine Calm.fst (by assumption) ?_
    | with_reducible rfl
    | simp
    | omega

theorem commandCompletion_calm {s₀ s : State} (k : Calm s₀ s) (fn : Nat) (seq : Nat) : Calm s₀ (commandCompletion fn seq s) := by
  unfold commandCompletion
  repeat' first
    | with_reducible assumption
    | with_reducible apply State.completeSeq_calm
    | (intro h; simp at h; done)
    | exact id
    | intro _
    | split
    | dsimp only
    | with_reducible rfl
    | simp
    | omega

theorem mbxCqCfgWrite_calm {s₀ s : State} (k : Calm s₀ s) (fn : Nat) (v : Word) : Calm s₀ (mbxCqCfgWrite fn v s) := by
  unfold mbxCqCfgWrite
  repeat' first
    | with_reducible assumption
    | with_reducible apply calm_modFn
    | (intro h; simp at h; done)
    | exact id
    | intro _
    | split
    | dsimp only
    | with_reducible rfl
    | simp
    | omega

theorem mbxCqHeadWrite_calm {s₀ s : State} (k : Calm s₀ s) (fn : Nat) (v : Word) : Calm s₀ (mbxCqHeadWrite fn v s) := by
  unfold mbxCqHeadWrite
  repeat' first
    | with_reducible assumption
    | with_reducible apply calm_modFn
    | (intro h; simp at h; done)
    | exact id
    | intro _
    | split
    | dsimp only
    | with_reducible rfl
    | simp
    | omega

theorem State.flushPba_calm {s₀ s : State} (k : Calm s₀ s) (fn : Nat) : Calm s₀ (State.flushPba s fn) := by
  unfold State.flushPba
  repeat' first
    | with_reducible assumption
    | with_reducible apply State.sendMessage_calm
    | with_reducible apply calm_modFn
    | with_reducible refine Calm.foldl _ (fun _ _ _ => ?_) _ ?_
    | with_reducible refine Calm.foldlFst _ (fun _ _ _ => ?_) _ ?_
    | (intro h; simp at h; done)
    | exact id
    | intro _
    | split
    | dsimp only
    | with_reducible rfl
    | simp
    | omega

theorem State.mastersOn_alive {s₀ s : State} (k : Alive s₀ s) (fn : Nat) : Alive s₀ (State.mastersOn s fn) := by
  unfold State.mastersOn
  repeat' first
    | with_reducible assumption
    | with_reducible refine Alive.andThen ?_ (State.flushDrops_calm (Calm.refl _) ..)
    | with_reducible refine Alive.andThen ?_ (State.nextDecodes_calm (Calm.refl _) ..)
    | with_reducible apply State.proceed_alive
    | with_reducible refine Alive.andThen ?_ (State.flushPba_calm (Calm.refl _) ..)
    | with_reducible refine Alive.foldl _ (fun _ _ _ => ?_) _ ?_
    | (intro h; simp at h; done)
    | exact id
    | intro _
    | split
    | dsimp only
    | refine Alive.snd (by assumption) ?_
    | with_reducible rfl
    | simp
    | omega

theorem busMasterEnableWrite_alive {s₀ s : State} (k : Alive s₀ s) (fn : Nat) (on : Bool) : Alive s₀ (busMasterEnableWrite fn on s) := by
  unfold busMasterEnableWrite
  repeat' first
    | with_reducible assumption
    | with_reducible apply State.mastersOn_alive
    | with_reducible refine Alive.andThen ?_ (calm_modFn (Calm.refl _) _ _)
    | (intro h; simp at h; done)
    | exact id
    | intro _
    | split
    | dsimp only
    | with_reducible rfl
    | simp
    | omega

theorem State.configWrite_alive {s₀ s : State} (k : Alive s₀ s) (fn : Nat) (v : Nat) : Alive s₀ (State.configWrite s fn v) := by
  unfold State.configWrite
  dsimp only
  apply State.mastersOn_alive
  split
  · refine Alive.andThen ?_ (calm_setPort (Calm.refl _) _)
    exact k.andThen (calm_modFn (Calm.refl _) _ _)
  · exact k.andThen (calm_modFn (Calm.refl _) _ _)

theorem registerWrite_alive {s₀ s : State} (k : Alive s₀ s) (fn : Nat) (off : Nat) (data : List Byte) : Alive s₀ (registerWrite fn off data s) := by
  unfold registerWrite
  repeat' first
    | with_reducible assumption
    | with_reducible refine Alive.andThen ?_ (State.setSlot_calm (Calm.refl _) ..)
    | with_reducible refine Alive.andThen ?_ (State.flushPba_calm (Calm.refl _) ..)
    | with_reducible apply State.configWrite_alive
    | with_reducible refine Alive.andThen ?_ (calm_modFn (Calm.refl _) _ _)
    | with_reducible refine Alive.foldl _ (fun _ _ _ => ?_) _ ?_
    | (intro h; simp at h; done)
    | exact id
    | intro _
    | split
    | dsimp only
    | with_reducible rfl
    | simp
    | omega

end Sys2Proof.Machine
end

