-- ==== Sys2Proof/Laws/CalmPort.lean ====
section
/-! SUPPORT. Laws/CalmPort.lean: the frame of Laws/Calm.lean for links, host port, management and SPDM. -/

set_option linter.all false

namespace Sys2Proof.Machine

theorem State.modLink_calm {s₀ s : State} (k : Calm s₀ s) (slab : Nat) (t : Nat) (f : HLink → HLink) : Calm s₀ (State.modLink s slab t f) := by
  unfold State.modLink
  repeat' first
    | with_reducible assumption
    | with_reducible apply calm_modSlab
    | (intro h; simp at h; done)
    | exact id
    | intro _
    | split
    | dsimp only
    | with_reducible rfl
    | simp
    | omega

theorem State.modLinkEnds_calm {s₀ s : State} (k : Calm s₀ s) (slab : Nat) (t : Nat) (rx : Bool) (f : HLink → Nat → HLink) : Calm s₀ (State.modLinkEnds s slab t rx f) := by
  unfold State.modLinkEnds
  repeat' first
    | with_reducible assumption
    | with_reducible apply State.modLink_calm
    | (intro h; simp at h; done)
    | exact id
    | intro _
    | split
    | dsimp only
    | refine Calm.snd (by assumption) ?_
    | refine Calm.fst (by assumption) ?_
    | with_reducible rfl
    | simp
    | omega

theorem State.linkDown_calm {s₀ s : State} (k : Calm s₀ s) (slab : Nat) (inj : Bool) : Calm s₀ (State.linkDown s slab inj) := by
  unfold State.linkDown
  repeat' first
    | with_reducible assumption
    | with_reducible apply State.draw_calm
    | with_reducible apply State.stopModule_calm
    | (intro h; simp at h; done)
    | exact id
    | intro _
    | split
    | dsimp only
    | refine Calm.snd (by assumption) ?_
    | refine Calm.fst (by assumption) ?_
    | with_reducible rfl
    | simp
    | omega

theorem flitReceive_calm {s₀ s : State} (k : Calm s₀ s) (slab : Nat) (t : Nat) (rx : Bool) (f : Flit) : Calm s₀ (flitReceive slab t rx f s) := by
  unfold flitReceive
  repeat' first
    | with_reducible assumption
    | with_reducible apply State.opportunity_calm
    | with_reducible apply State.modLinkEnds_calm
    | with_reducible apply State.linkDown_calm
    | (intro h; simp at h; done)
    | exact id
    | intro _
    | split
    | dsimp only
    | refine Calm.snd (by assumption) ?_
    | refine Calm.fst (by assumption) ?_
    | with_reducible rfl
    | simp
    | omega

theorem State.windowEnd_calm {s₀ s : State} (k : Calm s₀ s) (slab : Nat) (t : Nat) (rx : Bool) : Calm s₀ (State.windowEnd s slab t rx) := by
  unfold State.windowEnd
  repeat' first
    | with_reducible assumption
    | with_reducible apply State.opportunity_calm
    | with_reducible apply State.emit_calm
    | with_reducible apply State.modLink_calm
    | (intro h; simp at h; done)
    | exact id
    | intro _
    | split
    | dsimp only
    | refine Calm.snd (by assumption) ?_
    | refine Calm.fst (by assumption) ?_
    | with_reducible rfl
    | simp
    | omega

theorem replayWindowEnd_calm {s₀ s : State} (k : Calm s₀ s) (slab : Nat) (t : Nat) : Calm s₀ (replayWindowEnd slab t s) := by
  unfold replayWindowEnd
  repeat' first
    | with_reducible assumption
    | with_reducible apply State.windowEnd_calm
    | (intro h; simp at h; done)
    | exact id
    | intro _
    | split
    | dsimp only
    | with_reducible rfl
    | simp
    | omega

theorem State.memFatal_calm {s₀ s : State} (k : Calm s₀ s) (slab : Nat) (inj : Bool) : Calm s₀ (State.memFatal s slab inj) := by
  unfold State.memFatal
  repeat' first
    | with_reducible assumption
    | with_reducible apply State.draw_calm
    | with_reducible apply State.stopModule_calm
    | (intro h; simp at h; done)
    | exact id
    | intro _
    | split
    | dsimp only
    | refine Calm.snd (by assumption) ?_
    | refine Calm.fst (by assumption) ?_
    | with_reducible rfl
    | simp
    | omega

theorem State.hbmUncorrEvent_calm {s₀ s : State} (k : Calm s₀ s) (slab : Nat) (j : Nat) (w : HbmWord) (byHost : Bool) (inj : Bool) : Calm s₀ (State.hbmUncorrEvent s slab j w byHost inj) := by
  unfold State.hbmUncorrEvent
  repeat' first
    | with_reducible assumption
    | with_reducible apply State.emit_calm
    | with_reducible apply nextFree_calm
    | (intro h; simp at h; done)
    | exact id
    | intro _
    | split
    | dsimp only
    | with_reducible rfl
    | simp
    | omega

theorem State.scrubHbm_calm {s₀ s : State} (k : Calm s₀ s) (slab : Nat) (j : Nat) (w : HbmWord) (symbols : Nat) (inj : Bool) : Calm s₀ (State.scrubHbm s slab j w symbols inj) := by
  unfold State.scrubHbm
  repeat' first
    | with_reducible assumption
    | with_reducible apply State.hbmCorrected_calm
    | with_reducible apply State.memFatal_calm
    | with_reducible apply State.hbmUncorrEvent_calm
    | (intro h; simp at h; done)
    | exact id
    | intro _
    | split
    | dsimp only
    | with_reducible rfl
    | simp
    | omega

theorem State.scrubMet_calm {s₀ s : State} (k : Calm s₀ s) (slab : Nat) (j : Nat) (n : Nat) (u : Upset) (inj : Bool) : Calm s₀ (State.scrubMet s slab j n u inj) := by
  unfold State.scrubMet
  repeat' first
    | with_reducible assumption
    | with_reducible apply State.place_calm
    | with_reducible apply nextFree_calm
    | with_reducible apply State.scrubHbm_calm
    | with_reducible apply calm_modSlab
    | (intro h; simp at h; done)
    | exact id
    | intro _
    | split
    | dsimp only
    | with_reducible rfl
    | simp
    | omega

theorem State.scrubAlone_calm {s₀ s : State} (k : Calm s₀ s) (slab : Nat) (j : Nat) (n : Nat) (o : Option HbmWord) : Calm s₀ (State.scrubAlone s slab j n o) := by
  unfold State.scrubAlone
  repeat' first
    | with_reducible assumption
    | with_reducible apply State.scrubHbm_calm
    | (intro h; simp at h; done)
    | exact id
    | intro _
    | split
    | dsimp only
    | refine Calm.snd (by assumption) ?_
    | refine Calm.fst (by assumption) ?_
    | with_reducible rfl
    | simp
    | omega

theorem State.scrubSteward_calm {s₀ s : State} (k : Calm s₀ s) (slab : Nat) : Calm s₀ (State.scrubSteward s slab) := by
  unfold State.scrubSteward
  repeat' first
    | with_reducible assumption
    | with_reducible apply State.opportunity_calm
    | with_reducible apply State.memFatal_calm
    | (intro h; simp at h; done)
    | exact id
    | intro _
    | split
    | dsimp only
    | refine Calm.snd (by assumption) ?_
    | refine Calm.fst (by assumption) ?_
    | with_reducible rfl
    | simp
    | omega

theorem State.scrubHbmAll_calm {s₀ s : State} (k : Calm s₀ s) (slab : Nat) : Calm s₀ (State.scrubHbmAll s slab) := by
  unfold State.scrubHbmAll
  repeat' first
    | with_reducible assumption
    | with_reducible apply State.opportunity_calm
    | with_reducible apply State.place_calm
    | with_reducible apply nextFree_calm
    | with_reducible apply State.scrubMet_calm
    | with_reducible apply State.scrubAlone_calm
    | with_reducible apply State.scrubSteward_calm
    | with_reducible refine Calm.foldl _ (fun _ _ _ => ?_) _ ?_
    | with_reducible refine Calm.foldlFst _ (fun _ _ _ => ?_) _ ?_
    | (intro h; simp at h; done)
    | exact id
    | intro _
    | split
    | dsimp only
    | refine Calm.snd (by assumption) ?_
    | refine Calm.fst (by assumption) ?_
    | with_reducible rfl
    | simp
    | omega

theorem State.scrubSpad_calm {s₀ s : State} (k : Calm s₀ s) (slab : Nat) (u : Upset) (phys : Option Nat) (inj : Bool) : Calm s₀ (State.scrubSpad s slab u phys inj) := by
  unfold State.scrubSpad
  repeat' first
    | with_reducible assumption
    | with_reducible apply State.draw_calm
    | with_reducible apply State.place_calm
    | with_reducible apply State.moduleEvent_calm
    | with_reducible apply State.contextFault_calm
    | with_reducible apply State.spadCorrectedEv_calm
    | with_reducible apply State.modPlace_calm
    | with_reducible apply calm_modSlab
    | (intro h; simp at h; done)
    | exact id
    | intro _
    | split
    | dsimp only
    | refine Calm.snd (by assumption) ?_
    | refine Calm.fst (by assumption) ?_
    | with_reducible rfl
    | simp
    | omega

theorem State.scrubSpadAll_calm {s₀ s : State} (k : Calm s₀ s) (slab : Nat) : Calm s₀ (State.scrubSpadAll s slab) := by
  unfold State.scrubSpadAll
  repeat' first
    | with_reducible assumption
    | with_reducible apply State.opportunity_calm
    | with_reducible apply State.place_calm
    | with_reducible apply nextFree_calm
    | with_reducible apply State.scrubSpad_calm
    | with_reducible apply calm_modSlab
    | with_reducible refine Calm.foldl _ (fun _ _ _ => ?_) _ ?_
    | with_reducible refine Calm.foldlFst _ (fun _ _ _ => ?_) _ ?_
    | (intro h; simp at h; done)
    | exact id
    | intro _
    | split
    | dsimp only
    | refine Calm.snd (by assumption) ?_
    | refine Calm.fst (by assumption) ?_
    | with_reducible rfl
    | simp
    | omega

theorem scrubPass_calm {s₀ s : State} (k : Calm s₀ s) (slab : Nat) (hbm : Bool) (found : List Upset) : Calm s₀ (scrubPass slab hbm found s) := by
  unfold scrubPass
  repeat' first
    | with_reducible assumption
    | with_reducible apply State.place_calm
    | with_reducible apply State.scrubHbmAll_calm
    | with_reducible apply State.scrubSpadAll_calm
    | with_reducible apply calm_modSlab
    | with_reducible refine Calm.foldl _ (fun _ _ _ => ?_) _ ?_
    | with_reducible refine Calm.foldlFst _ (fun _ _ _ => ?_) _ ?_
    | (intro h; simp at h; done)
    | exact id
    | intro _
    | split
    | dsimp only
    | with_reducible rfl
    | simp
    | omega

theorem hostLinkTrained_calm {s₀ s : State} (k : Calm s₀ s) (width : Nat) (rate : Nat) (flit256 : Bool) (lopt : Bool) : Calm s₀ (hostLinkTrained width rate flit256 lopt s) := by
  unfold hostLinkTrained
  repeat' first
    | with_reducible assumption
    | with_reducible apply State.opportunity_calm
    | with_reducible apply State.moduleEvent_calm
    | with_reducible apply calm_setPort
    | (intro h; simp at h; done)
    | exact id
    | intro _
    | split
    | dsimp only
    | refine Calm.snd (by assumption) ?_
    | refine Calm.fst (by assumption) ?_
    | with_reducible rfl
    | simp
    | omega

theorem hdmDecoderCommit_calm {s₀ s : State} (k : Calm s₀ s) (idx : Nat) (base : Nat) (size : Nat) : Calm s₀ (hdmDecoderCommit idx base size s) := by
  unfold hdmDecoderCommit
  repeat' first
    | with_reducible assumption
    | with_reducible apply State.setReply_calm
    | with_reducible apply calm_setPort
    | (intro h; simp at h; done)
    | exact id
    | intro _
    | split
    | dsimp only
    | with_reducible rfl
    | simp
    | omega

theorem State.hdmUnmapped_calm {s₀ s : State} (k : Calm s₀ s) (dpa : Nat) (write : Bool) : Calm s₀ (State.hdmUnmapped s dpa write) := by
  unfold State.hdmUnmapped
  repeat' first
    | with_reducible assumption
    | with_reducible apply State.moduleEvent_calm
    | (intro h; simp at h; done)
    | exact id
    | intro _
    | split
    | dsimp only
    | with_reducible rfl
    | simp
    | omega

theorem State.hdmWord_calm {s₀ s : State} (k : Calm s₀ s) (dpa : Nat) : Calm s₀ (State.hdmWord s dpa) := by
  unfold State.hdmWord
  repeat' first
    | with_reducible assumption
    | with_reducible apply State.setReply_calm
    | with_reducible apply State.draw_calm
    | with_reducible apply State.readHbm_calm
    | with_reducible apply State.hbmUncorrEvent_calm
    | (intro h; simp at h; done)
    | exact id
    | intro _
    | split
    | dsimp only
    | refine Calm.snd (by assumption) ?_
    | refine Calm.fst (by assumption) ?_
    | with_reducible rfl
    | simp
    | omega

theorem State.hostReadDpa_calm {s₀ s : State} (k : Calm s₀ s) (dpa : Nat) : Calm s₀ (State.hostReadDpa s dpa) := by
  unfold State.hostReadDpa
  repeat' first
    | with_reducible assumption
    | with_reducible apply State.setReply_calm
    | with_reducible apply State.take_alive
    | with_reducible apply State.hdmUnmapped_calm
    | with_reducible apply State.hdmWord_calm
    | with_reducible apply calm_setPort
    | (intro h; simp at h; done)
    | exact id
    | intro _
    | split
    | dsimp only
    | with_reducible rfl
    | simp
    | omega

theorem State.hostWriteDpa_calm {s₀ s : State} (k : Calm s₀ s) (dpa : Nat) (bs : List Byte) : Calm s₀ (State.hostWriteDpa s dpa bs) := by
  unfold State.hostWriteDpa
  repeat' first
    | with_reducible assumption
    | with_reducible apply State.setReply_calm
    | with_reducible apply State.overwrite_calm
    | with_reducible refine State.needFlat_calm ?_ (e := by assumption) ..
    | with_reducible apply State.writeFlat_calm
    | with_reducible apply State.hdmUnmapped_calm
    | (intro h; simp at h; done)
    | exact id
    | intro _
    | split
    | dsimp only
    | refine Calm.snd (by assumption) ?_
    | refine Calm.fst (by assumption) ?_
    | with_reducible rfl
    | simp
    | omega

theorem State.hostAccess_calm {s₀ s : State} (k : Calm s₀ s) (dpa : Nat) (bs : Option (List Byte)) : Calm s₀ (State.hostAccess s dpa bs) := by
  unfold State.hostAccess
  repeat' first
    | with_reducible assumption
    | with_reducible apply State.setReply_calm
    | with_reducible apply State.wake_calm
    | with_reducible apply State.hostReadDpa_calm
    | with_reducible apply State.hostWriteDpa_calm
    | with_reducible apply calm_setPort
    | (intro h; simp at h; done)
    | exact id
    | intro _
    | split
    | dsimp only
    | refine Calm.snd (by assumption) ?_
    | refine Calm.fst (by assumption) ?_
    | with_reducible rfl
    | simp
    | omega

theorem State.serveHost_calm {s₀ s : State} (k : Calm s₀ s) : Calm s₀ (State.serveHost s) := by
  unfold State.serveHost
  repeat' first
    | with_reducible assumption
    | with_reducible apply State.hostAccess_calm
    | with_reducible apply calm_setPort
    | with_reducible refine Calm.foldl _ (fun _ _ _ => ?_) _ ?_
    | with_reducible refine Calm.foldlFst _ (fun _ _ _ => ?_) _ ?_
    | (intro h; simp at h; done)
    | exact id
    | intro _
    | split
    | dsimp only
    | with_reducible rfl
    | simp
    | omega

theorem hdmRead_calm {s₀ s : State} (k : Calm s₀ s) (dpa : Nat) : Calm s₀ (hdmRead dpa s) := by
  unfold hdmRead
  repeat' first
    | with_reducible assumption
    | with_reducible apply State.hostAccess_calm
    | (intro h; simp at h; done)
    | exact id
    | intro _
    | split
    | dsimp only
    | with_reducible rfl
    | simp
    | omega

theorem hdmWrite_calm {s₀ s : State} (k : Calm s₀ s) (dpa : Nat) (data : List Byte) : Calm s₀ (hdmWrite dpa data s) := by
  unfold hdmWrite
  repeat' first
    | with_reducible assumption
    | with_reducible apply State.hostAccess_calm
    | (intro h; simp at h; done)
    | exact id
    | intro _
    | split
    | dsimp only
    | with_reducible rfl
    | simp
    | omega

theorem wakeEnd_alive {s₀ s : State} (k : Alive s₀ s) : Alive s₀ (wakeEnd s) := by
  unfold wakeEnd
  repeat' first
    | with_reducible assumption
    | with_reducible apply restWakeEnd_alive
    | with_reducible refine Alive.andThen ?_ (State.serveHost_calm (Calm.refl _) ..)
    | (intro h; simp at h; done)
    | exact id
    | intro _
    | split
    | dsimp only
    | with_reducible rfl
    | simp
    | omega

theorem State.writeBack_calm {s₀ s : State} (k : Calm s₀ s) (line : Nat) (bs : List Byte) : Calm s₀ (State.writeBack s line bs) := by
  unfold State.writeBack
  repeat' first
    | with_reducible assumption
    | with_reducible apply State.overwrite_calm
    | with_reducible refine State.needFlat_calm ?_ (e := by assumption) ..
    | with_reducible apply State.writeFlat_calm
    | with_reducible apply State.hdmUnmapped_calm
    | (intro h; simp at h; done)
    | exact id
    | intro _
    | split
    | dsimp only
    | refine Calm.snd (by assumption) ?_
    | refine Calm.fst (by assumption) ?_
    | with_reducible rfl
    | simp
    | omega

theorem State.blurLine_calm {s₀ s : State} (k : Calm s₀ s) (line : Nat) : Calm s₀ (State.blurLine s line) := by
  unfold State.blurLine
  repeat' first
    | with_reducible assumption
    | with_reducible apply State.draw_calm
    | with_reducible apply State.writeFlat_calm
    | (intro h; simp at h; done)
    | exact id
    | intro _
    | split
    | dsimp only
    | refine Calm.snd (by assumption) ?_
    | refine Calm.fst (by assumption) ?_
    | with_reducible rfl
    | simp
    | omega

theorem State.biTimeout_calm {s₀ s : State} (k : Calm s₀ s) (line : Nat) (inj : Bool) : Calm s₀ (State.biTimeout s line inj) := by
  unfold State.biTimeout
  repeat' first
    | with_reducible assumption
    | with_reducible apply State.xfFault_calm
    | with_reducible apply State.serveHost_calm
    | with_reducible apply State.blurLine_calm
    | with_reducible apply calm_setPort
    | with_reducible refine Calm.foldl _ (fun _ _ _ => ?_) _ ?_
    | with_reducible refine Calm.foldlFst _ (fun _ _ _ => ?_) _ ?_
    | (intro h; simp at h; done)
    | exact id
    | intro _
    | split
    | dsimp only
    | with_reducible rfl
    | simp
    | omega

theorem bisnpResponse_calm {s₀ s : State} (k : Calm s₀ s) (line : Nat) (dirty : Option (List Byte)) : Calm s₀ (bisnpResponse line dirty s) := by
  unfold bisnpResponse
  repeat' first
    | with_reducible assumption
    | with_reducible apply State.opportunity_calm
    | with_reducible apply State.serveHost_calm
    | with_reducible apply State.writeBack_calm
    | with_reducible apply State.biTimeout_calm
    | with_reducible apply calm_setPort
    | (intro h; simp at h; done)
    | exact id
    | intro _
    | split
    | dsimp only
    | refine Calm.snd (by assumption) ?_
    | refine Calm.fst (by assumption) ?_
    | with_reducible rfl
    | simp
    | omega

theorem biTimeout_calm {s₀ s : State} (k : Calm s₀ s) (line : Nat) : Calm s₀ (biTimeout line s) := by
  unfold biTimeout
  repeat' first
    | with_reducible assumption
    | with_reducible apply State.biTimeout_calm
    | (intro h; simp at h; done)
    | exact id
    | intro _
    | split
    | dsimp only
    | with_reducible rfl
    | simp
    | omega

theorem hostSnoop_calm {s₀ s : State} (k : Calm s₀ s) (_line : Nat) : Calm s₀ (hostSnoop _line s) := by
  unfold hostSnoop
  repeat' first
    | with_reducible assumption
    | with_reducible apply State.setReply_calm
    | with_reducible apply State.draw_calm
    | (intro h; simp at h; done)
    | exact id
    | intro _
    | split
    | dsimp only
    | refine Calm.snd (by assumption) ?_
    | refine Calm.fst (by assumption) ?_
    | with_reducible rfl
    | simp
    | omega

theorem State.refuseTransfer_calm {s₀ s : State} (k : Calm s₀ s) (slab : Nat) (o : OpE) : Calm s₀ (State.refuseTransfer s slab o) := by
  unfold State.refuseTransfer
  repeat' first
    | with_reducible assumption
    | with_reducible apply State.xfFault_calm
    | with_reducible apply State.runDescs_calm
    | (intro h; simp at h; done)
    | exact id
    | intro _
    | split
    | dsimp only
    | refine Calm.snd (by assumption) ?_
    | refine Calm.fst (by assumption) ?_
    | with_reducible rfl
    | simp
    | omega

theorem State.atsTransfer_calm {s₀ s : State} (k : Calm s₀ s) (slab : Nat) : Calm s₀ (State.atsTransfer s slab) := by
  unfold State.atsTransfer
  repeat' first
    | with_reducible assumption
    | with_reducible apply fireRow_calm
    | with_reducible apply State.refuseTransfer_calm
    | (intro h; simp at h; done)
    | exact id
    | intro _
    | split
    | dsimp only
    | refine Calm.snd (by assumption) ?_
    | refine Calm.fst (by assumption) ?_
    | with_reducible rfl
    | simp
    | omega

theorem State.atsRecord_calm {s₀ s : State} (k : Calm s₀ s) (seq : Nat) : Calm s₀ (State.atsRecord s seq) := by
  unfold State.atsRecord
  repeat' first
    | with_reducible assumption
    | with_reducible apply State.completeSeq_calm
    | (intro h; simp at h; done)
    | exact id
    | intro _
    | split
    | dsimp only
    | refine Calm.snd (by assumption) ?_
    | refine Calm.fst (by assumption) ?_
    | with_reducible rfl
    | simp
    | omega

theorem atsTranslationRefused_calm {s₀ s : State} (k : Calm s₀ s) (use : AtsUse) : Calm s₀ (atsTranslationRefused use s) := by
  unfold atsTranslationRefused
  repeat' first
    | with_reducible assumption
    | with_reducible apply State.atsTransfer_calm
    | with_reducible apply State.atsRecord_calm
    | with_reducible apply calm_setPort
    | with_reducible apply calm_modRing
    | (intro h; simp at h; done)
    | exact id
    | intro _
    | split
    | dsimp only
    | refine Calm.snd (by assumption) ?_
    | refine Calm.fst (by assumption) ?_
    | with_reducible rfl
    | simp
    | omega

theorem unsupportedRequest_calm {s₀ s : State} (k : Calm s₀ s) (fn : Nat) (_off : Nat) : Calm s₀ (unsupportedRequest fn _off s) := by
  unfold unsupportedRequest
  repeat' first
    | with_reducible assumption
    | with_reducible apply State.setReply_calm
    | with_reducible apply calm_modFn
    | (intro h; simp at h; done)
    | exact id
    | intro _
    | split
    | dsimp only
    | with_reducible rfl
    | simp
    | omega

theorem ideIntegrityFail_calm {s₀ s : State} (k : Calm s₀ s) (stream : IdeStream) : Calm s₀ (ideIntegrityFail stream s) := by
  unfold ideIntegrityFail
  repeat' first
    | with_reducible assumption
    | with_reducible apply State.opportunity_calm
    | with_reducible apply State.emit_calm
    | with_reducible apply calm_setPort
    | (intro h; simp at h; done)
    | exact id
    | intro _
    | split
    | dsimp only
    | refine Calm.snd (by assumption) ?_
    | refine Calm.fst (by assumption) ?_
    | with_reducible rfl
    | simp
    | omega

theorem getState_calm {s₀ s : State} (k : Calm s₀ s) : Calm s₀ (getState s) := by
  unfold getState
  repeat' first
    | with_reducible assumption
    | with_reducible apply State.setReply_calm
    | with_reducible apply State.take_alive
    | (intro h; simp at h; done)
    | exact id
    | intro _
    | split
    | dsimp only
    | with_reducible rfl
    | simp
    | omega

theorem getThermal_calm {s₀ s : State} (k : Calm s₀ s) : Calm s₀ (getThermal s) := by
  unfold getThermal
  repeat' first
    | with_reducible assumption
    | with_reducible apply State.setReply_calm
    | (intro h; simp at h; done)
    | exact id
    | intro _
    | split
    | dsimp only
    | with_reducible rfl
    | simp
    | omega

theorem mgmtAlarmAck_calm {s₀ s : State} (k : Calm s₀ s) (code : Nat) : Calm s₀ (mgmtAlarmAck code s) := by
  unfold mgmtAlarmAck
  repeat' first
    | with_reducible assumption
    | with_reducible apply State.setReply_calm
    | with_reducible apply calm_setTalus
    | (intro h; simp at h; done)
    | exact id
    | intro _
    | split
    | dsimp only
    | with_reducible rfl
    | simp
    | omega

theorem injectArm_calm {s₀ s : State} (k : Calm s₀ s) (point : Nat) (param : Nat) : Calm s₀ (injectArm point param s) := by
  unfold injectArm
  repeat' first
    | with_reducible assumption
    | with_reducible apply State.setReply_calm
    | with_reducible apply State.modRst_alive
    | with_reducible apply calm_setTalus
    | (intro h; simp at h; done)
    | exact id
    | intro _
    | split
    | dsimp only
    | with_reducible rfl
    | simp
    | omega

theorem State.modStaged_calm {s₀ s : State} (k : Calm s₀ s) (image : Nat) (f : Staged → Staged) : Calm s₀ (State.modStaged s image f) := by
  unfold State.modStaged
  repeat' first
    | with_reducible assumption
    | with_reducible apply calm_setHub
    | (intro h; simp at h; done)
    | exact id
    | intro _
    | split
    | dsimp only
    | with_reducible rfl
    | simp
    | omega

theorem imageStage_calm {s₀ s : State} (k : Calm s₀ s) (image : Nat) (off : Nat) (data : List Byte) : Calm s₀ (imageStage image off data s) := by
  unfold imageStage
  repeat' first
    | with_reducible assumption
    | with_reducible apply State.setReply_calm
    | with_reducible apply State.modRst_alive
    | with_reducible apply State.modStaged_calm
    | (intro h; simp at h; done)
    | exact id
    | intro _
    | split
    | dsimp only
    | with_reducible rfl
    | simp
    | omega

theorem imageSeal_calm {s₀ s : State} (k : Calm s₀ s) (image : Nat) (len : Nat) : Calm s₀ (imageSeal image len s) := by
  unfold imageSeal
  repeat' first
    | with_reducible assumption
    | with_reducible apply State.setReply_calm
    | with_reducible apply State.modRst_alive
    | with_reducible apply State.complete_calm
    | with_reducible apply State.modStaged_calm
    | (intro h; simp at h; done)
    | exact id
    | intro _
    | split
    | dsimp only
    | with_reducible rfl
    | simp
    | omega

theorem imageDiscard_calm {s₀ s : State} (k : Calm s₀ s) : Calm s₀ (imageDiscard s) := by
  unfold imageDiscard
  repeat' first
    | with_reducible assumption
    | with_reducible apply State.setReply_calm
    | with_reducible apply State.modRst_alive
    | with_reducible apply State.complete_calm
    | with_reducible apply calm_setHub
    | (intro h; simp at h; done)
    | exact id
    | intro _
    | split
    | dsimp only
    | with_reducible rfl
    | simp
    | omega

theorem State.putSpdm_calm {s₀ s : State} (k : Calm s₀ s) (t : Transport) (x : Spdm) : Calm s₀ (State.putSpdm s t x) := by
  unfold State.putSpdm
  repeat' first
    | with_reducible assumption
    | with_reducible apply calm_setGeode
    | (intro h; simp at h; done)
    | exact id
    | intro _
    | split
    | dsimp only
    | with_reducible rfl
    | simp
    | omega

theorem State.spdmAnswer_calm {s₀ s : State} (k : Calm s₀ s) (t : Transport) (what : String) (body : List (List Byte)) : Calm s₀ (State.spdmAnswer s t what body) := by
  unfold State.spdmAnswer
  repeat' first
    | with_reducible assumption
    | with_reducible apply State.setReply_calm
    | with_reducible apply State.putSpdm_calm
    | (intro h; simp at h; done)
    | exact id
    | intro _
    | split
    | dsimp only
    | with_reducible rfl
    | simp
    | omega

theorem State.spdmRefuse_calm {s₀ s : State} (k : Calm s₀ s) : Calm s₀ (State.spdmRefuse s) := by
  unfold State.spdmRefuse
  repeat' first
    | with_reducible assumption
    | with_reducible apply State.setReply_calm
    | (intro h; simp at h; done)
    | exact id
    | intro _
    | split
    | dsimp only
    | with_reducible rfl
    | simp
    | omega

theorem State.spdmOn_calm {s₀ s : State} (k : Calm s₀ s) (t : Transport) (ok : Spdm → Bool) (act : State → State) (hact : ∀ t , Calm s₀ t → Calm s₀ (act t )) : Calm s₀ (State.spdmOn s t ok act) := by
  unfold State.spdmOn
  repeat' first
    | with_reducible assumption
    | with_reducible apply hact
    | with_reducible apply State.spdmRefuse_calm
    | (intro h; simp at h; done)
    | exact id
    | intro _
    | split
    | dsimp only
    | with_reducible rfl
    | simp
    | omega

theorem getVersion_calm {s₀ s : State} (k : Calm s₀ s) (t : Transport) : Calm s₀ (getVersion t s) := by
  unfold getVersion
  repeat' first
    | with_reducible assumption
    | with_reducible apply State.putSpdm_calm
    | with_reducible apply State.spdmAnswer_calm
    | with_reducible apply State.spdmOn_calm
    | (intro h; simp at h; done)
    | exact id
    | intro _
    | split
    | dsimp only
    | with_reducible rfl
    | simp
    | omega

theorem getCapabilities_calm {s₀ s : State} (k : Calm s₀ s) (t : Transport) : Calm s₀ (getCapabilities t s) := by
  unfold getCapabilities
  repeat' first
    | with_reducible assumption
    | with_reducible apply State.putSpdm_calm
    | with_reducible apply State.spdmAnswer_calm
    | with_reducible apply State.spdmOn_calm
    | (intro h; simp at h; done)
    | exact id
    | intro _
    | split
    | dsimp only
    | with_reducible rfl
    | simp
    | omega

theorem negotiateAlgorithms_calm {s₀ s : State} (k : Calm s₀ s) (t : Transport) (sha3 : Bool) (mldsa : Bool) (mlkem : Bool) (gcm : Bool) : Calm s₀ (negotiateAlgorithms t sha3 mldsa mlkem gcm s) := by
  unfold negotiateAlgorithms
  repeat' first
    | with_reducible assumption
    | with_reducible apply State.putSpdm_calm
    | with_reducible apply State.spdmAnswer_calm
    | with_reducible apply State.spdmOn_calm
    | (intro h; simp at h; done)
    | exact id
    | intro _
    | split
    | dsimp only
    | with_reducible rfl
    | simp
    | omega

theorem getDigests_calm {s₀ s : State} (k : Calm s₀ s) (t : Transport) : Calm s₀ (getDigests t s) := by
  unfold getDigests
  repeat' first
    | with_reducible assumption
    | with_reducible apply State.spdmAnswer_calm
    | with_reducible apply State.spdmOn_calm
    | (intro h; simp at h; done)
    | exact id
    | intro _
    | split
    | dsimp only
    | with_reducible rfl
    | simp
    | omega

theorem getCertificate_calm {s₀ s : State} (k : Calm s₀ s) (t : Transport) (slot : Nat) (off : Nat) (len : Nat) : Calm s₀ (getCertificate t slot off len s) := by
  unfold getCertificate
  repeat' first
    | with_reducible assumption
    | with_reducible apply State.take_alive
    | with_reducible apply State.spdmAnswer_calm
    | with_reducible apply State.spdmOn_calm
    | (intro h; simp at h; done)
    | exact id
    | intro _
    | split
    | dsimp only
    | with_reducible rfl
    | simp
    | omega

theorem State.entropyBytes_calm {s₀ s : State} (k : Calm s₀ s) (n : Nat) : Calm s₀ (State.entropyBytes s n).2 := by
  unfold State.entropyBytes
  repeat' first
    | with_reducible assumption
    | with_reducible apply State.entropyDraw_calm
    | (intro h; simp at h; done)
    | exact id
    | intro _
    | split
    | dsimp only
    | refine Calm.snd (by assumption) ?_
    | refine Calm.fst (by assumption) ?_
    | with_reducible rfl
    | simp
    | omega

theorem challenge_calm {s₀ s : State} (k : Calm s₀ s) (t : Transport) (slot : Nat) (nonce : List Byte) : Calm s₀ (challenge t slot nonce s) := by
  unfold challenge
  repeat' first
    | with_reducible assumption
    | with_reducible apply State.spdmAnswer_calm
    | with_reducible apply State.spdmOn_calm
    | with_reducible apply State.entropyBytes_calm
    | (intro h; simp at h; done)
    | exact id
    | intro _
    | split
    | dsimp only
    | refine Calm.snd (by assumption) ?_
    | refine Calm.fst (by assumption) ?_
    | with_reducible rfl
    | simp
    | omega

theorem getMeasurements_calm {s₀ s : State} (k : Calm s₀ s) (t : Transport) (index : Nat) (nonce : List Byte) : Calm s₀ (getMeasurements t index nonce s) := by
  unfold getMeasurements
  repeat' first
    | with_reducible assumption
    | with_reducible apply State.spdmAnswer_calm
    | with_reducible apply State.spdmOn_calm
    | with_reducible apply State.entropyBytes_calm
    | (intro h; simp at h; done)
    | exact id
    | intro _
    | split
    | dsimp only
    | refine Calm.snd (by assumption) ?_
    | refine Calm.fst (by assumption) ?_
    | with_reducible rfl
    | simp
    | omega

theorem keyExchange_calm {s₀ s : State} (k : Calm s₀ s) (t : Transport) (ek : List Byte) : Calm s₀ (keyExchange t ek s) := by
  unfold keyExchange
  repeat' first
    | with_reducible assumption
    | with_reducible apply State.entropyDraw_calm
    | with_reducible apply State.putSpdm_calm
    | with_reducible apply State.spdmAnswer_calm
    | with_reducible apply State.spdmOn_calm
    | with_reducible apply State.entropyBytes_calm
    | (intro h; simp at h; done)
    | exact id
    | intro _
    | split
    | dsimp only
    | refine Calm.snd (by assumption) ?_
    | refine Calm.fst (by assumption) ?_
    | with_reducible rfl
    | simp
    | omega

theorem finish_calm {s₀ s : State} (k : Calm s₀ s) (t : Transport) (mac : List Byte) : Calm s₀ (finish t mac s) := by
  unfold finish
  repeat' first
    | with_reducible assumption
    | with_reducible apply State.putSpdm_calm
    | with_reducible apply State.spdmAnswer_calm
    | with_reducible apply State.spdmRefuse_calm
    | with_reducible apply State.spdmOn_calm
    | (intro h; simp at h; done)
    | exact id
    | intro _
    | split
    | dsimp only
    | with_reducible rfl
    | simp
    | omega

theorem heartbeat_calm {s₀ s : State} (k : Calm s₀ s) (t : Transport) : Calm s₀ (heartbeat t s) := by
  unfold heartbeat
  repeat' first
    | with_reducible assumption
    | with_reducible apply State.spdmAnswer_calm
    | with_reducible apply State.spdmOn_calm
    | (intro h; simp at h; done)
    | exact id
    | intro _
    | split
    | dsimp only
    | with_reducible rfl
    | simp
    | omega

theorem keyUpdate_calm {s₀ s : State} (k : Calm s₀ s) (t : Transport) (all : Bool) : Calm s₀ (keyUpdate t all s) := by
  unfold keyUpdate
  repeat' first
    | with_reducible assumption
    | with_reducible apply State.putSpdm_calm
    | with_reducible apply State.spdmAnswer_calm
    | with_reducible apply State.spdmOn_calm
    | (intro h; simp at h; done)
    | exact id
    | intro _
    | split
    | dsimp only
    | with_reducible rfl
    | simp
    | omega

theorem endSession_calm {s₀ s : State} (k : Calm s₀ s) (t : Transport) : Calm s₀ (endSession t s) := by
  unfold endSession
  repeat' first
    | with_reducible assumption
    | with_reducible apply State.putSpdm_calm
    | with_reducible apply State.spdmAnswer_calm
    | with_reducible apply State.spdmOn_calm
    | (intro h; simp at h; done)
    | exact id
    | intro _
    | split
    | dsimp only
    | with_reducible rfl
    | simp
    | omega

theorem chunkGet_calm {s₀ s : State} (k : Calm s₀ s) (t : Transport) (index : Nat) : Calm s₀ (chunkGet t index s) := by
  unfold chunkGet
  repeat' first
    | with_reducible assumption
    | with_reducible apply State.setReply_calm
    | with_reducible apply State.take_alive
    | with_reducible apply State.spdmOn_calm
    | (intro h; simp at h; done)
    | exact id
    | intro _
    | split
    | dsimp only
    | with_reducible rfl
    | simp
    | omega

theorem vendorDefinedRequest_calm {s₀ s : State} (k : Calm s₀ s) (t : Transport) (stream : IdeStream) (key : List Byte) : Calm s₀ (vendorDefinedRequest t stream key s) := by
  unfold vendorDefinedRequest
  repeat' first
    | with_reducible assumption
    | with_reducible apply State.spdmAnswer_calm
    | with_reducible apply State.spdmOn_calm
    | with_reducible apply calm_setPort
    | (intro h; simp at h; done)
    | exact id
    | intro _
    | split
    | dsimp only
    | refine Calm.snd (by assumption) ?_
    | refine Calm.fst (by assumption) ?_
    | with_reducible rfl
    | simp
    | omega

end Sys2Proof.Machine
end

