-- ==== Sys2Proof/Laws/Frames.lean ====
section
/-! SUPPORT. Laws/Frames.lean: what the shared operations leave as it was. -/

namespace Sys2Proof.Machine

/-! ### `State.setSlot` -/

@[simp] theorem State.setSlot_hub (s : State) (fn : Nat) (b : Slot) : (s.setSlot fn b).hub = s.hub := rfl
@[simp] theorem State.setSlot_port (s : State) (fn : Nat) (b : Slot) : (s.setSlot fn b).port = s.port := rfl
@[simp] theorem State.setSlot_flights (s : State) (fn : Nat) (b : Slot) : (s.setSlot fn b).flights = s.flights := rfl
@[simp] theorem State.setSlot_parts (s : State) (fn : Nat) (b : Slot) : (s.setSlot fn b).parts = s.parts := rfl
@[simp] theorem State.setSlot_nextHandle (s : State) (fn : Nat) (b : Slot) : (s.setSlot fn b).nextHandle = s.nextHandle := rfl
@[simp] theorem State.setSlot_slabs (s : State) (fn : Nat) (b : Slot) : (s.setSlot fn b).slabs = s.slabs := rfl
@[simp] theorem State.setSlot_codec (s : State) (fn : Nat) (b : Slot) : (s.setSlot fn b).codec = s.codec := rfl
@[simp] theorem State.setSlot_geode (s : State) (fn : Nat) (b : Slot) : (s.setSlot fn b).geode = s.geode := rfl
@[simp] theorem State.setSlot_talus (s : State) (fn : Nat) (b : Slot) : (s.setSlot fn b).talus = s.talus := rfl
@[simp] theorem State.setSlot_power (s : State) (fn : Nat) (b : Slot) : (s.setSlot fn b).power = s.power := rfl
@[simp] theorem State.setSlot_host (s : State) (fn : Nat) (b : Slot) : (s.setSlot fn b).host = s.host := rfl
@[simp] theorem State.setSlot_free (s : State) (fn : Nat) (b : Slot) : (s.setSlot fn b).free = s.free := rfl
@[simp] theorem State.setSlot_pending (s : State) (fn : Nat) (b : Slot) : (s.setSlot fn b).pending = s.pending := rfl

/-! ### `State.modCtx` -/

@[simp] theorem State.modCtx_hub (s : State) (p n : Nat) (f : Ctx → Ctx) : (s.modCtx p n f).hub = s.hub := rfl
@[simp] theorem State.modCtx_port (s : State) (p n : Nat) (f : Ctx → Ctx) : (s.modCtx p n f).port = s.port := rfl
@[simp] theorem State.modCtx_fns (s : State) (p n : Nat) (f : Ctx → Ctx) : (s.modCtx p n f).fns = s.fns := rfl
@[simp] theorem State.modCtx_flights (s : State) (p n : Nat) (f : Ctx → Ctx) : (s.modCtx p n f).flights = s.flights := rfl
@[simp] theorem State.modCtx_nextHandle (s : State) (p n : Nat) (f : Ctx → Ctx) : (s.modCtx p n f).nextHandle = s.nextHandle := rfl
@[simp] theorem State.modCtx_slabs (s : State) (p n : Nat) (f : Ctx → Ctx) : (s.modCtx p n f).slabs = s.slabs := rfl
@[simp] theorem State.modCtx_codec (s : State) (p n : Nat) (f : Ctx → Ctx) : (s.modCtx p n f).codec = s.codec := rfl
@[simp] theorem State.modCtx_geode (s : State) (p n : Nat) (f : Ctx → Ctx) : (s.modCtx p n f).geode = s.geode := rfl
@[simp] theorem State.modCtx_talus (s : State) (p n : Nat) (f : Ctx → Ctx) : (s.modCtx p n f).talus = s.talus := rfl
@[simp] theorem State.modCtx_power (s : State) (p n : Nat) (f : Ctx → Ctx) : (s.modCtx p n f).power = s.power := rfl
@[simp] theorem State.modCtx_host (s : State) (p n : Nat) (f : Ctx → Ctx) : (s.modCtx p n f).host = s.host := rfl
@[simp] theorem State.modCtx_free (s : State) (p n : Nat) (f : Ctx → Ctx) : (s.modCtx p n f).free = s.free := rfl
@[simp] theorem State.modCtx_pending (s : State) (p n : Nat) (f : Ctx → Ctx) : (s.modCtx p n f).pending = s.pending := rfl

/-! ### `State.failCmd` -/

@[simp] theorem State.failCmd_hub (s : State) (f : Flight) (c : St) (x y : Nat) : (s.failCmd f c x y).hub = s.hub := rfl
@[simp] theorem State.failCmd_port (s : State) (f : Flight) (c : St) (x y : Nat) : (s.failCmd f c x y).port = s.port := rfl
@[simp] theorem State.failCmd_fns (s : State) (f : Flight) (c : St) (x y : Nat) : (s.failCmd f c x y).fns = s.fns := rfl
@[simp] theorem State.failCmd_parts (s : State) (f : Flight) (c : St) (x y : Nat) : (s.failCmd f c x y).parts = s.parts := rfl
@[simp] theorem State.failCmd_nextHandle (s : State) (f : Flight) (c : St) (x y : Nat) : (s.failCmd f c x y).nextHandle = s.nextHandle := rfl
@[simp] theorem State.failCmd_slabs (s : State) (f : Flight) (c : St) (x y : Nat) : (s.failCmd f c x y).slabs = s.slabs := rfl
@[simp] theorem State.failCmd_codec (s : State) (f : Flight) (c : St) (x y : Nat) : (s.failCmd f c x y).codec = s.codec := rfl
@[simp] theorem State.failCmd_geode (s : State) (f : Flight) (c : St) (x y : Nat) : (s.failCmd f c x y).geode = s.geode := rfl
@[simp] theorem State.failCmd_talus (s : State) (f : Flight) (c : St) (x y : Nat) : (s.failCmd f c x y).talus = s.talus := rfl
@[simp] theorem State.failCmd_power (s : State) (f : Flight) (c : St) (x y : Nat) : (s.failCmd f c x y).power = s.power := rfl
@[simp] theorem State.failCmd_host (s : State) (f : Flight) (c : St) (x y : Nat) : (s.failCmd f c x y).host = s.host := rfl
@[simp] theorem State.failCmd_free (s : State) (f : Flight) (c : St) (x y : Nat) : (s.failCmd f c x y).free = s.free := rfl
@[simp] theorem State.failCmd_pending (s : State) (f : Flight) (c : St) (x y : Nat) : (s.failCmd f c x y).pending = s.pending := rfl

/-! ### `State.okCmd` -/

@[simp] theorem State.okCmd_hub (s : State) (f : Flight) (v : Nat) (o : List OutBuf) (d : Nat) : (s.okCmd f v o d).hub = s.hub := rfl
@[simp] theorem State.okCmd_port (s : State) (f : Flight) (v : Nat) (o : List OutBuf) (d : Nat) : (s.okCmd f v o d).port = s.port := rfl
@[simp] theorem State.okCmd_fns (s : State) (f : Flight) (v : Nat) (o : List OutBuf) (d : Nat) : (s.okCmd f v o d).fns = s.fns := rfl
@[simp] theorem State.okCmd_parts (s : State) (f : Flight) (v : Nat) (o : List OutBuf) (d : Nat) : (s.okCmd f v o d).parts = s.parts := rfl
@[simp] theorem State.okCmd_nextHandle (s : State) (f : Flight) (v : Nat) (o : List OutBuf) (d : Nat) : (s.okCmd f v o d).nextHandle = s.nextHandle := rfl
@[simp] theorem State.okCmd_slabs (s : State) (f : Flight) (v : Nat) (o : List OutBuf) (d : Nat) : (s.okCmd f v o d).slabs = s.slabs := rfl
@[simp] theorem State.okCmd_codec (s : State) (f : Flight) (v : Nat) (o : List OutBuf) (d : Nat) : (s.okCmd f v o d).codec = s.codec := rfl
@[simp] theorem State.okCmd_geode (s : State) (f : Flight) (v : Nat) (o : List OutBuf) (d : Nat) : (s.okCmd f v o d).geode = s.geode := rfl
@[simp] theorem State.okCmd_talus (s : State) (f : Flight) (v : Nat) (o : List OutBuf) (d : Nat) : (s.okCmd f v o d).talus = s.talus := rfl
@[simp] theorem State.okCmd_power (s : State) (f : Flight) (v : Nat) (o : List OutBuf) (d : Nat) : (s.okCmd f v o d).power = s.power := rfl
@[simp] theorem State.okCmd_host (s : State) (f : Flight) (v : Nat) (o : List OutBuf) (d : Nat) : (s.okCmd f v o d).host = s.host := rfl
@[simp] theorem State.okCmd_free (s : State) (f : Flight) (v : Nat) (o : List OutBuf) (d : Nat) : (s.okCmd f v o d).free = s.free := rfl
@[simp] theorem State.okCmd_pending (s : State) (f : Flight) (v : Nat) (o : List OutBuf) (d : Nat) : (s.okCmd f v o d).pending = s.pending := rfl

/-! ### `State.busyCmd` -/

@[simp] theorem State.busyCmd_hub (s : State) (f : Flight) (w : List Nat) : (s.busyCmd f w).hub = s.hub := rfl
@[simp] theorem State.busyCmd_port (s : State) (f : Flight) (w : List Nat) : (s.busyCmd f w).port = s.port := rfl
@[simp] theorem State.busyCmd_fns (s : State) (f : Flight) (w : List Nat) : (s.busyCmd f w).fns = s.fns := rfl
@[simp] theorem State.busyCmd_parts (s : State) (f : Flight) (w : List Nat) : (s.busyCmd f w).parts = s.parts := rfl
@[simp] theorem State.busyCmd_nextHandle (s : State) (f : Flight) (w : List Nat) : (s.busyCmd f w).nextHandle = s.nextHandle := rfl
@[simp] theorem State.busyCmd_slabs (s : State) (f : Flight) (w : List Nat) : (s.busyCmd f w).slabs = s.slabs := rfl
@[simp] theorem State.busyCmd_codec (s : State) (f : Flight) (w : List Nat) : (s.busyCmd f w).codec = s.codec := rfl
@[simp] theorem State.busyCmd_geode (s : State) (f : Flight) (w : List Nat) : (s.busyCmd f w).geode = s.geode := rfl
@[simp] theorem State.busyCmd_talus (s : State) (f : Flight) (w : List Nat) : (s.busyCmd f w).talus = s.talus := rfl
@[simp] theorem State.busyCmd_power (s : State) (f : Flight) (w : List Nat) : (s.busyCmd f w).power = s.power := rfl
@[simp] theorem State.busyCmd_host (s : State) (f : Flight) (w : List Nat) : (s.busyCmd f w).host = s.host := rfl
@[simp] theorem State.busyCmd_free (s : State) (f : Flight) (w : List Nat) : (s.busyCmd f w).free = s.free := rfl
@[simp] theorem State.busyCmd_pending (s : State) (f : Flight) (w : List Nat) : (s.busyCmd f w).pending = s.pending := rfl

/-! ### `State.dropBad` -/

@[simp] theorem State.dropBad_hub (s : State) (p : Place → Bool) : (s.dropBad p).hub = s.hub := rfl
@[simp] theorem State.dropBad_port (s : State) (p : Place → Bool) : (s.dropBad p).port = s.port := rfl
@[simp] theorem State.dropBad_fns (s : State) (p : Place → Bool) : (s.dropBad p).fns = s.fns := rfl
@[simp] theorem State.dropBad_flights (s : State) (p : Place → Bool) : (s.dropBad p).flights = s.flights := rfl
@[simp] theorem State.dropBad_parts (s : State) (p : Place → Bool) : (s.dropBad p).parts = s.parts := rfl
@[simp] theorem State.dropBad_nextHandle (s : State) (p : Place → Bool) : (s.dropBad p).nextHandle = s.nextHandle := rfl
@[simp] theorem State.dropBad_codec (s : State) (p : Place → Bool) : (s.dropBad p).codec = s.codec := rfl
@[simp] theorem State.dropBad_geode (s : State) (p : Place → Bool) : (s.dropBad p).geode = s.geode := rfl
@[simp] theorem State.dropBad_talus (s : State) (p : Place → Bool) : (s.dropBad p).talus = s.talus := rfl
@[simp] theorem State.dropBad_power (s : State) (p : Place → Bool) : (s.dropBad p).power = s.power := rfl
@[simp] theorem State.dropBad_host (s : State) (p : Place → Bool) : (s.dropBad p).host = s.host := rfl
@[simp] theorem State.dropBad_free (s : State) (p : Place → Bool) : (s.dropBad p).free = s.free := rfl
@[simp] theorem State.dropBad_pending (s : State) (p : Place → Bool) : (s.dropBad p).pending = s.pending := rfl

/-! ### `State.modRegion` -/

@[simp] theorem State.modRegion_hub (s : State) (p h : Nat) (g : Region → Region) : (s.modRegion p h g).hub = s.hub := rfl
@[simp] theorem State.modRegion_port (s : State) (p h : Nat) (g : Region → Region) : (s.modRegion p h g).port = s.port := rfl
@[simp] theorem State.modRegion_fns (s : State) (p h : Nat) (g : Region → Region) : (s.modRegion p h g).fns = s.fns := rfl
@[simp] theorem State.modRegion_flights (s : State) (p h : Nat) (g : Region → Region) : (s.modRegion p h g).flights = s.flights := rfl
@[simp] theorem State.modRegion_nextHandle (s : State) (p h : Nat) (g : Region → Region) : (s.modRegion p h g).nextHandle = s.nextHandle := rfl
@[simp] theorem State.modRegion_slabs (s : State) (p h : Nat) (g : Region → Region) : (s.modRegion p h g).slabs = s.slabs := rfl
@[simp] theorem State.modRegion_codec (s : State) (p h : Nat) (g : Region → Region) : (s.modRegion p h g).codec = s.codec := rfl
@[simp] theorem State.modRegion_geode (s : State) (p h : Nat) (g : Region → Region) : (s.modRegion p h g).geode = s.geode := rfl
@[simp] theorem State.modRegion_talus (s : State) (p h : Nat) (g : Region → Region) : (s.modRegion p h g).talus = s.talus := rfl
@[simp] theorem State.modRegion_power (s : State) (p h : Nat) (g : Region → Region) : (s.modRegion p h g).power = s.power := rfl
@[simp] theorem State.modRegion_host (s : State) (p h : Nat) (g : Region → Region) : (s.modRegion p h g).host = s.host := rfl
@[simp] theorem State.modRegion_free (s : State) (p h : Nat) (g : Region → Region) : (s.modRegion p h g).free = s.free := rfl
@[simp] theorem State.modRegion_pending (s : State) (p h : Nat) (g : Region → Region) : (s.modRegion p h g).pending = s.pending := rfl

/-! ### `State.modPlace` -/

@[simp] theorem State.modPlace_hub (s : State) (p h i k : Nat) (g : PlaceState → PlaceState) : (s.modPlace p h i k g).hub = s.hub := rfl
@[simp] theorem State.modPlace_port (s : State) (p h i k : Nat) (g : PlaceState → PlaceState) : (s.modPlace p h i k g).port = s.port := rfl
@[simp] theorem State.modPlace_fns (s : State) (p h i k : Nat) (g : PlaceState → PlaceState) : (s.modPlace p h i k g).fns = s.fns := rfl
@[simp] theorem State.modPlace_flights (s : State) (p h i k : Nat) (g : PlaceState → PlaceState) : (s.modPlace p h i k g).flights = s.flights := rfl
@[simp] theorem State.modPlace_nextHandle (s : State) (p h i k : Nat) (g : PlaceState → PlaceState) : (s.modPlace p h i k g).nextHandle = s.nextHandle := rfl
@[simp] theorem State.modPlace_slabs (s : State) (p h i k : Nat) (g : PlaceState → PlaceState) : (s.modPlace p h i k g).slabs = s.slabs := rfl
@[simp] theorem State.modPlace_codec (s : State) (p h i k : Nat) (g : PlaceState → PlaceState) : (s.modPlace p h i k g).codec = s.codec := rfl
@[simp] theorem State.modPlace_geode (s : State) (p h i k : Nat) (g : PlaceState → PlaceState) : (s.modPlace p h i k g).geode = s.geode := rfl
@[simp] theorem State.modPlace_talus (s : State) (p h i k : Nat) (g : PlaceState → PlaceState) : (s.modPlace p h i k g).talus = s.talus := rfl
@[simp] theorem State.modPlace_power (s : State) (p h i k : Nat) (g : PlaceState → PlaceState) : (s.modPlace p h i k g).power = s.power := rfl
@[simp] theorem State.modPlace_host (s : State) (p h i k : Nat) (g : PlaceState → PlaceState) : (s.modPlace p h i k g).host = s.host := rfl
@[simp] theorem State.modPlace_free (s : State) (p h i k : Nat) (g : PlaceState → PlaceState) : (s.modPlace p h i k g).free = s.free := rfl
@[simp] theorem State.modPlace_pending (s : State) (p h i k : Nat) (g : PlaceState → PlaceState) : (s.modPlace p h i k g).pending = s.pending := rfl

/-! ### `State.abortPart` -/

@[simp] theorem State.abortPart_hub (s : State) (p q : Nat) : (s.abortPart p q).hub = s.hub := rfl
@[simp] theorem State.abortPart_port (s : State) (p q : Nat) : (s.abortPart p q).port = s.port := rfl
@[simp] theorem State.abortPart_fns (s : State) (p q : Nat) : (s.abortPart p q).fns = s.fns := rfl
@[simp] theorem State.abortPart_parts (s : State) (p q : Nat) : (s.abortPart p q).parts = s.parts := rfl
@[simp] theorem State.abortPart_nextHandle (s : State) (p q : Nat) : (s.abortPart p q).nextHandle = s.nextHandle := rfl
@[simp] theorem State.abortPart_slabs (s : State) (p q : Nat) : (s.abortPart p q).slabs = s.slabs := rfl
@[simp] theorem State.abortPart_codec (s : State) (p q : Nat) : (s.abortPart p q).codec = s.codec := rfl
@[simp] theorem State.abortPart_geode (s : State) (p q : Nat) : (s.abortPart p q).geode = s.geode := rfl
@[simp] theorem State.abortPart_talus (s : State) (p q : Nat) : (s.abortPart p q).talus = s.talus := rfl
@[simp] theorem State.abortPart_power (s : State) (p q : Nat) : (s.abortPart p q).power = s.power := rfl
@[simp] theorem State.abortPart_host (s : State) (p q : Nat) : (s.abortPart p q).host = s.host := rfl
@[simp] theorem State.abortPart_free (s : State) (p q : Nat) : (s.abortPart p q).free = s.free := rfl
@[simp] theorem State.abortPart_pending (s : State) (p q : Nat) : (s.abortPart p q).pending = s.pending := rfl

/-! ### `State.disarmPartCtxs` -/

@[simp] theorem State.disarmPartCtxs_hub (s : State) (p : Nat) : (s.disarmPartCtxs p).hub = s.hub := rfl
@[simp] theorem State.disarmPartCtxs_port (s : State) (p : Nat) : (s.disarmPartCtxs p).port = s.port := rfl
@[simp] theorem State.disarmPartCtxs_fns (s : State) (p : Nat) : (s.disarmPartCtxs p).fns = s.fns := rfl
@[simp] theorem State.disarmPartCtxs_flights (s : State) (p : Nat) : (s.disarmPartCtxs p).flights = s.flights := rfl
@[simp] theorem State.disarmPartCtxs_parts (s : State) (p : Nat) : (s.disarmPartCtxs p).parts = s.parts := rfl
@[simp] theorem State.disarmPartCtxs_nextHandle (s : State) (p : Nat) : (s.disarmPartCtxs p).nextHandle = s.nextHandle := rfl
@[simp] theorem State.disarmPartCtxs_slabs (s : State) (p : Nat) : (s.disarmPartCtxs p).slabs = s.slabs := rfl
@[simp] theorem State.disarmPartCtxs_codec (s : State) (p : Nat) : (s.disarmPartCtxs p).codec = s.codec := rfl
@[simp] theorem State.disarmPartCtxs_geode (s : State) (p : Nat) : (s.disarmPartCtxs p).geode = s.geode := rfl
@[simp] theorem State.disarmPartCtxs_power (s : State) (p : Nat) : (s.disarmPartCtxs p).power = s.power := rfl
@[simp] theorem State.disarmPartCtxs_host (s : State) (p : Nat) : (s.disarmPartCtxs p).host = s.host := rfl
@[simp] theorem State.disarmPartCtxs_free (s : State) (p : Nat) : (s.disarmPartCtxs p).free = s.free := rfl
@[simp] theorem State.disarmPartCtxs_pending (s : State) (p : Nat) : (s.disarmPartCtxs p).pending = s.pending := rfl

/-! ### `State.disarmCtx` -/

@[simp] theorem State.disarmCtx_hub (s : State) (p c : Nat) : (s.disarmCtx p c).hub = s.hub := rfl
@[simp] theorem State.disarmCtx_port (s : State) (p c : Nat) : (s.disarmCtx p c).port = s.port := rfl
@[simp] theorem State.disarmCtx_fns (s : State) (p c : Nat) : (s.disarmCtx p c).fns = s.fns := rfl
@[simp] theorem State.disarmCtx_flights (s : State) (p c : Nat) : (s.disarmCtx p c).flights = s.flights := rfl
@[simp] theorem State.disarmCtx_parts (s : State) (p c : Nat) : (s.disarmCtx p c).parts = s.parts := rfl
@[simp] theorem State.disarmCtx_nextHandle (s : State) (p c : Nat) : (s.disarmCtx p c).nextHandle = s.nextHandle := rfl
@[simp] theorem State.disarmCtx_slabs (s : State) (p c : Nat) : (s.disarmCtx p c).slabs = s.slabs := rfl
@[simp] theorem State.disarmCtx_codec (s : State) (p c : Nat) : (s.disarmCtx p c).codec = s.codec := rfl
@[simp] theorem State.disarmCtx_geode (s : State) (p c : Nat) : (s.disarmCtx p c).geode = s.geode := rfl
@[simp] theorem State.disarmCtx_power (s : State) (p c : Nat) : (s.disarmCtx p c).power = s.power := rfl
@[simp] theorem State.disarmCtx_host (s : State) (p c : Nat) : (s.disarmCtx p c).host = s.host := rfl
@[simp] theorem State.disarmCtx_free (s : State) (p c : Nat) : (s.disarmCtx p c).free = s.free := rfl
@[simp] theorem State.disarmCtx_pending (s : State) (p c : Nat) : (s.disarmCtx p c).pending = s.pending := rfl

/-! ### `State.releaseGroups` -/

@[simp] theorem State.releaseGroups_hub (s : State) (p c : Nat) : (s.releaseGroups p c).hub = s.hub := rfl
@[simp] theorem State.releaseGroups_port (s : State) (p c : Nat) : (s.releaseGroups p c).port = s.port := rfl
@[simp] theorem State.releaseGroups_fns (s : State) (p c : Nat) : (s.releaseGroups p c).fns = s.fns := rfl
@[simp] theorem State.releaseGroups_flights (s : State) (p c : Nat) : (s.releaseGroups p c).flights = s.flights := rfl
@[simp] theorem State.releaseGroups_parts (s : State) (p c : Nat) : (s.releaseGroups p c).parts = s.parts := rfl
@[simp] theorem State.releaseGroups_nextHandle (s : State) (p c : Nat) : (s.releaseGroups p c).nextHandle = s.nextHandle := rfl
@[simp] theorem State.releaseGroups_codec (s : State) (p c : Nat) : (s.releaseGroups p c).codec = s.codec := rfl
@[simp] theorem State.releaseGroups_geode (s : State) (p c : Nat) : (s.releaseGroups p c).geode = s.geode := rfl
@[simp] theorem State.releaseGroups_talus (s : State) (p c : Nat) : (s.releaseGroups p c).talus = s.talus := rfl
@[simp] theorem State.releaseGroups_power (s : State) (p c : Nat) : (s.releaseGroups p c).power = s.power := rfl
@[simp] theorem State.releaseGroups_host (s : State) (p c : Nat) : (s.releaseGroups p c).host = s.host := rfl
@[simp] theorem State.releaseGroups_free (s : State) (p c : Nat) : (s.releaseGroups p c).free = s.free := rfl
@[simp] theorem State.releaseGroups_pending (s : State) (p c : Nat) : (s.releaseGroups p c).pending = s.pending := rfl

/-! ### `State.releaseGroup` -/

@[simp] theorem State.releaseGroup_hub (s : State) (p c l : Nat) : (s.releaseGroup p c l).hub = s.hub := rfl
@[simp] theorem State.releaseGroup_port (s : State) (p c l : Nat) : (s.releaseGroup p c l).port = s.port := rfl
@[simp] theorem State.releaseGroup_fns (s : State) (p c l : Nat) : (s.releaseGroup p c l).fns = s.fns := rfl
@[simp] theorem State.releaseGroup_flights (s : State) (p c l : Nat) : (s.releaseGroup p c l).flights = s.flights := rfl
@[simp] theorem State.releaseGroup_parts (s : State) (p c l : Nat) : (s.releaseGroup p c l).parts = s.parts := rfl
@[simp] theorem State.releaseGroup_nextHandle (s : State) (p c l : Nat) : (s.releaseGroup p c l).nextHandle = s.nextHandle := rfl
@[simp] theorem State.releaseGroup_codec (s : State) (p c l : Nat) : (s.releaseGroup p c l).codec = s.codec := rfl
@[simp] theorem State.releaseGroup_geode (s : State) (p c l : Nat) : (s.releaseGroup p c l).geode = s.geode := rfl
@[simp] theorem State.releaseGroup_talus (s : State) (p c l : Nat) : (s.releaseGroup p c l).talus = s.talus := rfl
@[simp] theorem State.releaseGroup_power (s : State) (p c l : Nat) : (s.releaseGroup p c l).power = s.power := rfl
@[simp] theorem State.releaseGroup_host (s : State) (p c l : Nat) : (s.releaseGroup p c l).host = s.host := rfl
@[simp] theorem State.releaseGroup_free (s : State) (p c l : Nat) : (s.releaseGroup p c l).free = s.free := rfl
@[simp] theorem State.releaseGroup_pending (s : State) (p c l : Nat) : (s.releaseGroup p c l).pending = s.pending := rfl

/-! ### `State.setReply` -/

@[simp] theorem State.setReply_port (s : State) (r : Reply) : (s.setReply r).port = s.port := rfl
@[simp] theorem State.setReply_fns (s : State) (r : Reply) : (s.setReply r).fns = s.fns := rfl
@[simp] theorem State.setReply_flights (s : State) (r : Reply) : (s.setReply r).flights = s.flights := rfl
@[simp] theorem State.setReply_parts (s : State) (r : Reply) : (s.setReply r).parts = s.parts := rfl
@[simp] theorem State.setReply_nextHandle (s : State) (r : Reply) : (s.setReply r).nextHandle = s.nextHandle := rfl
@[simp] theorem State.setReply_slabs (s : State) (r : Reply) : (s.setReply r).slabs = s.slabs := rfl
@[simp] theorem State.setReply_codec (s : State) (r : Reply) : (s.setReply r).codec = s.codec := rfl
@[simp] theorem State.setReply_geode (s : State) (r : Reply) : (s.setReply r).geode = s.geode := rfl
@[simp] theorem State.setReply_talus (s : State) (r : Reply) : (s.setReply r).talus = s.talus := rfl
@[simp] theorem State.setReply_power (s : State) (r : Reply) : (s.setReply r).power = s.power := rfl
@[simp] theorem State.setReply_host (s : State) (r : Reply) : (s.setReply r).host = s.host := rfl
@[simp] theorem State.setReply_free (s : State) (r : Reply) : (s.setReply r).free = s.free := rfl
@[simp] theorem State.setReply_pending (s : State) (r : Reply) : (s.setReply r).pending = s.pending := rfl

/-! ### `State.modSession` -/

@[simp] theorem State.modSession_hub (s : State) (h : Nat) (g : CodecSession → CodecSession) : (s.modSession h g).hub = s.hub := rfl
@[simp] theorem State.modSession_port (s : State) (h : Nat) (g : CodecSession → CodecSession) : (s.modSession h g).port = s.port := rfl
@[simp] theorem State.modSession_fns (s : State) (h : Nat) (g : CodecSession → CodecSession) : (s.modSession h g).fns = s.fns := rfl
@[simp] theorem State.modSession_flights (s : State) (h : Nat) (g : CodecSession → CodecSession) : (s.modSession h g).flights = s.flights := rfl
@[simp] theorem State.modSession_parts (s : State) (h : Nat) (g : CodecSession → CodecSession) : (s.modSession h g).parts = s.parts := rfl
@[simp] theorem State.modSession_nextHandle (s : State) (h : Nat) (g : CodecSession → CodecSession) : (s.modSession h g).nextHandle = s.nextHandle := rfl
@[simp] theorem State.modSession_slabs (s : State) (h : Nat) (g : CodecSession → CodecSession) : (s.modSession h g).slabs = s.slabs := rfl
@[simp] theorem State.modSession_geode (s : State) (h : Nat) (g : CodecSession → CodecSession) : (s.modSession h g).geode = s.geode := rfl
@[simp] theorem State.modSession_talus (s : State) (h : Nat) (g : CodecSession → CodecSession) : (s.modSession h g).talus = s.talus := rfl
@[simp] theorem State.modSession_power (s : State) (h : Nat) (g : CodecSession → CodecSession) : (s.modSession h g).power = s.power := rfl
@[simp] theorem State.modSession_host (s : State) (h : Nat) (g : CodecSession → CodecSession) : (s.modSession h g).host = s.host := rfl
@[simp] theorem State.modSession_free (s : State) (h : Nat) (g : CodecSession → CodecSession) : (s.modSession h g).free = s.free := rfl
@[simp] theorem State.modSession_pending (s : State) (h : Nat) (g : CodecSession → CodecSession) : (s.modSession h g).pending = s.pending := rfl

/-! ### `State.modCores` -/

@[simp] theorem State.modCores_hub (s : State) (on : List Nat) (g : Core → Core) : (s.modCores on g).hub = s.hub := rfl
@[simp] theorem State.modCores_port (s : State) (on : List Nat) (g : Core → Core) : (s.modCores on g).port = s.port := rfl
@[simp] theorem State.modCores_fns (s : State) (on : List Nat) (g : Core → Core) : (s.modCores on g).fns = s.fns := rfl
@[simp] theorem State.modCores_flights (s : State) (on : List Nat) (g : Core → Core) : (s.modCores on g).flights = s.flights := rfl
@[simp] theorem State.modCores_parts (s : State) (on : List Nat) (g : Core → Core) : (s.modCores on g).parts = s.parts := rfl
@[simp] theorem State.modCores_nextHandle (s : State) (on : List Nat) (g : Core → Core) : (s.modCores on g).nextHandle = s.nextHandle := rfl
@[simp] theorem State.modCores_slabs (s : State) (on : List Nat) (g : Core → Core) : (s.modCores on g).slabs = s.slabs := rfl
@[simp] theorem State.modCores_geode (s : State) (on : List Nat) (g : Core → Core) : (s.modCores on g).geode = s.geode := rfl
@[simp] theorem State.modCores_talus (s : State) (on : List Nat) (g : Core → Core) : (s.modCores on g).talus = s.talus := rfl
@[simp] theorem State.modCores_power (s : State) (on : List Nat) (g : Core → Core) : (s.modCores on g).power = s.power := rfl
@[simp] theorem State.modCores_host (s : State) (on : List Nat) (g : Core → Core) : (s.modCores on g).host = s.host := rfl
@[simp] theorem State.modCores_free (s : State) (on : List Nat) (g : Core → Core) : (s.modCores on g).free = s.free := rfl
@[simp] theorem State.modCores_pending (s : State) (on : List Nat) (g : Core → Core) : (s.modCores on g).pending = s.pending := rfl

/-! ### `State.closeWindow` -/

@[simp] theorem State.closeWindow_hub (s : State) (p : Nat) : (s.closeWindow p).hub = s.hub := rfl
@[simp] theorem State.closeWindow_fns (s : State) (p : Nat) : (s.closeWindow p).fns = s.fns := rfl
@[simp] theorem State.closeWindow_flights (s : State) (p : Nat) : (s.closeWindow p).flights = s.flights := rfl
@[simp] theorem State.closeWindow_parts (s : State) (p : Nat) : (s.closeWindow p).parts = s.parts := rfl
@[simp] theorem State.closeWindow_nextHandle (s : State) (p : Nat) : (s.closeWindow p).nextHandle = s.nextHandle := rfl
@[simp] theorem State.closeWindow_slabs (s : State) (p : Nat) : (s.closeWindow p).slabs = s.slabs := rfl
@[simp] theorem State.closeWindow_codec (s : State) (p : Nat) : (s.closeWindow p).codec = s.codec := rfl
@[simp] theorem State.closeWindow_geode (s : State) (p : Nat) : (s.closeWindow p).geode = s.geode := rfl
@[simp] theorem State.closeWindow_talus (s : State) (p : Nat) : (s.closeWindow p).talus = s.talus := rfl
@[simp] theorem State.closeWindow_power (s : State) (p : Nat) : (s.closeWindow p).power = s.power := rfl
@[simp] theorem State.closeWindow_host (s : State) (p : Nat) : (s.closeWindow p).host = s.host := rfl
@[simp] theorem State.closeWindow_free (s : State) (p : Nat) : (s.closeWindow p).free = s.free := rfl
@[simp] theorem State.closeWindow_pending (s : State) (p : Nat) : (s.closeWindow p).pending = s.pending := rfl

/-! ### `State.release` -/

@[simp] theorem State.release_hub (s : State) (p h : Nat) : (s.release p h).hub = s.hub := rfl
@[simp] theorem State.release_port (s : State) (p h : Nat) : (s.release p h).port = s.port := rfl
@[simp] theorem State.release_fns (s : State) (p h : Nat) : (s.release p h).fns = s.fns := rfl
@[simp] theorem State.release_flights (s : State) (p h : Nat) : (s.release p h).flights = s.flights := rfl
@[simp] theorem State.release_nextHandle (s : State) (p h : Nat) : (s.release p h).nextHandle = s.nextHandle := rfl
@[simp] theorem State.release_slabs (s : State) (p h : Nat) : (s.release p h).slabs = s.slabs := rfl
@[simp] theorem State.release_codec (s : State) (p h : Nat) : (s.release p h).codec = s.codec := rfl
@[simp] theorem State.release_geode (s : State) (p h : Nat) : (s.release p h).geode = s.geode := rfl
@[simp] theorem State.release_talus (s : State) (p h : Nat) : (s.release p h).talus = s.talus := rfl
@[simp] theorem State.release_power (s : State) (p h : Nat) : (s.release p h).power = s.power := rfl
@[simp] theorem State.release_host (s : State) (p h : Nat) : (s.release p h).host = s.host := rfl
@[simp] theorem State.release_free (s : State) (p h : Nat) : (s.release p h).free = s.free := rfl
@[simp] theorem State.release_pending (s : State) (p h : Nat) : (s.release p h).pending = s.pending := rfl

/-! ### `State.modDomain` -/

@[simp] theorem State.modDomain_hub (s : State) (d : Nat) (g : Domain → Domain) : (s.modDomain d g).hub = s.hub := rfl
@[simp] theorem State.modDomain_port (s : State) (d : Nat) (g : Domain → Domain) : (s.modDomain d g).port = s.port := rfl
@[simp] theorem State.modDomain_fns (s : State) (d : Nat) (g : Domain → Domain) : (s.modDomain d g).fns = s.fns := rfl
@[simp] theorem State.modDomain_flights (s : State) (d : Nat) (g : Domain → Domain) : (s.modDomain d g).flights = s.flights := rfl
@[simp] theorem State.modDomain_parts (s : State) (d : Nat) (g : Domain → Domain) : (s.modDomain d g).parts = s.parts := rfl
@[simp] theorem State.modDomain_nextHandle (s : State) (d : Nat) (g : Domain → Domain) : (s.modDomain d g).nextHandle = s.nextHandle := rfl
@[simp] theorem State.modDomain_slabs (s : State) (d : Nat) (g : Domain → Domain) : (s.modDomain d g).slabs = s.slabs := rfl
@[simp] theorem State.modDomain_codec (s : State) (d : Nat) (g : Domain → Domain) : (s.modDomain d g).codec = s.codec := rfl
@[simp] theorem State.modDomain_geode (s : State) (d : Nat) (g : Domain → Domain) : (s.modDomain d g).geode = s.geode := rfl
@[simp] theorem State.modDomain_talus (s : State) (d : Nat) (g : Domain → Domain) : (s.modDomain d g).talus = s.talus := rfl
@[simp] theorem State.modDomain_host (s : State) (d : Nat) (g : Domain → Domain) : (s.modDomain d g).host = s.host := rfl
@[simp] theorem State.modDomain_free (s : State) (d : Nat) (g : Domain → Domain) : (s.modDomain d g).free = s.free := rfl
@[simp] theorem State.modDomain_pending (s : State) (d : Nat) (g : Domain → Domain) : (s.modDomain d g).pending = s.pending := rfl

/-! ### `State.teardown` -/

@[simp] theorem State.teardown_hub (s : State) (p c : Nat) : (s.teardown p c).hub = s.hub := by simp [State.teardown]
@[simp] theorem State.teardown_port (s : State) (p c : Nat) : (s.teardown p c).port = s.port := by simp [State.teardown]
@[simp] theorem State.teardown_fns (s : State) (p c : Nat) : (s.teardown p c).fns = s.fns := by simp [State.teardown]
@[simp] theorem State.teardown_flights (s : State) (p c : Nat) : (s.teardown p c).flights = s.flights := by simp [State.teardown]
@[simp] theorem State.teardown_nextHandle (s : State) (p c : Nat) : (s.teardown p c).nextHandle = s.nextHandle := by simp [State.teardown]
@[simp] theorem State.teardown_codec (s : State) (p c : Nat) : (s.teardown p c).codec = s.codec := by simp [State.teardown]
@[simp] theorem State.teardown_geode (s : State) (p c : Nat) : (s.teardown p c).geode = s.geode := by simp [State.teardown]
@[simp] theorem State.teardown_power (s : State) (p c : Nat) : (s.teardown p c).power = s.power := by simp [State.teardown]
@[simp] theorem State.teardown_host (s : State) (p c : Nat) : (s.teardown p c).host = s.host := by simp [State.teardown]
@[simp] theorem State.teardown_free (s : State) (p c : Nat) : (s.teardown p c).free = s.free := by simp [State.teardown]
@[simp] theorem State.teardown_pending (s : State) (p c : Nat) : (s.teardown p c).pending = s.pending := by simp [State.teardown]

end Sys2Proof.Machine
end

