-- ==== Sys2Proof/Laws/Events.lean ====
section
/-! SUPPORT. Laws/Events.lean: what the report of an event leaves as it was: it takes a number, writes records to host memory,
sends messages, and changes rings, alarms and armed points; everything else stays (R475 to R482). -/

set_option linter.all false

namespace Sys2Proof.Machine

/-- A function but for the messages it has sent and those that wait. -/
def Fn.bare (g : Fn) : Fn := { g with pba := [], sent := [] }

/-- From s to t only events were reported. -/
structure Told (s t : State) : Prop where
  pending : t.pending = s.pending
  parts : t.parts = s.parts
  slabs : t.slabs = s.slabs
  flights : t.flights = s.flights
  codec : t.codec = s.codec
  geode : t.geode = s.geode
  power : t.power = s.power
  port : t.port = s.port
  nextHandle : t.nextHandle = s.nextHandle
  free : t.free = s.free
  hub : t.hub = { s.hub with seq := t.hub.seq }
  seq : s.hub.seq ≤ t.hub.seq
  fns : t.fns.map Fn.bare = s.fns.map Fn.bare
  startup : t.talus.startup = s.talus.startup
  rings : t.talus.rings.length = s.talus.rings.length
  armed : s.talus.armed = [] → t.talus.armed = []

theorem Told.refl (s : State) : Told s s :=
  ⟨rfl, rfl, rfl, rfl, rfl, rfl, rfl, rfl, rfl, rfl, rfl, Nat.le_refl _, rfl, rfl, rfl, id⟩

theorem Told.trans {r s t : State} (h : Told r s) (k : Told s t) : Told r t :=
  ⟨k.pending.trans h.pending, k.parts.trans h.parts, k.slabs.trans h.slabs, k.flights.trans h.flights,
    k.codec.trans h.codec, k.geode.trans h.geode, k.power.trans h.power, k.port.trans h.port,
    k.nextHandle.trans h.nextHandle, k.free.trans h.free, by rw [k.hub, h.hub], Nat.le_trans h.seq k.seq,
    k.fns.trans h.fns, k.startup.trans h.startup, k.rings.trans h.rings, k.armed ∘ h.armed⟩

theorem Told.snd {r t : State} {α : Type} {p : α × State} {a : α} (e : p = (a, t)) (h : Told r p.2) : Told r t := by
  subst e; exact h

theorem Told.fst {r t : State} {α : Type} {p : State × α} {a : α} (e : p = (t, a)) (h : Told r p.1) : Told r t := by
  subst e; exact h

theorem Told.foldl {r : State} {α : Type} (g : State → α → State) (h : ∀ b a, Told r b → Told r (g b a)) (l : List α)
    {s : State} (k : Told r s) : Told r (l.foldl g s) := by
  induction l generalizing s with
  | nil => exact k
  | cons a t ih => exact ih (h _ _ k)

theorem Told.foldlFst {r : State} {α β : Type} (g : State × β → α → State × β)
    (h : ∀ b a, Told r b.1 → Told r (g b a).1) (l : List α) {p : State × β} (k : Told r p.1) : Told r (l.foldl g p).1 := by
  induction l generalizing p with
  | nil => exact k
  | cons a t ih => exact ih (h _ _ k)

theorem told_writeHost {r s : State} (k : Told r s) (fn a : Nat) (bs : List Byte) : Told r (s.writeHost fn a bs) :=
  k.trans ⟨rfl, rfl, rfl, rfl, rfl, rfl, rfl, rfl, rfl, rfl, rfl, Nat.le_refl _, rfl, rfl, rfl, id⟩

theorem told_modRing {r s : State} (k : Told r s) (i : Nat) (f : Ring → Ring) : Told r (s.modRing i f) :=
  k.trans ⟨rfl, rfl, rfl, rfl, rfl, rfl, rfl, rfl, rfl, rfl, rfl, Nat.le_refl _, rfl, rfl, by simp, id⟩

theorem modAt_map {α β : Type} (b : α → β) (f : α → α) (h : ∀ x, b (f x) = b x) (l : List α) (i : Nat) :
    (modAt l i f).map b = l.map b := by
  induction l generalizing i with
  | nil => cases i <;> rfl
  | cons a t ih => cases i with
    | zero => simp [modAt, h]
    | succ n => simpa [modAt] using ih n

theorem told_modFn {r s : State} (k : Told r s) (i : Nat) (f : Fn → Fn) (h : ∀ g, (f g).bare = g.bare) : Told r (s.modFn i f) :=
  k.trans ⟨rfl, rfl, rfl, rfl, rfl, rfl, rfl, rfl, rfl, rfl, rfl, Nat.le_refl _, modAt_map _ _ h _ _, rfl, rfl, id⟩

theorem told_setTalus {r s : State} (k : Told r s) (t : Talus) (h1 : t.startup = s.talus.startup)
    (h2 : t.rings.length = s.talus.rings.length) (h3 : s.talus.armed = [] → t.armed = []) : Told r (s.setTalus t) :=
  k.trans ⟨rfl, rfl, rfl, rfl, rfl, rfl, rfl, rfl, rfl, rfl, rfl, Nat.le_refl _, rfl, h1, h2, h3⟩

theorem State.takeSeq_told {s₀ s : State} (k : Told s₀ s) : Told s₀ s.takeSeq.2 :=
  k.trans ⟨rfl, rfl, rfl, rfl, rfl, rfl, rfl, rfl, rfl, rfl, rfl, Nat.le_succ _, rfl, rfl, rfl, id⟩

theorem State.stewardWrite_told {s₀ s : State} (k : Told s₀ s) (fn : Nat) (a : Nat) (bs : List Byte) : Told s₀ (State.stewardWrite s fn a bs) := by
  unfold State.stewardWrite
  repeat' first
    | with_reducible assumption
    | with_reducible apply told_writeHost
    | (intro h; simp at h; done)
    | exact id
    | intro _
    | split
    | dsimp only
    | with_reducible rfl
    | simp
    | omega

theorem State.sendMessage_told {s₀ s : State} (k : Told s₀ s) (fn v : Nat) : Told s₀ (s.sendMessage fn v) := by
  unfold State.sendMessage
  split
  · exact k
  · exact told_modFn k _ _ fun _ => rfl

theorem State.sendMsix_told {s₀ s : State} (k : Told s₀ s) (fn v : Nat) : Told s₀ (s.sendMsix fn v) := by
  unfold State.sendMsix
  dsimp only
  split
  · split
    · exact told_modFn k _ _ fun _ => rfl
    · exact State.sendMessage_told k _ _
  · exact k

theorem State.opportunity_told {s₀ s : State} (k : Told s₀ s) (point : Nat) (p : Armed → Bool) :
    Told s₀ (s.opportunity point p).2 := by
  unfold State.opportunity
  split
  · rename_i a l h
    exact told_setTalus k _ rfl rfl fun e => by rw [e] at h; exact absurd h (by simp [spendFirst])
  · exact k

theorem State.putRecord_told {s₀ s : State} (k : Told s₀ s) (r : Nat) (e : Event) (seq : Nat) : Told s₀ (State.putRecord s r e seq) := by
  unfold State.putRecord
  repeat' first
    | with_reducible assumption
    | with_reducible apply State.stewardWrite_told
    | with_reducible apply State.sendMsix_told
    | with_reducible apply told_modRing
    | (intro h; simp at h; done)
    | exact id
    | intro _
    | split
    | dsimp only
    | with_reducible rfl
    | simp
    | omega

theorem State.flushDrop_told {s₀ s : State} (k : Told s₀ s) (r : Nat) (c : St) (form : Nat) : Told s₀ (State.flushDrop s r c form) := by
  unfold State.flushDrop
  repeat' first
    | with_reducible assumption
    | with_reducible apply State.takeSeq_told
    | with_reducible apply State.putRecord_told
    | with_reducible apply told_modRing
    | (intro h; simp at h; done)
    | exact id
    | intro _
    | split
    | dsimp only
    | refine Told.snd (by assumption) ?_
    | refine Told.fst (by assumption) ?_
    | with_reducible rfl
    | simp
    | omega

theorem State.flushDrops_told {s₀ s : State} (k : Told s₀ s) (r : Nat) : Told s₀ (State.flushDrops s r) := by
  unfold State.flushDrops
  repeat' first
    | with_reducible assumption
    | with_reducible apply State.flushDrop_told
    | with_reducible refine Told.foldl _ (fun _ _ _ => ?_) _ ?_
    | with_reducible refine Told.foldlFst _ (fun _ _ _ => ?_) _ ?_
    | (intro h; simp at h; done)
    | exact id
    | intro _
    | split
    | dsimp only
    | with_reducible rfl
    | simp
    | omega

theorem State.atsInjected_told {s₀ s : State} (k : Told s₀ s) (fn : Nat) : Told s₀ (State.atsInjected s fn).2 := by
  unfold State.atsInjected
  repeat' first
    | with_reducible assumption
    | with_reducible apply State.opportunity_told
    | (intro h; simp at h; done)
    | exact id
    | intro _
    | split
    | dsimp only
    | refine Told.snd (by assumption) ?_
    | refine Told.fst (by assumption) ?_
    | with_reducible rfl
    | simp
    | omega

theorem State.place_told {s₀ s : State} (k : Told s₀ s) (r : Nat) (e : Event) (seq : Nat) : Told s₀ (State.place s r e seq).1 := by
  unfold State.place
  repeat' first
    | with_reducible assumption
    | with_reducible apply State.putRecord_told
    | with_reducible apply State.atsInjected_told
    | with_reducible apply told_modRing
    | (intro h; simp at h; done)
    | exact id
    | intro _
    | split
    | dsimp only
    | refine Told.snd (by assumption) ?_
    | refine Told.fst (by assumption) ?_
    | with_reducible rfl
    | simp
    | omega

theorem State.placeAll_told {s₀ s : State} (k : Told s₀ s) (e : Event) (seq : Nat) (l : List Nat) :
    Told s₀ (s.placeAll e seq l).1 := by
  induction l generalizing s with
  | nil => exact k
  | cons a t ih => exact ih (State.place_told k a e seq)

theorem State.deliverCore_told {s₀ s : State} (k : Told s₀ s) (rings : List Nat) (e : Event) (seq : Nat) : Told s₀ (State.deliverCore s rings e seq).1 := by
  unfold State.deliverCore
  repeat' first
    | with_reducible assumption
    | with_reducible apply State.flushDrop_told
    | with_reducible apply State.placeAll_told
    | with_reducible refine Told.foldl _ (fun _ _ _ => ?_) _ ?_
    | with_reducible refine Told.foldlFst _ (fun _ _ _ => ?_) _ ?_
    | (intro h; simp at h; done)
    | exact id
    | intro _
    | split
    | dsimp only
    | with_reducible rfl
    | simp
    | omega

theorem State.coalesce_told {s₀ s : State} (k : Told s₀ s) (e : Event) (l : List Nat) : Told s₀ (s.coalesce e l).1 := by
  induction l generalizing s with
  | nil => exact k
  | cons a t ih =>
    have ih := ih k
    unfold State.coalesce
    repeat' first
      | assumption
      | with_reducible apply told_modRing
      | split
      | dsimp only
      | refine Told.fst (by assumption) ?_

theorem State.recordRefused_told {s₀ s : State} (k : Told s₀ s) (d0 : Nat) (addr : Nat) (inj : Bool) : Told s₀ (State.recordRefused s d0 addr inj) := by
  unfold State.recordRefused
  repeat' first
    | with_reducible assumption
    | with_reducible apply State.takeSeq_told
    | with_reducible apply State.deliverCore_told
    | with_reducible apply State.coalesce_told
    | (intro h; simp at h; done)
    | exact id
    | intro _
    | split
    | dsimp only
    | refine Told.snd (by assumption) ?_
    | refine Told.fst (by assumption) ?_
    | with_reducible rfl
    | simp
    | omega

theorem State.refusedRings_told {s₀ s : State} (k : Told s₀ s) (rings : List (Nat × Bool)) : Told s₀ (State.refusedRings s rings) := by
  unfold State.refusedRings
  repeat' first
    | with_reducible assumption
    | with_reducible apply State.recordRefused_told
    | with_reducible refine Told.foldl _ (fun _ _ _ => ?_) _ ?_
    | with_reducible refine Told.foldlFst _ (fun _ _ _ => ?_) _ ?_
    | (intro h; simp at h; done)
    | exact id
    | intro _
    | split
    | dsimp only
    | with_reducible rfl
    | simp
    | omega

theorem State.deliverAs_told {s₀ s : State} (k : Told s₀ s) (rings : List Nat) (e : Event) (seq : Nat) : Told s₀ (State.deliverAs s rings e seq) := by
  unfold State.deliverAs
  repeat' first
    | with_reducible assumption
    | with_reducible apply State.deliverCore_told
    | with_reducible apply State.refusedRings_told
    | (intro h; simp at h; done)
    | exact id
    | intro _
    | split
    | dsimp only
    | refine Told.snd (by assumption) ?_
    | refine Told.fst (by assumption) ?_
    | with_reducible rfl
    | simp
    | omega

theorem State.deliver_told {s₀ s : State} (k : Told s₀ s) (rings : List Nat) (e : Event) : Told s₀ (State.deliver s rings e) := by
  unfold State.deliver
  repeat' first
    | with_reducible assumption
    | with_reducible apply State.takeSeq_told
    | with_reducible apply State.flushDrop_told
    | with_reducible apply State.placeAll_told
    | with_reducible apply State.refusedRings_told
    | with_reducible refine Told.foldl _ (fun _ _ _ => ?_) _ ?_
    | with_reducible refine Told.foldlFst _ (fun _ _ _ => ?_) _ ?_
    | (intro h; simp at h; done)
    | exact id
    | intro _
    | split
    | dsimp only
    | refine Told.snd (by assumption) ?_
    | refine Told.fst (by assumption) ?_
    | with_reducible rfl
    | simp
    | omega

theorem Talus.raise_rest (t : Talus) (v : Nat) (e : Event) (key : Nat) (l st : Bool) :
    t.raise v e key l st = { t with alarms := (t.raise v e key l st).alarms } := by
  unfold Talus.raise
  dsimp only
  split <;> rfl

theorem Talus.raises_rest (vs : List Nat) (t : Talus) (e : Event) (key : Nat) (l st : Bool) :
    vs.foldl (fun t r => t.raise r e key l st) t = { t with alarms := (vs.foldl (fun t r => t.raise r e key l st) t).alarms } := by
  induction vs generalizing t with
  | nil => rfl
  | cons a x ih => rw [List.foldl_cons, ih, Talus.raise_rest]

theorem State.emit_told {s₀ s : State} (k : Told s₀ s) (rings : List Nat) (e : Event) (key : Nat) (lasting : Bool)
    (views : List Nat) : Told s₀ (s.emit rings e key lasting views) := by
  have h : Told s₀ (if e.alarm = true then
      s.takeSeq.2.setTalus (views.foldl (fun t r => t.raise r e key lasting false) s.takeSeq.2.talus) else s.takeSeq.2) := by
    split
    · exact told_setTalus (State.takeSeq_told k) _ (by rw [Talus.raises_rest]) (by rw [Talus.raises_rest])
        (by rw [Talus.raises_rest]; exact id)
    · exact State.takeSeq_told k
  exact State.deliverAs_told (State.coalesce_told h ..) ..

theorem State.moduleEvent_told {s₀ s : State} (k : Told s₀ s) (code : St) (part : Nat) (src : Nat) (unit : Nat) (d0 : Nat) (d1 : Nat) (d2 : Nat) (inj : Bool) : Told s₀ (State.moduleEvent s code part src unit d0 d1 d2 inj) := by
  unfold State.moduleEvent
  repeat' first
    | with_reducible assumption
    | with_reducible apply State.emit_told
    | (intro h; simp at h; done)
    | exact id
    | intro _
    | split
    | dsimp only
    | with_reducible rfl
    | simp
    | omega

end Sys2Proof.Machine
end

