-- ==== Sys2Proof/WellFormed.lean ====
section
/-! DEFINITION. WellFormed.lean: which commands and events name things that the module has. -/

namespace Sys2Proof

def AtsUse.wf : AtsUse → Bool
  | .transfer slab => decide (slab < 8)
  | .command _ => true
  | .record _ => true
  | .ring r => decide (r < 17)

def Place.wf : Place → Bool
  | .share p c s _ => decide (p < 16) && decide (c < 256) && decide (s < 8)
  | .freeSpad s _ => decide (s < 8)
  | .hot p _ _ s _ => decide (p < 16) && decide (s < 8)
  | .acc p c s k i => decide (p < 16) && decide (c < 256) && decide (s < 8) && decide (k < 8) && decide (i < 524288)
  | .flat p s _ => decide (p < 16) && decide (s < 8)
  | .page p _ _ => decide (p < 16)
  | .cold p _ _ s _ => decide (p < 16) && decide (s < 8)
  | .cairn p c s _ => decide (p < 16) && decide (c < 256) && decide (s < 8)
  | .held p _ s _ => decide (p < 16) && decide (s < 8)
  | .codec p _ s _ => decide (p < 16) && decide (s < 8)
  | .steward s => decide (s < 8)

/-- Functions and slots of R342 and R374: functions 0 to 15, slots 0 to 255. -/
def fnSlot (fn k : Nat) : Bool := decide (fn < 16) && decide (k < 256)

/-- A row's operands lie in the ranges its rule gives: functions and partitions below 16, slots and contexts below
256, slabs below 8, unit queues below 8 (R51), links below 8 (R27), physical group queues below 16 (R261), logical
group indices below 16 (R260), rings below 17 (R471), stacks below 24, domains below 32, data of a legal length. -/
def Instr.wf : Instr → Bool
  | .statusGet f k | .serviceEnter f k | .restEnter f k | .partCreate f k | .partDestroy f k | .partSet f k
  | .ctxCreate f k | .ctxDestroy f k | .ctxSave f k | .ctxRestore f k | .modelLoad f k | .modelDrop f k
  | .modelPin f k | .modelUnpin f k | .quarryStat f k | .regionCreate f k | .regionDestroy f k | .regionMap f k
  | .regionUnmap f k | .progLoad f k | .runPassage f k | .fetch f k | .resultDrop f k | .groupCreate f k
  | .groupDestroy f k | .copy f k | .fill f k | .codecOpen f k | .codecClose f k | .codecEncode f k
  | .codecDecode f k | .attest f k | .sessionOpen f k | .sessionClose f k | .signerAdd f k | .signerRemove f k
  | .debugUnlock f k | .ringSet f k | .alarmAck f k | .inject f k | .injectClear f k | .sealUnknownOpcode f k =>
    fnSlot f k
  | .orderedStart f _ | .commandCompletion f _ | .mbxCqCfgWrite f _ | .mbxCqHeadWrite f _ | .talHeadWrite f _ _
  | .functionLevelReset f | .busMasterEnableWrite f _ | .unsupportedRequest f _ => decide (f < 16)
  | .registerWrite f _ d => decide (f < 16) && decide (0 < d.length) && decide (d.length ≤ 64)
  | .passageEnqueue s | .passageSelect s | .lineIssue s | .passageEnd s _ | .passageStall s _
  | .mm s | .mmList s | .mmListEntryRead s | .mmChain s | .mmArrive s | .accClear s | .accSpill s | .accResume s
  | .accDrain s | .accGate s | .accSatclr s | .vAdd s | .vSub s | .vMul s | .vFma s | .vMax s | .vMin s | .vAbs s
  | .vNeg s | .vScale s | .vAddi s | .vCvt s | .vDither s | .vGadd s | .vRsum s | .vRmax s | .vRwel s | .vArgmax s
  | .vEpi s | .vOsm s | .vDwconv s | .vGconv s | .vLd s _ | .vSt s _ | .vbExp s | .vbLog s | .vbRsqrt s | .vbRcp s
  | .vbSigmoid s | .vbTanh s | .vbGelu s | .vbSilu s | .vbSin s | .vbCos s | .vbCompress s | .vbExpand s
  | .vbPermute s | .vbGumbel s | .vbCrop s | .xfRun s | .xfPaged s | .cAllredSum s | .cAllredMax s | .cAllredWelf s
  | .cRedscat s | .cBcast s | .cAll2all s | .cAllgather s | .cGatherArrive s | .cBarrier s | .flDraw s
  | .loopBegin s | .loopEnd s | .loopr s | .twait s | .fence s => decide (s < 8)
  | .opEnd s u _ => decide (s < 8) && decide (u < 8)
  | .nop s u => decide (s < 8) && decide (u < 8)
  | .hsTimeout src init d1 =>
    (decide (src < 8) || src == 15) && decide (init < 16) &&
      (decide (d1 < 16) || decide (0x100 ≤ d1) && decide (d1 < 0x104))
  | .collectiveMeet p c l => decide (p < 16) && decide (c < 256) && decide (l < 16)
  | .gatherUnitArrive s q _ => decide (s < 8) && decide (q < 16)
  | .collWatchdogExpire s q => decide (s < 8) && decide (q < 16)
  | .quarryLoadEnd p _ i s => decide (p < 16) && decide (i < 64) && decide (s < 8)
  | .ctxSwitchOutEnd p c | .ctxSwitchInEnd p c | .ctxTeardownEnd p c => decide (p < 16) && decide (c < 256)
  | .flitReceive s l _ x => decide (s < 8) && decide (l < 8) && decide (x.seq < 4096) && decide (x.ack < 4096)
    && decide (x.payload.length = 240)
  | .replayWindowEnd s l => decide (s < 8) && decide (l < 8)
  | .scrubPass s _ found => decide (s < 8) && found.all fun u => u.place.wf && decide (0 < u.symbols)
  | .coalesceWindowEnd r _ | .evtDroppedRecord r _ => decide (r < 17)
  | .stackTempReading k t => decide (k < 24) && decide (t < 256)
  | .junctionTempReading u t => decide (u < 9) && decide (t < 256)
  | .drawLimitReached w m => decide (w < 65536) && decide (m < 256)
  | .calLoadSample d l => decide (d < 32) && decide (l < 65536)
  | .recalStart d | .recalEnd d _ => decide (d < 32)
  | .powerOn mv st => decide (mv < 65536) && decide (st < 8)
  | .vinExcursion mv => decide (mv < 65536)
  | .startupStepEnd r => r.loads.all fun l => decide (l < 65536)
  | .hostLinkTrained w r _ _ => decide (w < 5) && decide (r < 6)
  | .hdmDecoderCommit i _ _ => decide (i < 16)
  | .hdmRead dpa => decide (dpa < 2 ^ 44)
  | .hdmWrite dpa d => decide (dpa < 2 ^ 44) && decide (0 < d.length) && decide (dpa % 64 + d.length ≤ 64)
  | .bisnpResponse l d => decide (l < 2 ^ 38) && (match d with | none => true | some b => decide (b.length = 64))
  | .biTimeout l => decide (l < 2 ^ 38)
  | .hostSnoop _ => true
  | .atsTranslationRefused u => u.wf
  | .mgmtAlarmAck c => decide (c < 65536)
  | .injectArm p _ => decide (p < 65536)
  | .imageStage i _ d => decide (i < 2) && decide (d.length ≤ 64)
  | .imageSeal i _ => decide (i < 2)
  | .challenge _ _ n | .getMeasurements _ _ n => decide (n.length = 32)
  | .vfEnableSet n => decide (n < 16)
  | .serviceModeSwitch | .restEntryEnd | .restWakeEnd | .pwrWakeWrite _ | .geoSvnCommitWrite _
  | .encodeFrameStart _ | .encodeFrameEnd _ | .decodeFrameEnd _ | .decodeBudgetExpire _ | .alarmConditionEnd _
  | .powerLimitEpisodeEnd _ | .vinDebounceExpire | .pwrGoodInDeassert _ | .supplyShutdown | .wakePin _
  | .modRstAssert _ | .modRstRelease | .startupTimeout | .perstAssert _ | .perstRelease | .vfEnableClear
  | .ideIntegrityFail _ | .getState | .getThermal | .imageDiscard | .getVersion _ | .getCapabilities _
  | .negotiateAlgorithms _ _ _ _ _ | .getDigests _ | .getCertificate _ _ _ _ | .keyExchange _ _ | .finish _ _
  | .heartbeat _ | .keyUpdate _ _ | .endSession _ | .chunkGet _ _ | .vendorDefinedRequest _ _ _
  | .entropyHealthFail => true

end Sys2Proof
end

