-- ==== Sys2Proof/Laws/PerInstr.lean ====
section
/-! SUPPORT. Laws/PerInstr.lean: what every well-formed command names exists: each index operand lies below the number of
things of its kind (R1, R27, R51, R260, R261, R342, R374, R397, R471, R504). -/

namespace Sys2Proof

/-- The index operands of a row, each with the number of things of its kind. -/
def Instr.names : Instr → List (Nat × Nat)
  | .statusGet a b | .serviceEnter a b | .restEnter a b | .partCreate a b | .partDestroy a b | .partSet a b |
    .ctxCreate a b | .ctxDestroy a b | .ctxSave a b | .ctxRestore a b | .modelLoad a b | .modelDrop a b |
    .modelPin a b | .modelUnpin a b | .quarryStat a b | .regionCreate a b | .regionDestroy a b |
    .regionMap a b | .regionUnmap a b | .progLoad a b | .runPassage a b | .fetch a b | .resultDrop a b |
    .groupCreate a b | .groupDestroy a b | .copy a b | .fill a b | .codecOpen a b | .codecClose a b |
    .codecEncode a b | .codecDecode a b | .attest a b | .sessionOpen a b | .sessionClose a b |
    .signerAdd a b | .signerRemove a b | .debugUnlock a b | .ringSet a b | .alarmAck a b | .inject a b |
    .injectClear a b | .sealUnknownOpcode a b | .ctxSwitchOutEnd a b | .ctxSwitchInEnd a b |
    .ctxTeardownEnd a b => [(a, 16), (b, 256)]
  | .serviceModeSwitch | .restEntryEnd | .restWakeEnd | .vinDebounceExpire | .supplyShutdown |
    .modRstRelease | .startupTimeout | .perstRelease | .vfEnableClear | .getState | .getThermal |
    .imageDiscard | .entropyHealthFail => []
  | .orderedStart a _ | .commandCompletion a _ | .mbxCqCfgWrite a _ | .mbxCqHeadWrite a _ |
    .busMasterEnableWrite a _ | .unsupportedRequest a _ => [(a, 16)]
  | .talHeadWrite a _ _ | .registerWrite a _ _ | .hdmDecoderCommit a _ _ => [(a, 16)]
  | .pwrWakeWrite _ | .geoSvnCommitWrite _ | .encodeFrameStart _ | .encodeFrameEnd _ | .decodeFrameEnd _ |
    .decodeBudgetExpire _ | .alarmConditionEnd _ | .powerLimitEpisodeEnd _ | .vinExcursion _ |
    .pwrGoodInDeassert _ | .wakePin _ | .modRstAssert _ | .startupStepEnd _ | .perstAssert _ | .hostSnoop _ |
    .atsTranslationRefused _ | .ideIntegrityFail _ | .mgmtAlarmAck _ | .getVersion _ | .getCapabilities _ |
    .getDigests _ | .heartbeat _ | .endSession _ => []
  | .passageEnqueue a | .passageSelect a | .lineIssue a | .mm a | .mmList a | .mmListEntryRead a |
    .mmChain a | .mmArrive a | .accClear a | .accSpill a | .accResume a | .accDrain a | .accGate a |
    .accSatclr a | .vAdd a | .vSub a | .vMul a | .vFma a | .vMax a | .vMin a | .vAbs a | .vNeg a | .vScale a |
    .vAddi a | .vCvt a | .vDither a | .vGadd a | .vRsum a | .vRmax a | .vRwel a | .vArgmax a | .vEpi a |
    .vOsm a | .vDwconv a | .vGconv a | .vbExp a | .vbLog a | .vbRsqrt a | .vbRcp a | .vbSigmoid a |
    .vbTanh a | .vbGelu a | .vbSilu a | .vbSin a | .vbCos a | .vbCompress a | .vbExpand a | .vbPermute a |
    .vbGumbel a | .vbCrop a | .xfRun a | .xfPaged a | .cAllredSum a | .cAllredMax a | .cAllredWelf a |
    .cRedscat a | .cBcast a | .cAll2all a | .cAllgather a | .cGatherArrive a | .cBarrier a | .flDraw a |
    .loopBegin a | .loopEnd a | .loopr a | .twait a | .fence a => [(a, 8)]
  | .opEnd a b _ => [(a, 8), (b, 8)]
  | .passageEnd a _ | .passageStall a _ | .vLd a _ | .vSt a _ => [(a, 8)]
  | .hsTimeout _ a _ => [(a, 16)]
  | .nop a b | .replayWindowEnd a b => [(a, 8), (b, 8)]
  | .collectiveMeet a b c => [(a, 16), (b, 256), (c, 16)]
  | .gatherUnitArrive a b _ => [(a, 8), (b, 16)]
  | .collWatchdogExpire a b => [(a, 8), (b, 16)]
  | .quarryLoadEnd a _ b c => [(a, 16), (b, 64), (c, 8)]
  | .flitReceive a b _ _ => [(a, 8), (b, 8)]
  | .scrubPass a _ _ => [(a, 8)]
  | .coalesceWindowEnd a _ | .evtDroppedRecord a _ => [(a, 17)]
  | .stackTempReading a b => [(a, 24), (b, 256)]
  | .junctionTempReading a b => [(a, 9), (b, 256)]
  | .drawLimitReached _ _ | .powerOn _ _ | .injectArm _ _ | .keyExchange _ _ | .finish _ _ | .keyUpdate _ _ |
    .chunkGet _ _ => []
  | .calLoadSample a _ | .recalEnd a _ => [(a, 32)]
  | .recalStart a => [(a, 32)]
  | .functionLevelReset a | .vfEnableSet a => [(a, 16)]
  | .hostLinkTrained _ _ _ _ | .getCertificate _ _ _ _ => []
  | .hdmRead a => [(a, 2 ^ 44)]
  | .hdmWrite a _ => [(a, 2 ^ 44)]
  | .bisnpResponse a _ => [(a, 2 ^ 38)]
  | .biTimeout a => [(a, 2 ^ 38)]
  | .imageStage a _ _ => [(a, 2)]
  | .imageSeal a _ => [(a, 2)]
  | .negotiateAlgorithms _ _ _ _ _ => []
  | .challenge _ _ _ | .getMeasurements _ _ _ | .vendorDefinedRequest _ _ _ => []

namespace Laws.Shape

-- one lemma at a time: there are many
set_option Elab.async false

/-- A well-formed command names what exists. -/
def Statement (i : Instr) : Prop := i.wf = true → (i.names.all fun p => decide (p.1 < p.2)) = true

theorem statusGet (fn : Nat) (k : Nat) : Statement (.statusGet fn k) := by
  intro h; simp_all [Instr.names, Instr.wf, fnSlot]
theorem serviceEnter (fn : Nat) (k : Nat) : Statement (.serviceEnter fn k) := by
  intro h; simp_all [Instr.names, Instr.wf, fnSlot]
theorem serviceModeSwitch : Statement (.serviceModeSwitch) := fun _ => rfl
theorem restEnter (fn : Nat) (k : Nat) : Statement (.restEnter fn k) := by
  intro h; simp_all [Instr.names, Instr.wf, fnSlot]
theorem restEntryEnd : Statement (.restEntryEnd) := fun _ => rfl
theorem restWakeEnd : Statement (.restWakeEnd) := fun _ => rfl
theorem partCreate (fn : Nat) (k : Nat) : Statement (.partCreate fn k) := by
  intro h; simp_all [Instr.names, Instr.wf, fnSlot]
theorem partDestroy (fn : Nat) (k : Nat) : Statement (.partDestroy fn k) := by
  intro h; simp_all [Instr.names, Instr.wf, fnSlot]
theorem partSet (fn : Nat) (k : Nat) : Statement (.partSet fn k) := by
  intro h; simp_all [Instr.names, Instr.wf, fnSlot]
theorem ctxCreate (fn : Nat) (k : Nat) : Statement (.ctxCreate fn k) := by
  intro h; simp_all [Instr.names, Instr.wf, fnSlot]
theorem ctxDestroy (fn : Nat) (k : Nat) : Statement (.ctxDestroy fn k) := by
  intro h; simp_all [Instr.names, Instr.wf, fnSlot]
theorem ctxSave (fn : Nat) (k : Nat) : Statement (.ctxSave fn k) := by
  intro h; simp_all [Instr.names, Instr.wf, fnSlot]
theorem ctxRestore (fn : Nat) (k : Nat) : Statement (.ctxRestore fn k) := by
  intro h; simp_all [Instr.names, Instr.wf, fnSlot]
theorem modelLoad (fn : Nat) (k : Nat) : Statement (.modelLoad fn k) := by
  intro h; simp_all [Instr.names, Instr.wf, fnSlot]
theorem modelDrop (fn : Nat) (k : Nat) : Statement (.modelDrop fn k) := by
  intro h; simp_all [Instr.names, Instr.wf, fnSlot]
theorem modelPin (fn : Nat) (k : Nat) : Statement (.modelPin fn k) := by
  intro h; simp_all [Instr.names, Instr.wf, fnSlot]
theorem modelUnpin (fn : Nat) (k : Nat) : Statement (.modelUnpin fn k) := by
  intro h; simp_all [Instr.names, Instr.wf, fnSlot]
theorem quarryStat (fn : Nat) (k : Nat) : Statement (.quarryStat fn k) := by
  intro h; simp_all [Instr.names, Instr.wf, fnSlot]
theorem regionCreate (fn : Nat) (k : Nat) : Statement (.regionCreate fn k) := by
  intro h; simp_all [Instr.names, Instr.wf, fnSlot]
theorem regionDestroy (fn : Nat) (k : Nat) : Statement (.regionDestroy fn k) := by
  intro h; simp_all [Instr.names, Instr.wf, fnSlot]
theorem regionMap (fn : Nat) (k : Nat) : Statement (.regionMap fn k) := by
  intro h; simp_all [Instr.names, Instr.wf, fnSlot]
theorem regionUnmap (fn : Nat) (k : Nat) : Statement (.regionUnmap fn k) := by
  intro h; simp_all [Instr.names, Instr.wf, fnSlot]
theorem progLoad (fn : Nat) (k : Nat) : Statement (.progLoad fn k) := by
  intro h; simp_all [Instr.names, Instr.wf, fnSlot]
theorem runPassage (fn : Nat) (k : Nat) : Statement (.runPassage fn k) := by
  intro h; simp_all [Instr.names, Instr.wf, fnSlot]
theorem fetch (fn : Nat) (k : Nat) : Statement (.fetch fn k) := by
  intro h; simp_all [Instr.names, Instr.wf, fnSlot]
theorem resultDrop (fn : Nat) (k : Nat) : Statement (.resultDrop fn k) := by
  intro h; simp_all [Instr.names, Instr.wf, fnSlot]
theorem groupCreate (fn : Nat) (k : Nat) : Statement (.groupCreate fn k) := by
  intro h; simp_all [Instr.names, Instr.wf, fnSlot]
theorem groupDestroy (fn : Nat) (k : Nat) : Statement (.groupDestroy fn k) := by
  intro h; simp_all [Instr.names, Instr.wf, fnSlot]
theorem copy (fn : Nat) (k : Nat) : Statement (.copy fn k) := by
  intro h; simp_all [Instr.names, Instr.wf, fnSlot]
theorem fill (fn : Nat) (k : Nat) : Statement (.fill fn k) := by
  intro h; simp_all [Instr.names, Instr.wf, fnSlot]
theorem codecOpen (fn : Nat) (k : Nat) : Statement (.codecOpen fn k) := by
  intro h; simp_all [Instr.names, Instr.wf, fnSlot]
theorem codecClose (fn : Nat) (k : Nat) : Statement (.codecClose fn k) := by
  intro h; simp_all [Instr.names, Instr.wf, fnSlot]
theorem codecEncode (fn : Nat) (k : Nat) : Statement (.codecEncode fn k) := by
  intro h; simp_all [Instr.names, Instr.wf, fnSlot]
theorem codecDecode (fn : Nat) (k : Nat) : Statement (.codecDecode fn k) := by
  intro h; simp_all [Instr.names, Instr.wf, fnSlot]
theorem attest (fn : Nat) (k : Nat) : Statement (.attest fn k) := by
  intro h; simp_all [Instr.names, Instr.wf, fnSlot]
theorem sessionOpen (fn : Nat) (k : Nat) : Statement (.sessionOpen fn k) := by
  intro h; simp_all [Instr.names, Instr.wf, fnSlot]
theorem sessionClose (fn : Nat) (k : Nat) : Statement (.sessionClose fn k) := by
  intro h; simp_all [Instr.names, Instr.wf, fnSlot]
theorem signerAdd (fn : Nat) (k : Nat) : Statement (.signerAdd fn k) := by
  intro h; simp_all [Instr.names, Instr.wf, fnSlot]
theorem signerRemove (fn : Nat) (k : Nat) : Statement (.signerRemove fn k) := by
  intro h; simp_all [Instr.names, Instr.wf, fnSlot]
theorem debugUnlock (fn : Nat) (k : Nat) : Statement (.debugUnlock fn k) := by
  intro h; simp_all [Instr.names, Instr.wf, fnSlot]
theorem ringSet (fn : Nat) (k : Nat) : Statement (.ringSet fn k) := by
  intro h; simp_all [Instr.names, Instr.wf, fnSlot]
theorem alarmAck (fn : Nat) (k : Nat) : Statement (.alarmAck fn k) := by
  intro h; simp_all [Instr.names, Instr.wf, fnSlot]
theorem inject (fn : Nat) (k : Nat) : Statement (.inject fn k) := by
  intro h; simp_all [Instr.names, Instr.wf, fnSlot]
theorem injectClear (fn : Nat) (k : Nat) : Statement (.injectClear fn k) := by
  intro h; simp_all [Instr.names, Instr.wf, fnSlot]
theorem sealUnknownOpcode (fn : Nat) (k : Nat) : Statement (.sealUnknownOpcode fn k) := by
  intro h; simp_all [Instr.names, Instr.wf, fnSlot]
theorem orderedStart (fn : Nat) (seq : Nat) : Statement (.orderedStart fn seq) := by
  intro h; simp_all [Instr.names, Instr.wf]
theorem commandCompletion (fn : Nat) (seq : Nat) : Statement (.commandCompletion fn seq) := by
  intro h; simp_all [Instr.names, Instr.wf]
theorem mbxCqCfgWrite (fn : Nat) (v : Word) : Statement (.mbxCqCfgWrite fn v) := by
  intro h; simp_all [Instr.names, Instr.wf]
theorem mbxCqHeadWrite (fn : Nat) (v : Word) : Statement (.mbxCqHeadWrite fn v) := by
  intro h; simp_all [Instr.names, Instr.wf]
theorem talHeadWrite (fn : Nat) (ofModule : Bool) (v : Word) : Statement (.talHeadWrite fn ofModule v) := by
  intro h; simp_all [Instr.names, Instr.wf]
theorem pwrWakeWrite (v : Word) : Statement (.pwrWakeWrite v) := fun _ => rfl
theorem geoSvnCommitWrite (v : Word) : Statement (.geoSvnCommitWrite v) := fun _ => rfl
theorem registerWrite (fn : Nat) (off : Nat) (data : List Byte) : Statement (.registerWrite fn off data) := by
  intro h; simp_all [Instr.names, Instr.wf]
theorem passageEnqueue (slab : Nat) : Statement (.passageEnqueue slab) := by
  intro h; simp_all [Instr.names, Instr.wf]
theorem passageSelect (slab : Nat) : Statement (.passageSelect slab) := by
  intro h; simp_all [Instr.names, Instr.wf]
theorem lineIssue (slab : Nat) : Statement (.lineIssue slab) := by
  intro h; simp_all [Instr.names, Instr.wf]
theorem opEnd (slab : Nat) (unit : Nat) (idx : Nat) : Statement (.opEnd slab unit idx) := by
  intro h; simp_all [Instr.names, Instr.wf]
theorem passageEnd (slab : Nat) (seq : Nat) : Statement (.passageEnd slab seq) := by
  intro h; simp_all [Instr.names, Instr.wf]
theorem passageStall (slab : Nat) (seq : Nat) : Statement (.passageStall slab seq) := by
  intro h; simp_all [Instr.names, Instr.wf]
theorem hsTimeout (src : Nat) (initiator : Nat) (d1 : Nat) : Statement (.hsTimeout src initiator d1) := by
  intro h; simp_all [Instr.names, Instr.wf]
theorem nop (slab : Nat) (unit : Nat) : Statement (.nop slab unit) := by
  intro h; simp_all [Instr.names, Instr.wf]
theorem mm (slab : Nat) : Statement (.mm slab) := by
  intro h; simp_all [Instr.names, Instr.wf]
theorem mmList (slab : Nat) : Statement (.mmList slab) := by
  intro h; simp_all [Instr.names, Instr.wf]
theorem mmListEntryRead (slab : Nat) : Statement (.mmListEntryRead slab) := by
  intro h; simp_all [Instr.names, Instr.wf]
theorem mmChain (slab : Nat) : Statement (.mmChain slab) := by
  intro h; simp_all [Instr.names, Instr.wf]
theorem mmArrive (slab : Nat) : Statement (.mmArrive slab) := by
  intro h; simp_all [Instr.names, Instr.wf]
theorem accClear (slab : Nat) : Statement (.accClear slab) := by
  intro h; simp_all [Instr.names, Instr.wf]
theorem accSpill (slab : Nat) : Statement (.accSpill slab) := by
  intro h; simp_all [Instr.names, Instr.wf]
theorem accResume (slab : Nat) : Statement (.accResume slab) := by
  intro h; simp_all [Instr.names, Instr.wf]
theorem accDrain (slab : Nat) : Statement (.accDrain slab) := by
  intro h; simp_all [Instr.names, Instr.wf]
theorem accGate (slab : Nat) : Statement (.accGate slab) := by
  intro h; simp_all [Instr.names, Instr.wf]
theorem accSatclr (slab : Nat) : Statement (.accSatclr slab) := by
  intro h; simp_all [Instr.names, Instr.wf]
theorem vAdd (slab : Nat) : Statement (.vAdd slab) := by
  intro h; simp_all [Instr.names, Instr.wf]
theorem vSub (slab : Nat) : Statement (.vSub slab) := by
  intro h; simp_all [Instr.names, Instr.wf]
theorem vMul (slab : Nat) : Statement (.vMul slab) := by
  intro h; simp_all [Instr.names, Instr.wf]
theorem vFma (slab : Nat) : Statement (.vFma slab) := by
  intro h; simp_all [Instr.names, Instr.wf]
theorem vMax (slab : Nat) : Statement (.vMax slab) := by
  intro h; simp_all [Instr.names, Instr.wf]
theorem vMin (slab : Nat) : Statement (.vMin slab) := by
  intro h; simp_all [Instr.names, Instr.wf]
theorem vAbs (slab : Nat) : Statement (.vAbs slab) := by
  intro h; simp_all [Instr.names, Instr.wf]
theorem vNeg (slab : Nat) : Statement (.vNeg slab) := by
  intro h; simp_all [Instr.names, Instr.wf]
theorem vScale (slab : Nat) : Statement (.vScale slab) := by
  intro h; simp_all [Instr.names, Instr.wf]
theorem vAddi (slab : Nat) : Statement (.vAddi slab) := by
  intro h; simp_all [Instr.names, Instr.wf]
theorem vCvt (slab : Nat) : Statement (.vCvt slab) := by
  intro h; simp_all [Instr.names, Instr.wf]
theorem vDither (slab : Nat) : Statement (.vDither slab) := by
  intro h; simp_all [Instr.names, Instr.wf]
theorem vGadd (slab : Nat) : Statement (.vGadd slab) := by
  intro h; simp_all [Instr.names, Instr.wf]
theorem vRsum (slab : Nat) : Statement (.vRsum slab) := by
  intro h; simp_all [Instr.names, Instr.wf]
theorem vRmax (slab : Nat) : Statement (.vRmax slab) := by
  intro h; simp_all [Instr.names, Instr.wf]
theorem vRwel (slab : Nat) : Statement (.vRwel slab) := by
  intro h; simp_all [Instr.names, Instr.wf]
theorem vArgmax (slab : Nat) : Statement (.vArgmax slab) := by
  intro h; simp_all [Instr.names, Instr.wf]
theorem vEpi (slab : Nat) : Statement (.vEpi slab) := by
  intro h; simp_all [Instr.names, Instr.wf]
theorem vOsm (slab : Nat) : Statement (.vOsm slab) := by
  intro h; simp_all [Instr.names, Instr.wf]
theorem vDwconv (slab : Nat) : Statement (.vDwconv slab) := by
  intro h; simp_all [Instr.names, Instr.wf]
theorem vGconv (slab : Nat) : Statement (.vGconv slab) := by
  intro h; simp_all [Instr.names, Instr.wf]
theorem vLd (slab : Nat) (pipeB : Bool) : Statement (.vLd slab pipeB) := by
  intro h; simp_all [Instr.names, Instr.wf]
theorem vSt (slab : Nat) (pipeB : Bool) : Statement (.vSt slab pipeB) := by
  intro h; simp_all [Instr.names, Instr.wf]
theorem vbExp (slab : Nat) : Statement (.vbExp slab) := by
  intro h; simp_all [Instr.names, Instr.wf]
theorem vbLog (slab : Nat) : Statement (.vbLog slab) := by
  intro h; simp_all [Instr.names, Instr.wf]
theorem vbRsqrt (slab : Nat) : Statement (.vbRsqrt slab) := by
  intro h; simp_all [Instr.names, Instr.wf]
theorem vbRcp (slab : Nat) : Statement (.vbRcp slab) := by
  intro h; simp_all [Instr.names, Instr.wf]
theorem vbSigmoid (slab : Nat) : Statement (.vbSigmoid slab) := by
  intro h; simp_all [Instr.names, Instr.wf]
theorem vbTanh (slab : Nat) : Statement (.vbTanh slab) := by
  intro h; simp_all [Instr.names, Instr.wf]
theorem vbGelu (slab : Nat) : Statement (.vbGelu slab) := by
  intro h; simp_all [Instr.names, Instr.wf]
theorem vbSilu (slab : Nat) : Statement (.vbSilu slab) := by
  intro h; simp_all [Instr.names, Instr.wf]
theorem vbSin (slab : Nat) : Statement (.vbSin slab) := by
  intro h; simp_all [Instr.names, Instr.wf]
theorem vbCos (slab : Nat) : Statement (.vbCos slab) := by
  intro h; simp_all [Instr.names, Instr.wf]
theorem vbCompress (slab : Nat) : Statement (.vbCompress slab) := by
  intro h; simp_all [Instr.names, Instr.wf]
theorem vbExpand (slab : Nat) : Statement (.vbExpand slab) := by
  intro h; simp_all [Instr.names, Instr.wf]
theorem vbPermute (slab : Nat) : Statement (.vbPermute slab) := by
  intro h; simp_all [Instr.names, Instr.wf]
theorem vbGumbel (slab : Nat) : Statement (.vbGumbel slab) := by
  intro h; simp_all [Instr.names, Instr.wf]
theorem vbCrop (slab : Nat) : Statement (.vbCrop slab) := by
  intro h; simp_all [Instr.names, Instr.wf]
theorem xfRun (slab : Nat) : Statement (.xfRun slab) := by
  intro h; simp_all [Instr.names, Instr.wf]
theorem xfPaged (slab : Nat) : Statement (.xfPaged slab) := by
  intro h; simp_all [Instr.names, Instr.wf]
theorem cAllredSum (slab : Nat) : Statement (.cAllredSum slab) := by
  intro h; simp_all [Instr.names, Instr.wf]
theorem cAllredMax (slab : Nat) : Statement (.cAllredMax slab) := by
  intro h; simp_all [Instr.names, Instr.wf]
theorem cAllredWelf (slab : Nat) : Statement (.cAllredWelf slab) := by
  intro h; simp_all [Instr.names, Instr.wf]
theorem cRedscat (slab : Nat) : Statement (.cRedscat slab) := by
  intro h; simp_all [Instr.names, Instr.wf]
theorem cBcast (slab : Nat) : Statement (.cBcast slab) := by
  intro h; simp_all [Instr.names, Instr.wf]
theorem cAll2all (slab : Nat) : Statement (.cAll2all slab) := by
  intro h; simp_all [Instr.names, Instr.wf]
theorem cAllgather (slab : Nat) : Statement (.cAllgather slab) := by
  intro h; simp_all [Instr.names, Instr.wf]
theorem cGatherArrive (slab : Nat) : Statement (.cGatherArrive slab) := by
  intro h; simp_all [Instr.names, Instr.wf]
theorem cBarrier (slab : Nat) : Statement (.cBarrier slab) := by
  intro h; simp_all [Instr.names, Instr.wf]
theorem collectiveMeet (part : Nat) (ctx : Nat) (lidx : Nat) : Statement (.collectiveMeet part ctx lidx) := by
  intro h; simp_all [Instr.names, Instr.wf]
theorem gatherUnitArrive (slab : Nat) (queue : Nat) (unit : Nat) : Statement (.gatherUnitArrive slab queue unit) := by
  intro h; simp_all [Instr.names, Instr.wf]
theorem collWatchdogExpire (slab : Nat) (queue : Nat) : Statement (.collWatchdogExpire slab queue) := by
  intro h; simp_all [Instr.names, Instr.wf]
theorem flDraw (slab : Nat) : Statement (.flDraw slab) := by
  intro h; simp_all [Instr.names, Instr.wf]
theorem loopBegin (slab : Nat) : Statement (.loopBegin slab) := by
  intro h; simp_all [Instr.names, Instr.wf]
theorem loopEnd (slab : Nat) : Statement (.loopEnd slab) := by
  intro h; simp_all [Instr.names, Instr.wf]
theorem loopr (slab : Nat) : Statement (.loopr slab) := by
  intro h; simp_all [Instr.names, Instr.wf]
theorem twait (slab : Nat) : Statement (.twait slab) := by
  intro h; simp_all [Instr.names, Instr.wf]
theorem fence (slab : Nat) : Statement (.fence slab) := by
  intro h; simp_all [Instr.names, Instr.wf]
theorem quarryLoadEnd (part : Nat) (handle : Nat) (idx : Nat) (slab : Nat) : Statement (.quarryLoadEnd part handle idx slab) := by
  intro h; simp_all [Instr.names, Instr.wf]
theorem ctxSwitchOutEnd (part : Nat) (ctx : Nat) : Statement (.ctxSwitchOutEnd part ctx) := by
  intro h; simp_all [Instr.names, Instr.wf]
theorem ctxSwitchInEnd (part : Nat) (ctx : Nat) : Statement (.ctxSwitchInEnd part ctx) := by
  intro h; simp_all [Instr.names, Instr.wf]
theorem ctxTeardownEnd (part : Nat) (ctx : Nat) : Statement (.ctxTeardownEnd part ctx) := by
  intro h; simp_all [Instr.names, Instr.wf]
theorem encodeFrameStart (session : Nat) : Statement (.encodeFrameStart session) := fun _ => rfl
theorem encodeFrameEnd (session : Nat) : Statement (.encodeFrameEnd session) := fun _ => rfl
theorem decodeFrameEnd (session : Nat) : Statement (.decodeFrameEnd session) := fun _ => rfl
theorem decodeBudgetExpire (session : Nat) : Statement (.decodeBudgetExpire session) := fun _ => rfl
theorem flitReceive (slab : Nat) (link : Nat) (rx : Bool) (flit : Flit) : Statement (.flitReceive slab link rx flit) := by
  intro h; simp_all [Instr.names, Instr.wf]
theorem replayWindowEnd (slab : Nat) (link : Nat) : Statement (.replayWindowEnd slab link) := by
  intro h; simp_all [Instr.names, Instr.wf]
theorem scrubPass (slab : Nat) (hbm : Bool) (found : List Upset) : Statement (.scrubPass slab hbm found) := by
  intro h; simp_all [Instr.names, Instr.wf]
theorem coalesceWindowEnd (ring : Nat) (idx : Nat) : Statement (.coalesceWindowEnd ring idx) := by
  intro h; simp_all [Instr.names, Instr.wf]
theorem evtDroppedRecord (ring : Nat) (cls : Nat) : Statement (.evtDroppedRecord ring cls) := by
  intro h; simp_all [Instr.names, Instr.wf]
theorem alarmConditionEnd (idx : Nat) : Statement (.alarmConditionEnd idx) := fun _ => rfl
theorem stackTempReading (stack : Nat) (temp : Nat) : Statement (.stackTempReading stack temp) := by
  intro h; simp_all [Instr.names, Instr.wf]
theorem junctionTempReading (unit : Nat) (temp : Nat) : Statement (.junctionTempReading unit temp) := by
  intro h; simp_all [Instr.names, Instr.wf]
theorem drawLimitReached (watts : Nat) (mask : Nat) : Statement (.drawLimitReached watts mask) := fun _ => rfl
theorem powerLimitEpisodeEnd (watts : Nat) : Statement (.powerLimitEpisodeEnd watts) := fun _ => rfl
theorem calLoadSample (domain : Nat) (load : Nat) : Statement (.calLoadSample domain load) := by
  intro h; simp_all [Instr.names, Instr.wf]
theorem recalStart (domain : Nat) : Statement (.recalStart domain) := by
  intro h; simp_all [Instr.names, Instr.wf]
theorem recalEnd (domain : Nat) (valid : Bool) : Statement (.recalEnd domain valid) := by
  intro h; simp_all [Instr.names, Instr.wf]
theorem vinExcursion (millivolts : Nat) : Statement (.vinExcursion millivolts) := fun _ => rfl
theorem vinDebounceExpire : Statement (.vinDebounceExpire) := fun _ => rfl
theorem pwrGoodInDeassert (ns : Nat) : Statement (.pwrGoodInDeassert ns) := fun _ => rfl
theorem supplyShutdown : Statement (.supplyShutdown) := fun _ => rfl
theorem wakePin (ns : Nat) : Statement (.wakePin ns) := fun _ => rfl
theorem powerOn (millivolts : Nat) (straps : Nat) : Statement (.powerOn millivolts straps) := fun _ => rfl
theorem modRstAssert (ns : Nat) : Statement (.modRstAssert ns) := fun _ => rfl
theorem modRstRelease : Statement (.modRstRelease) := fun _ => rfl
theorem startupStepEnd (r : StepReport) : Statement (.startupStepEnd r) := fun _ => rfl
theorem startupTimeout : Statement (.startupTimeout) := fun _ => rfl
theorem perstAssert (ns : Nat) : Statement (.perstAssert ns) := fun _ => rfl
theorem perstRelease : Statement (.perstRelease) := fun _ => rfl
theorem functionLevelReset (fn : Nat) : Statement (.functionLevelReset fn) := by
  intro h; simp_all [Instr.names, Instr.wf]
theorem vfEnableClear : Statement (.vfEnableClear) := fun _ => rfl
theorem busMasterEnableWrite (fn : Nat) (on : Bool) : Statement (.busMasterEnableWrite fn on) := by
  intro h; simp_all [Instr.names, Instr.wf]
theorem hostLinkTrained (width : Nat) (rate : Nat) (flit256 : Bool) (lopt : Bool) : Statement (.hostLinkTrained width rate flit256 lopt) := fun _ => rfl
theorem hdmDecoderCommit (idx : Nat) (base : Nat) (size : Nat) : Statement (.hdmDecoderCommit idx base size) := by
  intro h; simp_all [Instr.names, Instr.wf]
theorem hdmRead (dpa : Nat) : Statement (.hdmRead dpa) := by
  intro h; simp_all [Instr.names, Instr.wf]
theorem hdmWrite (dpa : Nat) (data : List Byte) : Statement (.hdmWrite dpa data) := by
  intro h; simp_all [Instr.names, Instr.wf]
theorem bisnpResponse (line : Nat) (dirty : Option (List Byte)) : Statement (.bisnpResponse line dirty) := by
  intro h; simp_all [Instr.names, Instr.wf]
theorem biTimeout (line : Nat) : Statement (.biTimeout line) := by
  intro h; simp_all [Instr.names, Instr.wf]
theorem hostSnoop (line : Nat) : Statement (.hostSnoop line) := fun _ => rfl
theorem atsTranslationRefused (use : AtsUse) : Statement (.atsTranslationRefused use) := fun _ => rfl
theorem unsupportedRequest (fn : Nat) (off : Nat) : Statement (.unsupportedRequest fn off) := by
  intro h; simp_all [Instr.names, Instr.wf]
theorem ideIntegrityFail (stream : IdeStream) : Statement (.ideIntegrityFail stream) := fun _ => rfl
theorem getState : Statement (.getState) := fun _ => rfl
theorem getThermal : Statement (.getThermal) := fun _ => rfl
theorem mgmtAlarmAck (code : Nat) : Statement (.mgmtAlarmAck code) := fun _ => rfl
theorem injectArm (point : Nat) (param : Nat) : Statement (.injectArm point param) := fun _ => rfl
theorem imageStage (image : Nat) (off : Nat) (data : List Byte) : Statement (.imageStage image off data) := by
  intro h; simp_all [Instr.names, Instr.wf]
theorem imageSeal (image : Nat) (len : Nat) : Statement (.imageSeal image len) := by
  intro h; simp_all [Instr.names, Instr.wf]
theorem imageDiscard : Statement (.imageDiscard) := fun _ => rfl
theorem getVersion (t : Transport) : Statement (.getVersion t) := fun _ => rfl
theorem getCapabilities (t : Transport) : Statement (.getCapabilities t) := fun _ => rfl
theorem negotiateAlgorithms (t : Transport) (sha3 : Bool) (mldsa : Bool) (mlkem : Bool) (gcm : Bool) : Statement (.negotiateAlgorithms t sha3 mldsa mlkem gcm) := fun _ => rfl
theorem getDigests (t : Transport) : Statement (.getDigests t) := fun _ => rfl
theorem getCertificate (t : Transport) (slot : Nat) (off : Nat) (len : Nat) : Statement (.getCertificate t slot off len) := fun _ => rfl
theorem challenge (t : Transport) (slot : Nat) (nonce : List Byte) : Statement (.challenge t slot nonce) := fun _ => rfl
theorem getMeasurements (t : Transport) (index : Nat) (nonce : List Byte) : Statement (.getMeasurements t index nonce) := fun _ => rfl
theorem keyExchange (t : Transport) (ek : List Byte) : Statement (.keyExchange t ek) := fun _ => rfl
theorem finish (t : Transport) (mac : List Byte) : Statement (.finish t mac) := fun _ => rfl
theorem heartbeat (t : Transport) : Statement (.heartbeat t) := fun _ => rfl
theorem keyUpdate (t : Transport) (all : Bool) : Statement (.keyUpdate t all) := fun _ => rfl
theorem endSession (t : Transport) : Statement (.endSession t) := fun _ => rfl
theorem chunkGet (t : Transport) (index : Nat) : Statement (.chunkGet t index) := fun _ => rfl
theorem vendorDefinedRequest (t : Transport) (stream : IdeStream) (key : List Byte) : Statement (.vendorDefinedRequest t stream key) := fun _ => rfl
theorem entropyHealthFail : Statement (.entropyHealthFail) := fun _ => rfl
theorem vfEnableSet (num : Nat) : Statement (.vfEnableSet num) := by
  intro h; simp_all [Instr.names, Instr.wf]

end Laws.Shape

end Sys2Proof
end

