-- ==== Sys2Proof/Laws/Slots.lean ====
section
/-! SUPPORT. Laws/Slots.lean: mailbox slots: what a write of a slot leaves, and when no injection acts. -/

namespace Sys2Proof.Machine

@[simp] theorem State.fn_setHub (s : State) (h : Hub) (i : Nat) : (s.setHub h).fn i = s.fn i := rfl
@[simp] theorem State.fn_setFlights (s : State) (l : List Flight) (i : Nat) : (s.setFlights l).fn i = s.fn i := rfl
@[simp] theorem State.part_setHub (s : State) (h : Hub) (i : Nat) : (s.setHub h).part i = s.part i := rfl
@[simp] theorem State.part_setFlights (s : State) (l : List Flight) (i : Nat) : (s.setFlights l).part i = s.part i := rfl

theorem State.fn_modFn_self (s : State) {i : Nat} (h : i < s.fns.length) (f : Fn → Fn) : (s.modFn i f).fn i = f (s.fn i) := by
  simp only [State.fn, State.modFn, State.setFns_fns]; exact nth_modAt_self h f

theorem State.fn_modFn_of_ne (s : State) {i j : Nat} (h : i ≠ j) (f : Fn → Fn) : (s.modFn i f).fn j = s.fn j := by
  simp only [State.fn, State.modFn, State.setFns_fns]; exact nth_modAt_of_ne h f

theorem State.part_modPart_self (s : State) {i : Nat} (h : i < s.parts.length) (f : Part → Part) :
    (s.modPart i f).part i = f (s.part i) := by
  simp only [State.part, State.modPart, State.setParts_parts]; exact nth_modAt_self h f

theorem State.part_modPart_of_ne (s : State) {i j : Nat} (h : i ≠ j) (f : Part → Part) : (s.modPart i f).part j = s.part j := by
  simp only [State.part, State.modPart, State.setParts_parts]; exact nth_modAt_of_ne h f

theorem State.slab_modSlab_self (s : State) {i : Nat} (h : i < s.slabs.length) (f : Slab → Slab) :
    (s.modSlab i f).slab i = f (s.slab i) := by
  simp only [State.slab, State.modSlab, State.setSlabs_slabs]; exact nth_modAt_self h f

theorem State.slab_modSlab_of_ne (s : State) {i j : Nat} (h : i ≠ j) (f : Slab → Slab) : (s.modSlab i f).slab j = s.slab j := by
  simp only [State.slab, State.modSlab, State.setSlabs_slabs]; exact nth_modAt_of_ne h f

/-- A slot has its own number. -/
@[simp] theorem Fn.slot_idx (g : Fn) (k : Nat) : (g.slot k).idx = k := by
  unfold Fn.slot
  cases h : g.slots.find? fun b => b.idx == k with
  | none => rfl
  | some b => have := List.find?_some h; simpa using this

/-- A slot just written is found. -/
theorem Fn.slot_setSlot (g : Fn) (b : Slot) : (g.setSlot b).slot b.idx = b := by
  unfold Fn.setSlot Fn.slot
  split
  · rename_i h
    generalize g.slots = l at h ⊢
    induction l with
    | nil => simp at h
    | cons a t ih =>
      by_cases e : a.idx = b.idx
      · simp [modWhere, e]
      · have h2 : (t.any fun x => x.idx == b.idx) = true := by simpa [e] using h
        have := ih h2
        simp only [modWhere, List.map_cons] at this ⊢
        simpa [e] using this
  · rename_i h
    simp only [List.any_eq_true, not_exists, not_and, Bool.not_eq_true] at h
    have : (g.slots ++ [b]).find? (fun x => x.idx == b.idx) = some b := by
      rw [List.find?_append]
      have : g.slots.find? (fun x => x.idx == b.idx) = none := by
        rw [List.find?_eq_none]; intro x hx; simpa using h x hx
      simp [this]
    simp [this]

/-- Writing a slot twice leaves the second. -/
theorem Fn.setSlot_setSlot (g : Fn) (b c : Slot) (h : b.idx = c.idx) : (g.setSlot b).setSlot c = g.setSlot c := by
  obtain ⟨i, area, q, st, sta⟩ := b
  simp only at h
  subst h
  unfold Fn.setSlot
  by_cases e : g.slots.any fun x => x.idx == c.idx
  · have e2 : ((modWhere g.slots (fun x => x.idx == c.idx) fun _ => ⟨c.idx, area, q, st, sta⟩).any fun x => x.idx == c.idx) = true := by
      rw [← e]
      simp only [modWhere, List.any_map]
      congr 1
      funext x
      by_cases h : x.idx = c.idx <;> simp [h]
    rw [if_pos e]
    simp only [e2, if_true]
    rw [if_pos e]
    congr 1
    simp only [modWhere, List.map_map]
    apply List.map_congr_left
    intro x _
    by_cases h : x.idx = c.idx <;> simp [h]
  · rw [if_neg e]
    simp only [List.any_append, List.any_cons, beq_self_eq_true, Bool.true_or, Bool.or_true, if_true]
    rw [if_neg e]
    congr 1
    simp only [modWhere, List.map_append, List.map_cons, List.map_nil, beq_self_eq_true, if_true]
    congr 1
    simp only [List.any_eq_true, not_exists, not_and] at e
    conv => rhs; rw [← List.map_id g.slots]
    apply List.map_congr_left
    intro x hx
    simp [e x hx]

theorem State.setSlot_setSlot (s : State) (fn : Nat) (b c : Slot) (h : b.idx = c.idx) :
    (s.setSlot fn b).setSlot fn c = s.setSlot fn c := by
  show s.setFns (modAt (modAt s.fns fn fun g => g.setSlot b) fn fun g => g.setSlot c) = _
  rw [modAt_comp]
  show _ = s.setFns (modAt s.fns fn fun g => g.setSlot c)
  congr 2
  funext g
  exact Fn.setSlot_setSlot g b c h

theorem State.setHub_setSlot (s : State) (fn : Nat) (b : Slot) (h : Hub) :
    (s.setHub h).setSlot fn b = (s.setSlot fn b).setHub h := rfl

theorem State.setFlights_setHub (s : State) (l : List Flight) (h : Hub) :
    (s.setFlights l).setHub h = (s.setHub h).setFlights l := rfl

theorem State.setHub_setHub (s : State) (h j : Hub) : (s.setHub h).setHub j = s.setHub j := rfl

/-- A slot write changes only the slots of its function. -/
theorem Fn.setSlot_rest (g : Fn) (b : Slot) : g.setSlot b = { g with slots := (g.setSlot b).slots } := by
  unfold Fn.setSlot; split <;> rfl

theorem State.fn_setSlot_self (s : State) {fn : Nat} (h : fn < s.fns.length) (b : Slot) :
    (s.setSlot fn b).fn fn = (s.fn fn).setSlot b := s.fn_modFn_self h _

/-- The checks of R376 do not look at the slots' states. -/
theorem State.refuses_setSlot (s : State) {fn : Nat} (c : Cmd) (b x : Slot) (h : fn < s.fns.length) :
    (s.setSlot fn x).refuses fn c b = s.refuses fn c b := by
  simp only [State.refuses]
  rw [State.fn_setSlot_self s h, Fn.setSlot_rest]
  rfl

theorem Cmd.ofCode_code (c : Cmd) : Cmd.ofCode c.code = some c := by cases c <;> rfl

/-- No armed point satisfies a test: there is nothing to spend. -/
theorem spendFirst_none (p : Armed → Bool) (l : List Armed) (h : (l.all fun a => !p a) = true) : spendFirst p l = none := by
  induction l with
  | nil => rfl
  | cons a t ih =>
    simp only [List.all_cons, Bool.and_eq_true, Bool.not_eq_true'] at h
    simp [spendFirst, h.1, ih h.2]

/-- ... and a detector's opportunity changes nothing (R485). -/
theorem State.opportunity_none (s : State) (point : Nat) (p : Armed → Bool)
    (h : (s.talus.armed.all fun a => !(a.point == point && p a)) = true) : s.opportunity point p = (none, s) := by
  simp [State.opportunity, spendFirst_none _ _ h]


/-- The Steward takes a command that R376 does not refuse. -/
theorem State.accept_admit (s : State) (c : Cmd) (fn k : Nat) (b : Slot) (hb : b = { (s.fn fn).slot k with state := .owned })
   (h : (s.setSlot fn b).refuses fn c b = none) :
    (s.setSlot fn b).accept fn c b = (s.accepting c fn k).tryStart (s.sealed c fn k) := by
  have hbi : b.idx = k := by rw [hb]; simp
  unfold State.accept
  rw [h]
  simp only [State.takeSeq]
  have hf : flightOf fn (s.setSlot fn b).hub.seq c b = s.sealed c fn k := by subst hb; rfl
  rw [hf]
  congr 1
  rw [State.setHub_setSlot, State.setSlot_setSlot _ _ _ _ (by simp only [hbi])]
  simp only [State.accepting]
  split
  · rename_i hc; subst hb; have hd : decide (c = .serviceEnter) = true := decide_eq_true hc
    simp only [hd, Bool.or_true]; rfl
  · rename_i hc; subst hb
    have hd : decide (c = .serviceEnter) = false := decide_eq_false hc
    simp only [hd, Bool.or_false]
    rfl

theorem State.held_admit (s : State) (c : Cmd) (fn k : Nat) (h : s.held (s.sealed c fn k) = false) :
   (s.accepting c fn k).held (s.sealed c fn k) = false := by
  simp only [State.held, State.accepting, State.setFlights_flights, List.any_append] at h ⊢
  simp [h]

/-- A slot as the Steward owns it. -/
abbrev State.owned (s : State) (fn k : Nat) : Slot := { (s.fn fn).slot k with state := .owned }

theorem State.slot_owned (s : State) {fn : Nat} (k : Nat) (h : fn < s.fns.length) :
    ((s.setSlot fn (s.owned fn k)).fn fn).slot k = s.owned fn k := by
  rw [State.fn_setSlot_self s h]
  have := Fn.slot_setSlot (s.fn fn) (s.owned fn k)
  have e : (s.owned fn k).idx = k := by simp
  rwa [e] at this

/-- The seal of a slot in a module that works and is awake takes it (R375, R377). -/
theorem State.sealSlot_takes (s : State) (fn k : Nat) (hs : s.hub.stop = none) (hr : s.hub.rest = .awake) :
    s.sealSlot fn k = (s.setSlot fn (s.owned fn k)).take fn k := by
  unfold State.sealSlot
  have h1 : (s.setSlot fn (s.owned fn k)).hub.stop = none := hs
  have h2 : (s.setSlot fn (s.owned fn k)).hub.rest = .awake := hr
  simp only [h1, h2, Option.isSome_none, ne_eq, not_true_eq_false, if_false, Bool.false_eq_true]

/-- A slot taken with the OPCODE of a command is judged as that command (R376). -/
theorem State.take_command (s : State) {fn k : Nat} {c : Cmd} (h : fn < s.fns.length) (hc : ((s.fn fn).slot k).opcode = c.code) :
    (s.setSlot fn (s.owned fn k)).take fn k = (s.setSlot fn (s.owned fn k)).accept fn c (s.owned fn k) := by
  unfold State.take
  rw [State.slot_owned s k h]
  have hop : (s.owned fn k).opcode = c.code := hc
  simp only [hop, Cmd.ofCode_code, ne_eq, not_true_eq_false, if_false]

/-- ... and with an OPCODE of none is refused (R376). -/
theorem State.take_unknown (s : State) {fn k : Nat} (h : fn < s.fns.length) (hc : Cmd.ofCode ((s.fn fn).slot k).opcode = none) :
    (s.setSlot fn (s.owned fn k)).take fn k = s.setSlot fn { s.owned fn k with state := .refused, status := .opcode } := by
  unfold State.take
  rw [State.slot_owned s k h]
  have hop : Cmd.ofCode (s.owned fn k).opcode = none := hc
  simp only [hop, ne_eq, not_true_eq_false, if_false]
  exact State.setSlot_setSlot _ _ _ _ (by simp)

/-- A command that R376 refuses: only its slot changes. -/
theorem State.accept_refused (s : State) {fn k : Nat} {c : Cmd} {e : St} (h : fn < s.fns.length)
    (hr : s.refuses fn c (s.owned fn k) = some e) :
    (s.setSlot fn (s.owned fn k)).accept fn c (s.owned fn k) = s.setSlot fn { s.owned fn k with state := .refused, status := e } := by
  unfold State.accept
  rw [State.refuses_setSlot s c _ _ h, hr]
  exact State.setSlot_setSlot _ _ _ _ (by simp)

/-- The row of a slot that the host may seal seals it. -/
theorem sealRow_seals (s : State) {c : Cmd} {fn k : Nat} (ho : s.barOpen fn = true) (hk : k < 256)
    (hw : ((s.fn fn).slot k).state ≠ .owned) (hc : ((s.fn fn).slot k).opcode = c.code) : sealRow c fn k s = s.sealSlot fn k := by
  unfold sealRow; simp [ho, hk, hw, hc]

theorem sealUnknown_seals (s : State) {fn k : Nat} (ho : s.barOpen fn = true) (hk : k < 256)
    (hw : ((s.fn fn).slot k).state ≠ .owned) (hc : Cmd.ofCode ((s.fn fn).slot k).opcode = none) :
    sealUnknown fn k s = s.sealSlot fn k := by
  unfold sealUnknown; simp [ho, hk, hw, hc]

/-- The seal of a slot whose command starts. -/
theorem sealRow_starts (s : State) (c : Cmd) (fn k : Nat) (h : s.starts c fn k = true) :
    sealRow c fn k s = (s.accepting c fn k).start (s.sealed c fn k) := by
  simp only [State.starts, Bool.and_eq_true, decide_eq_true_eq, Option.isNone_iff_eq_none, Bool.not_eq_true', beq_iff_eq] at h
  obtain ⟨⟨⟨⟨⟨⟨⟨⟨⟨hfn, hl⟩, hk⟩, hopen⟩, hown⟩, hcode⟩, hstop⟩, hrest⟩, href⟩, hheld⟩ := h
  have hfl : fn < s.fns.length := by omega
  rw [sealRow_seals s hopen hk hown hcode, State.sealSlot_takes s fn k hstop hrest, State.take_command s hfl hcode]
  have hr : (s.setSlot fn (s.owned fn k)).refuses fn c (s.owned fn k) = none := by
    rw [State.refuses_setSlot s c _ _ hfl]; exact href
  rw [State.accept_admit s c fn k _ rfl hr]
  unfold State.tryStart
  rw [State.held_admit s c fn k hheld]
  simp only [Bool.false_eq_true, if_false]

/-- A command taken keeps what its function may send. -/
theorem State.accepting_masters (s : State) (c : Cmd) {fn : Nat} (k : Nat) (h : fn < s.fns.length) :
    ((s.accepting c fn k).fn fn).masters = (s.fn fn).masters := by
  have e : (s.accepting c fn k).fn fn = (s.fn fn).setSlot { (s.fn fn).slot k with state := .accepted, status := .ok, seq := s.hub.seq } :=
    State.fn_setSlot_self s h _
  rw [e, Fn.setSlot_rest]; rfl

/-- The seal of a slot whose command is ready performs it. -/
theorem sealRow_ready (s : State) (c : Cmd) (fn k : Nat) (h : s.ready c fn k = true) :
    sealRow c fn k s = (s.accepting c fn k).perform (s.sealed c fn k) := by
  simp only [State.ready, Bool.and_eq_true, Bool.or_eq_true, Option.isNone_iff_eq_none, Bool.not_eq_true'] at h
  obtain ⟨⟨hst, hses⟩, hhost⟩ := h
  rw [sealRow_starts s c fn k hst]
  have hfl : fn < s.fns.length := by
    simp only [State.starts, Bool.and_eq_true, decide_eq_true_eq] at hst
    omega
  unfold State.start
  have hp : (s.accepting c fn k).part (s.sealed c fn k).fn = s.part fn := rfl
  rw [hp, hses]
  simp only
  unfold State.proceed
  have e : ((s.accepting c fn k).fn (s.sealed c fn k).fn).masters = (s.fn fn).masters := State.accepting_masters s c k hfl
  rw [e]
  rcases hhost with h | h <;> simp [h]

/-- The row of a command is the seal of its slot. -/
theorem exec_row (c : Cmd) (fn k : Nat) (s : State) : exec (c.row fn k) s = .next (sealRow c fn k s) := by
  cases c <;> rfl

@[simp] theorem State.admit_part (s : State) (c : Cmd) (fn k i : Nat) : (s.accepting c fn k).part i = s.part i := rfl
@[simp] theorem State.admit_slabs (s : State) (c : Cmd) (fn k : Nat) : (s.accepting c fn k).slabs = s.slabs := rfl
@[simp] theorem State.admit_codec (s : State) (c : Cmd) (fn k : Nat) : (s.accepting c fn k).codec = s.codec := rfl
@[simp] theorem State.admit_geode (s : State) (c : Cmd) (fn k : Nat) : (s.accepting c fn k).geode = s.geode := rfl
@[simp] theorem State.admit_talus (s : State) (c : Cmd) (fn k : Nat) : (s.accepting c fn k).talus = s.talus := rfl
@[simp] theorem State.admit_port (s : State) (c : Cmd) (fn k : Nat) : (s.accepting c fn k).port = s.port := rfl
@[simp] theorem State.admit_nextHandle (s : State) (c : Cmd) (fn k : Nat) : (s.accepting c fn k).nextHandle = s.nextHandle := rfl
@[simp] theorem State.admit_host (s : State) (c : Cmd) (fn k : Nat) : (s.accepting c fn k).host = s.host := rfl
@[simp] theorem State.admit_parts (s : State) (c : Cmd) (fn k : Nat) : (s.accepting c fn k).parts = s.parts := rfl
@[simp] theorem State.admit_power (s : State) (c : Cmd) (fn k : Nat) : (s.accepting c fn k).power = s.power := rfl
@[simp] theorem State.admit_free (s : State) (c : Cmd) (fn k : Nat) : (s.accepting c fn k).free = s.free := rfl
@[simp] theorem State.admit_pending (s : State) (c : Cmd) (fn k : Nat) : (s.accepting c fn k).pending = s.pending := rfl
@[simp] theorem State.admit_stop (s : State) (c : Cmd) (fn k : Nat) : (s.accepting c fn k).hub.stop = s.hub.stop := rfl
@[simp] theorem State.admit_flights (s : State) (c : Cmd) (fn k : Nat) :
    (s.accepting c fn k).flights = s.flights ++ [s.sealed c fn k] := rfl
@[simp] theorem State.sealed_fn (s : State) (c : Cmd) (fn k : Nat) : (s.sealed c fn k).fn = fn := rfl
@[simp] theorem State.sealed_seq (s : State) (c : Cmd) (fn k : Nat) : (s.sealed c fn k).seq = s.hub.seq := rfl
@[simp] theorem State.sealed_cmd (s : State) (c : Cmd) (fn k : Nat) : (s.sealed c fn k).cmd = c := rfl

end Sys2Proof.Machine
end

