-- ==== Sys2Proof/Laws/Units.lean ====
section
/-! SUPPORT. Units.lean: what the rows of unit operations do, once for all of them, and the reads that meet no damaged word
and no injection. -/

namespace Sys2Proof.Machine

theorem State.firing_eq {s : State} {slab u op : Nat} {o : OpE} (h : s.firing slab u op = some o) :
    (s.queue slab u).head? = some o ∧ o.op = op ∧ o.coupled = false ∧ s.canFire slab o o.waits = true := by
  simp only [State.firing, Option.filter_eq_some_iff, Bool.and_eq_true, beq_iff_eq, Bool.not_eq_true'] at h
  exact ⟨h.1, h.2.1.1, h.2.1.2, h.2.2⟩

/-- A unit row whose operation can fire: the operation fires, and then acts. -/
theorem fireRow_firing {s : State} {slab u op : Nat} {o : OpE} (h : s.firing slab u op = some o)
    (act : State → Nat → OpE → State) : fireRow u op act slab s = act (s.fire slab o) slab o := by
  obtain ⟨h1, h2, h3, h4⟩ := State.firing_eq h
  simp [fireRow, h1, h2, h3, h4]

/-- A unit row whose operation cannot fire. -/
theorem fireRow_waits {s : State} {slab u op : Nat} (h : s.firing slab u op = none) (act : State → Nat → OpE → State) :
    fireRow u op act slab s = s := by
  unfold fireRow
  split
  · rfl
  · rename_i o e
    split
    · rename_i hc
      simp only [State.firing, e, Option.filter_some] at h
      simp [hc] at h
    · rfl

/-- The row of a coupled consumer whose pair has fired moves the pair's data. -/
theorem partnerRow_joining {s : State} {slab u op : Nat} {o : OpE} (h : s.joining slab u op = some o)
    (act : State → Nat → OpE → State) : partnerRow u op act slab s = act (s.join slab o) slab o := by
  simp only [State.joining, Option.filter_eq_some_iff] at h
  simp [partnerRow, h.1, h.2]

/-- ... and one whose pair has not fired waits. -/
theorem partnerRow_waits {s : State} {slab u op : Nat} (h : s.joining slab u op = none) (act : State → Nat → OpE → State) :
    partnerRow u op act slab s = s := by
  unfold partnerRow
  split
  · rfl
  · rename_i o e
    split
    · rename_i hc
      simp [State.joining, e, hc] at h
    · rfl

theorem spendFirst_nil (p : Armed → Bool) : spendFirst p [] = none := rfl

theorem State.opportunity_unarmed {s : State} (h : s.talus.armed = []) (point : Nat) (p : Armed → Bool) :
    s.opportunity point p = (none, s) := by simp [State.opportunity, h, spendFirst_nil]

theorem State.clean_nextFree {s : State} {slab : Nat} (h : s.clean slab) (n : Nat) : (nextFree s n).clean slab := h

/-- A read that meets no bad word, with no injection armed, is good. -/
theorem State.meetCodes_clean {s : State} (h : s.talus.armed = []) (lim p1 p2 : Nat) (armed : Armed → Bool)
    (same : Armed → Upset → Bool) (report : State → Option Upset → Option Armed → State) :
    s.meetCodes [] lim p1 p2 armed same report = (s, none) := by
  simp [State.meetCodes, State.opportunity_unarmed h]

/-- A read of the scratchpad that meets nothing draws one free value. -/
theorem State.readSpad_clean {s : State} {slab : Nat} (h : s.clean slab) (p c off n : Nat) (hit : Place → Bool) :
    s.readSpad slab p c off n hit = (nextFree s 1, none) := by
  simp only [State.readSpad, h.1, List.filter_nil]
  exact State.meetCodes_clean (s := nextFree s 1) h.2 ..

/-- ... and so does a read of HBM. -/
theorem State.readHbm_clean {s : State} {slab : Nat} (h : s.clean slab) (p : Nat) (hit : Place → Bool)
    (addr : Option (Nat × Nat)) (start : Bool) : s.readHbm slab p hit addr start = (nextFree s 1, none) := by
  simp only [State.readHbm, h.1, List.filter_nil]
  exact State.meetCodes_clean (s := nextFree s 1) h.2 ..

theorem State.readAcc_clean {s : State} {slab : Nat} (h : s.clean slab) (p c slot phys a n : Nat) :
    s.readAcc slab p c slot phys a n = (s, none) := by
  unfold State.readAcc
  split
  · rfl
  · simp only [h.1, List.filter_nil]
    exact State.meetCodes_clean h.2 ..

theorem State.eccShare_clean {s : State} {slab : Nat} (h : s.clean slab) (p c q : Nat) (l : List (Nat × Nat)) :
    ∃ n, s.eccShare p c q slab l = (nextFree s n, none) := by
  induction l generalizing s with
  | nil => exact ⟨0, rfl⟩
  | cons x t ih =>
    obtain ⟨a, n⟩ := x
    unfold State.eccShare
    split
    · exact ih h
    · simp only [State.readSpad_clean h]
      obtain ⟨m, e⟩ := ih (State.clean_nextFree h 1)
      exact ⟨1 + m, by rw [e]; simp [nextFree, Nat.add_assoc]; rfl⟩

theorem State.withShare_clean {s : State} {slab : Nat} (h : s.clean slab) (o : OpE) (l : List (Nat × Nat)) (k : State → State) :
    ∃ n, s.withShare slab o l k = k (nextFree s n) := by
  obtain ⟨n, e⟩ := State.eccShare_clean h o.part o.ctx o.seq l
  exact ⟨n, by simp [State.withShare, e]⟩

theorem State.withAcc_clean {s : State} {slab : Nat} (h : s.clean slab) (o : OpE) (i a n : Nat) (k : State → State) :
    s.withAcc slab o i a n k = k s := by simp [State.withAcc, State.readAcc_clean h]

end Sys2Proof.Machine
end

