-- ==== Sys2Proof/Laws/Within.lean ====
section
/-! SUPPORT. Laws/Within.lean: what an operation of a partition leaves as it was: everything of the other partitions, and the
module around them (R297, R405). -/

namespace Sys2Proof.Machine

/-- From s to t only partition p's own things changed, and what events report: its contexts, models, regions, results and
flat memory, its codec sessions' frames, the slabs that it shares, and the flights. -/
structure Within (p : Nat) (s t : State) : Prop where
  pending : t.pending = s.pending
  geode : t.geode = s.geode
  power : t.power = s.power
  port : t.port = s.port
  nextHandle : t.nextHandle = s.nextHandle
  hub : t.hub = { s.hub with seq := t.hub.seq }
  fns : t.fns.map Fn.bare = s.fns.map Fn.bare
  count : t.parts.length = s.parts.length
  parts : ∀ j, j ≠ p → t.part j = s.part j
  cores : t.codec.cores = s.codec.cores
  sessions : (t.codec.sessions.filter fun x => x.part != p) = s.codec.sessions.filter fun x => x.part != p

theorem Within.refl (p : Nat) (s : State) : Within p s s := ⟨rfl, rfl, rfl, rfl, rfl, rfl, rfl, rfl, fun _ _ => rfl, rfl, rfl⟩

theorem Within.trans {p : Nat} {r s t : State} (h : Within p r s) (k : Within p s t) : Within p r t :=
  ⟨k.pending.trans h.pending, k.geode.trans h.geode, k.power.trans h.power, k.port.trans h.port,
    k.nextHandle.trans h.nextHandle, by rw [k.hub, h.hub], k.fns.trans h.fns, k.count.trans h.count,
    fun j e => (k.parts j e).trans (h.parts j e), k.cores.trans h.cores, k.sessions.trans h.sessions⟩

/-- A report of an event stays within any partition. -/
theorem Told.within {s t : State} (h : Told s t) (p : Nat) : Within p s t :=
  ⟨h.pending, h.geode, h.power, h.port, h.nextHandle, h.hub, h.fns, by rw [h.parts],
    fun j _ => by simp only [State.part, h.parts], by rw [h.codec], by rw [h.codec]⟩

theorem Within.told {p : Nat} {r s t : State} (h : Within p r s) (k : Told s t) : Within p r t := h.trans (k.within p)

theorem Within.snd {p : Nat} {r t : State} {α : Type} {q : α × State} {a : α} (e : q = (a, t)) (h : Within p r q.2) :
    Within p r t := by subst e; exact h

theorem Within.fst {p : Nat} {r t : State} {α : Type} {q : State × α} {a : α} (e : q = (t, a)) (h : Within p r q.1) :
    Within p r t := by subst e; exact h

theorem Within.foldl {p : Nat} {r : State} {α : Type} (g : State → α → State) (h : ∀ b a, Within p r b → Within p r (g b a))
    (l : List α) {s : State} (k : Within p r s) : Within p r (l.foldl g s) := by
  induction l generalizing s with
  | nil => exact k
  | cons a t ih => exact ih (h _ _ k)

/-! ### The named updates -/

theorem within_setSlabs {p : Nat} {r s : State} (k : Within p r s) (l : List Slab) : Within p r (s.setSlabs l) :=
  k.trans ⟨rfl, rfl, rfl, rfl, rfl, rfl, rfl, rfl, fun _ _ => rfl, rfl, rfl⟩

theorem within_modSlab {p : Nat} {r s : State} (k : Within p r s) (i : Nat) (f : Slab → Slab) : Within p r (s.modSlab i f) :=
  within_setSlabs k _

theorem within_setFlights {p : Nat} {r s : State} (k : Within p r s) (l : List Flight) : Within p r (s.setFlights l) :=
  k.trans ⟨rfl, rfl, rfl, rfl, rfl, rfl, rfl, rfl, fun _ _ => rfl, rfl, rfl⟩

theorem within_modFlight {p : Nat} {r s : State} (k : Within p r s) (q : Nat) (f : Flight → Flight) : Within p r (s.modFlight q f) :=
  within_setFlights k _

theorem within_setFree {p : Nat} {r s : State} (k : Within p r s) (n : Nat) : Within p r (s.setFree n) :=
  k.trans ⟨rfl, rfl, rfl, rfl, rfl, rfl, rfl, rfl, fun _ _ => rfl, rfl, rfl⟩

theorem within_setTalus {p : Nat} {r s : State} (k : Within p r s) (t : Talus) : Within p r (s.setTalus t) :=
  k.trans ⟨rfl, rfl, rfl, rfl, rfl, rfl, rfl, rfl, fun _ _ => rfl, rfl, rfl⟩

theorem within_writeHost {p : Nat} {r s : State} (k : Within p r s) (fn a : Nat) (bs : List Byte) : Within p r (s.writeHost fn a bs) :=
  k.trans ⟨rfl, rfl, rfl, rfl, rfl, rfl, rfl, rfl, fun _ _ => rfl, rfl, rfl⟩

theorem within_modPart {p : Nat} {r s : State} (k : Within p r s) (f : Part → Part) : Within p r (s.modPart p f) :=
  k.trans ⟨rfl, rfl, rfl, rfl, rfl, rfl, rfl, by simp, fun _ h => State.part_modPart_of_ne s (Ne.symm h) f, rfl, rfl⟩

theorem within_modCtx {p : Nat} {r s : State} (k : Within p r s) (n : Nat) (f : Ctx → Ctx) : Within p r (s.modCtx p n f) :=
  within_modPart k _

theorem modWhere_filter {α : Type} (l : List α) (p q : α → Bool) (f : α → α) (h : ∀ x, p x = true → q x = false ∧ q (f x) = false) :
    (modWhere l p f).filter q = l.filter q := by
  induction l with
  | nil => rfl
  | cons a t ih =>
    simp only [modWhere, List.map_cons] at ih ⊢
    by_cases e : p a = true
    · simp [e, h a e, ih]
    · simp [e, List.filter_cons, ih]

/-- A change of sessions of partition p that stay p's. -/
theorem within_modSessions {p : Nat} {r s : State} (k : Within p r s) (g : CodecSession → Bool) (f : CodecSession → CodecSession)
    (h : ∀ x, (f x).part = x.part) :
    Within p r (s.setCodec { s.codec with sessions := modWhere s.codec.sessions (fun x => g x && x.part == p) f }) :=
  k.trans ⟨rfl, rfl, rfl, rfl, rfl, rfl, rfl, rfl, fun _ _ => rfl, rfl, modWhere_filter _ _ _ _ fun x e => by
    simp only [Bool.and_eq_true, beq_iff_eq] at e
    simp [h, e.2]⟩

/-! ### The stop of a context's operations -/

theorem CodecSession.blurSink_part (c : CodecSession) (a : Nat) (bs : List Byte) : (c.blurSink a bs).part = c.part := by
  unfold CodecSession.blurSink
  dsimp only
  split
  · rfl
  · split <;> rfl

theorem State.blur_within {p : Nat} {r s : State} (k : Within p r s) (c : Nat) (w : Wrote) : Within p r (s.blur p c w) := by
  unfold State.blur
  dsimp only
  split
  · exact within_modPart (within_setFree k _) _
  · exact within_modPart (within_setFree k _) _
  · exact within_writeHost (within_setFree k _) ..
  · exact within_modSessions (within_setFree k _) _ _ fun x => CodecSession.blurSink_part ..
  · exact within_modCtx (within_setFree k _) _ _

theorem State.nanEvent_within {p : Nat} {r s : State} (k : Within p r s) (slab : Nat) (o : OpE) (u a b c : Nat) (i : Bool) :
    Within p r (s.nanEvent slab o u a b c i) := by
  unfold State.nanEvent
  exact k.told (State.emit_told (Told.refl _) ..)

theorem State.reportLists_within {p : Nat} {r s : State} (k : Within p r s) (slab part ctx : Nat) :
    Within p r (s.reportLists slab part ctx) := by
  unfold State.reportLists
  refine Within.foldl _ (fun b a h => ?_) _ k
  split
  · split
    · exact State.nanEvent_within h ..
    · exact h
  · exact h

theorem State.discardOutputs_within {p : Nat} {r s : State} (k : Within p r s) (slab ctx keep : Nat) :
    Within p r (s.discardOutputs slab p ctx keep) :=
  Within.foldl _ (fun _ _ h => State.blur_within h ..) _ k

theorem State.stopOps_within {p : Nat} {r s : State} (k : Within p r s) (ctx slab id : Nat) : Within p r (s.stopOps p ctx slab id) :=
  Within.foldl _ (fun _ _ h => State.discardOutputs_within (State.reportLists_within h ..) ..) _ k

theorem State.endCmd_within {p : Nat} {r s : State} (k : Within p r s) (f : Flight) (h : f.fn = p) (c : St) (a b : Nat) :
    Within p r (s.endCmd f c a b) := by
  unfold State.endCmd
  dsimp only
  refine within_modFlight ?_ _ _
  split
  · rw [h]; exact within_modPart k _
  · exact k

theorem State.dropHeldOf_within {p : Nat} {r s : State} (k : Within p r s) (f : Flight) (h : f.fn = p) :
    Within p r (s.dropHeldOf f) := by
  unfold State.dropHeldOf
  split
  · rw [h]; exact within_modPart k _
  · exact k

theorem Within.foldlMem {p : Nat} {r : State} {α : Type} (g : State → α → State) (l : List α)
    (h : ∀ b, ∀ a ∈ l, Within p r b → Within p r (g b a)) {s : State} (k : Within p r s) : Within p r (l.foldl g s) := by
  induction l generalizing s with
  | nil => exact k
  | cons a t ih => exact ih (fun b x e => h b x (List.mem_cons_of_mem _ e)) (h _ a (List.mem_cons_self ..) k)

/-- A context fault stays within its partition (R82, R383). -/
theorem State.contextFault_within {p : Nat} {r s : State} (k : Within p r s) (ctx : Nat) (i : FaultInfo) :
    Within p r (s.contextFault p ctx i) := by
  unfold State.contextFault
  dsimp only
  refine Within.told ?_ (State.emit_told (Told.refl _) ..)
  refine within_modCtx ?_ _ _
  refine Within.foldlMem _ _ (fun b a h w => ?_) (within_setSlabs (State.stopOps_within k ..) _)
  have e : a.fn = p := by
    simp only [List.mem_filter, State.ofCtx, Bool.and_eq_true, beq_iff_eq] at h
    exact h.2.1
  split
  · exact State.endCmd_within w _ e ..
  · exact State.dropHeldOf_within (State.endCmd_within w _ e ..) _ e

/-! ### A partition's end -/

theorem State.disarmPartCtxs_within {p : Nat} {r s : State} (k : Within p r s) (q : Nat) : Within p r (s.disarmPartCtxs q) :=
  within_setTalus k _

theorem State.dropBad_within {p : Nat} {r s : State} (k : Within p r s) (f : Place → Bool) : Within p r (s.dropBad f) :=
  within_setSlabs k _

theorem State.dropPart_within {p : Nat} {r s : State} (k : Within p r s) : Within p r (s.dropPart p) :=
  within_setSlabs (Within.foldl _ (fun _ _ h => State.stopOps_within h ..) _ k) _

theorem State.teardownAll_within {p : Nat} {r s : State} (k : Within p r s) : Within p r (s.teardownAll p) := by
  unfold State.teardownAll
  exact State.dropBad_within (State.disarmPartCtxs_within (within_modPart (State.dropPart_within k) _) _) _

theorem State.abortPart_within {p : Nat} {r s : State} (k : Within p r s) (q : Nat) : Within p r (s.abortPart p q) :=
  within_setFlights k _

theorem State.destroyPart_eq (s : State) (p q : Nat) :
    s.destroyPart p q = ((((s.abortPart p q).teardownAll p).setCodec (((s.abortPart p q).teardownAll p).codec.closePart p)).modPart p
      fun _ => Part.absent).dropBad fun x => placePart x == some p := rfl

/-- The end of a partition leaves it absent (R402) ... -/
theorem State.destroyPart_gone (s : State) {p : Nat} (h : p < s.parts.length) (q : Nat) : (s.destroyPart p q).part p = Part.absent := by
  have w := State.teardownAll_within (State.abortPart_within (Within.refl p s) q)
  rw [State.destroyPart_eq]
  exact State.part_modPart_self (s := ((s.abortPart p q).teardownAll p).setCodec _) (by rw [← w.count] at h; exact h) _

/-- ... leaves every other partition, and ends its codec sessions. -/
theorem State.destroyPart_rest (s : State) (p q : Nat) :
    (∀ j, j ≠ p → (s.destroyPart p q).part j = s.part j) ∧
    ((s.destroyPart p q).codec.sessions = s.codec.sessions.filter fun x => x.part != p) ∧
    (s.destroyPart p q).hub = { s.hub with seq := (s.destroyPart p q).hub.seq } ∧ (s.destroyPart p q).power = s.power ∧
    (s.destroyPart p q).port = s.port ∧ (s.destroyPart p q).geode = s.geode ∧
    (s.destroyPart p q).fns.map Fn.bare = s.fns.map Fn.bare := by
  have w := State.teardownAll_within (State.abortPart_within (Within.refl p s) q)
  rw [State.destroyPart_eq]
  exact ⟨fun j hj => (State.part_modPart_of_ne (((s.abortPart p q).teardownAll p).setCodec _) (Ne.symm hj) _).trans (w.parts j hj),
    w.sessions, w.hub, w.power, w.port, w.geode, w.fns⟩

/-! ### Slabs at rest -/

/-- With nothing selected or started on a slab there is nothing to discard or to report there. -/
theorem State.stopOps_quiet {s : State} (h : ∀ b ∈ s.slabs, b.live = [] ∧ b.started = []) (p c slab id : Nat) :
    s.stopOps p c slab id = s := by
  have hs : ∀ k, (s.slab k).live = [] ∧ (s.slab k).started = [] := by
    intro k
    unfold State.slab nth
    by_cases e : k < s.slabs.length
    · rw [List.getD_eq_getElem _ _ e]; exact h _ (List.getElem_mem e)
    · rw [List.getD_eq_default _ _ (by omega)]; exact ⟨rfl, rfl⟩
  unfold State.stopOps
  generalize List.range 8 = l
  induction l with
  | nil => rfl
  | cons a t ih =>
    simp only [List.foldl_cons]
    have e1 : s.reportLists a p c = s := by simp [State.reportLists, (hs a).2]
    have e2 : s.discardOutputs a p c (if a = slab then id else 0) = s := by simp [State.discardOutputs, (hs a).1]
    rw [e1, e2]; exact ih

theorem State.dropPart_quiet {s : State} (h : ∀ b ∈ s.slabs, b.live = [] ∧ b.started = []) (p : Nat) :
    s.dropPart p = s.setSlabs (s.slabs.map fun b =>
      b.dropPart p ((s.flights.filter fun f => f.fn == p && f.run.isSome).map Flight.seq)) := by
  unfold State.dropPart
  have : (s.part p).ctxs.foldl (fun s c => s.stopOps p c.num 0 0) s = s := by
    generalize (s.part p).ctxs = l
    induction l with
    | nil => rfl
    | cons a t ih => rw [List.foldl_cons, State.stopOps_quiet h]; exact ih
  rw [this]

/-- Nothing runs on any slab. -/
def State.slabsQuiet (s : State) : Prop := ∀ b ∈ s.slabs, b.live = [] ∧ b.started = []

theorem State.destroyPart_quiet {s : State} (h : s.slabsQuiet) (p q : Nat) :
    (s.destroyPart p q).host = s.host ∧ (s.destroyPart p q).fns = s.fns := by
  have e : (s.abortPart p q).dropPart p = _ := State.dropPart_quiet (s := s.abortPart p q) h p
  rw [State.destroyPart_eq]
  unfold State.teardownAll
  rw [e]
  exact ⟨rfl, rfl⟩

end Sys2Proof.Machine
end

