-- ==== Sys2Proof/Laws/WithinUnits.lean ====
section
/-! SUPPORT. Laws/WithinUnits.lean: what the operations of a slab's units change lies within their own partition (R297, R405). -/

set_option linter.all false

namespace Sys2Proof.Machine

theorem Within.foldlFst {p : Nat} {r : State} {α β : Type} (g : State × β → α → State × β)
    (h : ∀ b a, Within p r b.1 → Within p r (g b a).1) (l : List α) {q : State × β} (k : Within p r q.1) :
    Within p r (l.foldl g q).1 := by
  induction l generalizing q with
  | nil => exact k
  | cons a t ih => exact ih (h _ _ k)

theorem State.opportunity_within {p : Nat} {r s : State} (k : Within p r s) (point : Nat) (f : Armed → Bool) :
    Within p r (s.opportunity point f).2 := k.told (State.opportunity_told (Told.refl _) ..)

theorem State.moduleEvent_within {p : Nat} {r s : State} (k : Within p r s) (code : St) (part src unit d0 d1 d2 : Nat) (inj : Bool) :
    Within p r (s.moduleEvent code part src unit d0 d1 d2 inj) := k.told (State.moduleEvent_told (Told.refl _) ..)

theorem State.drainOf_part {s : State} {slab : Nat} {o q : OpE} (h : s.drainOf slab o = some q) : q.part = o.part := by
  have := List.find?_some h
  simp only [OpE.sameCtx, Bool.and_eq_true, beq_iff_eq] at this
  exact this.2.1

theorem State.xfFault_within {r s : State} {o : OpE} (k : Within o.part r s) (slab : Nat) (code : St) (unit item : Nat) (inj : Bool) :
    Within o.part r (s.xfFault slab o code unit item inj) := State.contextFault_within k _ _

theorem nextFree_within {p : Nat} {r s : State} (k : Within p r s) (n : Nat) : Within p r (nextFree s n) := within_setFree k _

theorem State.modPlace_within {p : Nat} {r s : State} (k : Within p r s) (h i slab : Nat) (g : PlaceState → PlaceState) :
    Within p r (s.modPlace p h i slab g) := within_modPart k _

theorem State.modRegion_within {p : Nat} {r s : State} (k : Within p r s) (h : Nat) (g : Region → Region) :
    Within p r (s.modRegion p h g) := within_modPart k _

theorem State.countHbm_within {p : Nat} {s₀ s : State} (k : Within p s₀ s) (slab : Nat) (j : Nat) (n : Nat) : Within p s₀ (State.countHbm s slab j n) := by
  unfold State.countHbm
  repeat' first
    | with_reducible assumption
    | with_reducible apply within_modSlab
    | intro _
    | split
    | dsimp only
    | with_reducible rfl

theorem State.countSpad_within {p : Nat} {s₀ s : State} (k : Within p s₀ s) (slab : Nat) (n : Nat) : Within p s₀ (State.countSpad s slab n) := by
  unfold State.countSpad
  repeat' first
    | with_reducible assumption
    | with_reducible apply within_modSlab
    | intro _
    | split
    | dsimp only
    | with_reducible rfl

theorem State.hbmCorrected_within {p : Nat} {s₀ s : State} (k : Within p s₀ s) (slab : Nat) (j : Nat) (w : HbmWord) (inj : Bool) : Within p s₀ (State.hbmCorrected s slab j w inj) := by
  unfold State.hbmCorrected
  repeat' first
    | with_reducible assumption
    | with_reducible apply State.moduleEvent_within
    | with_reducible apply nextFree_within
    | with_reducible apply State.countHbm_within
    | intro _
    | split
    | dsimp only
    | with_reducible rfl

theorem State.spadCorrectedEv_within {p : Nat} {s₀ s : State} (k : Within p s₀ s) (slab : Nat) (phys : Option Nat) (n : Nat) (inj : Bool) : Within p s₀ (State.spadCorrectedEv s slab phys n inj) := by
  unfold State.spadCorrectedEv
  repeat' first
    | with_reducible assumption
    | with_reducible apply State.moduleEvent_within
    | with_reducible apply nextFree_within
    | with_reducible apply State.countSpad_within
    | intro _
    | split
    | dsimp only
    | with_reducible rfl

theorem State.accCorrectedEv_within {p : Nat} {s₀ s : State} (k : Within p s₀ s) (slab : Nat) (phys : Nat) (idx : Nat) (inj : Bool) : Within p s₀ (State.accCorrectedEv s slab phys idx inj) := by
  unfold State.accCorrectedEv
  repeat' first
    | with_reducible assumption
    | with_reducible apply State.moduleEvent_within
    | with_reducible apply State.countSpad_within
    | intro _
    | split
    | dsimp only
    | with_reducible rfl

theorem State.meetCodes_within {p : Nat} {s₀ s : State} (k : Within p s₀ s) (us : List Upset) (lim : Nat) (p1 : Nat) (p2 : Nat) (armed : Armed → Bool) (same : Armed → Upset → Bool) (report : State → Option Upset → Option Armed → State) (hreport : ∀ t x0 x1, Within p s₀ t → Within p s₀ (report t x0 x1)) : Within p s₀ (State.meetCodes s us lim p1 p2 armed same report).1 := by
  unfold State.meetCodes
  repeat' first
    | with_reducible assumption
    | with_reducible apply hreport
    | with_reducible apply State.opportunity_within
    | with_reducible refine Within.foldl _ (fun _ _ _ => ?_) _ ?_
    | with_reducible refine Within.foldlFst _ (fun _ _ _ => ?_) _ ?_
    | intro _
    | split
    | dsimp only
    | refine Within.snd (by assumption) ?_
    | refine Within.fst (by assumption) ?_
    | with_reducible rfl

theorem State.readHbm_within {p : Nat} {s₀ s : State} (k : Within p s₀ s) (slab : Nat) (hit : Place → Bool) (addr : Option (Nat × Nat)) (start : Bool) : Within p s₀ (State.readHbm s slab p hit addr start).1 := by
  unfold State.readHbm
  repeat' first
    | with_reducible assumption
    | with_reducible apply nextFree_within
    | with_reducible apply State.hbmCorrected_within
    | with_reducible apply State.meetCodes_within
    | with_reducible apply within_modSlab
    | intro _
    | split
    | dsimp only
    | refine Within.snd (by assumption) ?_
    | refine Within.fst (by assumption) ?_
    | with_reducible rfl

theorem State.readSpad_within {p : Nat} {s₀ s : State} (k : Within p s₀ s) (slab : Nat) (ctx : Nat) (off : Nat) (n : Nat) (hit : Place → Bool) : Within p s₀ (State.readSpad s slab p ctx off n hit).1 := by
  unfold State.readSpad
  repeat' first
    | with_reducible assumption
    | with_reducible apply nextFree_within
    | with_reducible apply State.spadCorrectedEv_within
    | with_reducible apply State.meetCodes_within
    | with_reducible apply within_modSlab
    | intro _
    | split
    | dsimp only
    | refine Within.snd (by assumption) ?_
    | refine Within.fst (by assumption) ?_
    | with_reducible rfl

theorem State.readAcc_within {p : Nat} {s₀ s : State} (k : Within p s₀ s) (slab : Nat) (ctx : Nat) (slot : Nat) (phys : Nat) (a : Nat) (n : Nat) : Within p s₀ (State.readAcc s slab p ctx slot phys a n).1 := by
  unfold State.readAcc
  repeat' first
    | with_reducible assumption
    | with_reducible apply State.accCorrectedEv_within
    | with_reducible apply State.meetCodes_within
    | with_reducible apply within_modSlab
    | intro _
    | split
    | dsimp only
    | refine Within.snd (by assumption) ?_
    | refine Within.fst (by assumption) ?_
    | with_reducible rfl

theorem State.overwrite_within {p : Nat} {s₀ s : State} (k : Within p s₀ s) (slab : Nat) (hit : Place → Bool) : Within p s₀ (State.overwrite s slab hit) := by
  unfold State.overwrite
  repeat' first
    | with_reducible assumption
    | with_reducible apply within_modSlab
    | intro _
    | split
    | dsimp only
    | with_reducible rfl

theorem State.putShare_within {p : Nat} {s₀ s : State} (k : Within p s₀ s) (c : Nat) (slab : Nat) (f : Mem → Mem) : Within p s₀ (State.putShare s p c slab f) := by
  unfold State.putShare
  repeat' first
    | with_reducible assumption
    | with_reducible apply within_modCtx
    | with_reducible apply within_modSlab
    | intro _
    | split
    | dsimp only
    | with_reducible rfl

theorem State.writeShare_within {p : Nat} {s₀ s : State} (k : Within p s₀ s) (c : Nat) (slab : Nat) (a : Nat) (bs : List Byte) : Within p s₀ (State.writeShare s p c slab a bs) := by
  unfold State.writeShare
  repeat' first
    | with_reducible assumption
    | with_reducible apply State.overwrite_within
    | with_reducible apply State.putShare_within
    | intro _
    | split
    | dsimp only
    | with_reducible rfl

theorem State.modSlot_within {p : Nat} {s₀ s : State} (k : Within p s₀ s) (c : Nat) (slab : Nat) (i : Nat) (f : AccSlot → AccSlot) : Within p s₀ (State.modSlot s p c slab i f) := by
  unfold State.modSlot
  repeat' first
    | with_reducible assumption
    | with_reducible apply within_modCtx
    | with_reducible apply within_modSlab
    | intro _
    | split
    | dsimp only
    | with_reducible rfl

theorem State.eccShare_within {p : Nat} {r s : State} (k : Within p r s) (ctx seq slab : Nat) (l : List (Nat × Nat)) :
    Within p r (s.eccShare p ctx seq slab l).1 := by
  induction l generalizing s with
  | nil => exact k
  | cons a t ih =>
    obtain ⟨a, n⟩ := a
    unfold State.eccShare
    repeat' first
      | assumption
      | with_reducible apply ih
      | with_reducible apply State.readSpad_within
      | with_reducible apply State.dropBad_within
      | with_reducible apply State.modPlace_within
      | with_reducible refine Within.foldl _ (fun _ _ _ => ?_) _ ?_
      | split
      | dsimp only
      | refine Within.fst (by assumption) ?_

theorem State.modLive_within {p : Nat} {s₀ s : State} (k : Within p s₀ s) (slab : Nat) (seq : Nat) (g : Live → Live) : Within p s₀ (State.modLive s slab seq g) := by
  unfold State.modLive
  repeat' first
    | with_reducible assumption
    | with_reducible apply within_modSlab
    | intro _
    | split
    | dsimp only
    | with_reducible rfl

theorem State.raiseFlags_within {s₀ s : State} {o : OpE} (k : Within o.part s₀ s)  (fl : Nat) : Within o.part s₀ (State.raiseFlags s o fl) := by
  unfold State.raiseFlags
  repeat' first
    | with_reducible assumption
    | with_reducible apply within_modFlight
    | intro _
    | split
    | dsimp only
    | with_reducible rfl

theorem State.reportNan_within {s₀ s : State} {o : OpE} (k : Within o.part s₀ s) (slab : Nat)  (unit : Nat) (m : Marks) (inj : Bool) : Within o.part s₀ (State.reportNan s slab o unit m inj) := by
  unfold State.reportNan
  repeat' first
    | with_reducible assumption
    | with_reducible apply State.nanEvent_within
    | intro _
    | split
    | dsimp only
    | with_reducible rfl

theorem State.mark_within {s₀ s : State} {o : OpE} (k : Within o.part s₀ s) (slab : Nat)  (unit : Nat) (m : Marks) (inj : Bool) : Within o.part s₀ (State.mark s slab o unit m inj) := by
  unfold State.mark
  repeat' first
    | with_reducible assumption
    | with_reducible apply State.raiseFlags_within
    | with_reducible apply State.reportNan_within
    | intro _
    | split
    | dsimp only
    | with_reducible rfl

theorem State.nanInjected_within {s₀ s : State} {o : OpE} (k : Within o.part s₀ s)  : Within o.part s₀ (State.nanInjected s o).2 := by
  unfold State.nanInjected
  repeat' first
    | with_reducible assumption
    | with_reducible apply State.opportunity_within
    | intro _
    | split
    | dsimp only
    | refine Within.snd (by assumption) ?_
    | refine Within.fst (by assumption) ?_
    | with_reducible rfl

theorem State.fire_within {s₀ s : State} {o : OpE} (k : Within o.part s₀ s) (slab : Nat)  : Within o.part s₀ (State.fire s slab o) := by
  unfold State.fire
  repeat' first
    | with_reducible assumption
    | with_reducible apply State.modLive_within
    | with_reducible apply within_modSlab
    | intro _
    | split
    | dsimp only
    | with_reducible rfl

/-- The row of the operation at the head of a unit's queue stays within that operation's partition. -/
theorem fireRow_within {r s : State} {o : OpE} {slab u : Nat} (k : Within o.part r s) (e : (s.queue slab u).head? = some o) (op : Nat)
    (act : State → Nat → OpE → State) (h : ∀ t, Within o.part r t → Within o.part r (act t slab o)) :
    Within o.part r (fireRow u op act slab s) := by
  unfold fireRow
  rw [e]
  dsimp only
  split
  · exact h _ (State.fire_within k ..)
  · exact k

theorem firePair_within {p : Nat} {r s : State} (k : Within p r s) (op slab : Nat) : Within p r (firePair op slab s) := by
  unfold firePair
  split
  · exact k
  · split
    · exact k
    · split
      · exact k
      · dsimp only
        split
        · exact within_modSlab (within_modSlab k _ _) _ _
        · exact k

theorem State.join_within {s₀ s : State} {o : OpE} (k : Within o.part s₀ s) (slab : Nat)  : Within o.part s₀ (State.join s slab o) := by
  unfold State.join
  repeat' first
    | with_reducible assumption
    | with_reducible apply within_modSlab
    | intro _
    | split
    | dsimp only
    | with_reducible rfl

/-- The row of a consumer whose pair has fired stays within that consumer's partition. -/
theorem partnerRow_within {r s : State} {o : OpE} {slab u op : Nat} (k : Within o.part r s) (e : s.joined? slab u op = some o)
    (act : State → Nat → OpE → State) (h : ∀ t, Within o.part r t → Within o.part r (act t slab o)) :
    Within o.part r (partnerRow u op act slab s) := by
  unfold partnerRow
  rw [e]
  dsimp only
  split
  · exact h _ (within_modSlab k _ _)
  · exact k

theorem State.modStarted_within {p : Nat} {s₀ s : State} (k : Within p s₀ s) (slab : Nat) (id : Nat) (g : OpE → OpE) : Within p s₀ (State.modStarted s slab id g) := by
  unfold State.modStarted
  repeat' first
    | with_reducible assumption
    | with_reducible apply within_modSlab
    | intro _
    | split
    | dsimp only
    | with_reducible rfl

theorem State.opFault_within {s₀ s : State} {o : OpE} (k : Within o.part s₀ s) (slab : Nat)  (code : St) (d1 : Nat) (inj : Bool) : Within o.part s₀ (State.opFault s slab o code d1 inj) := by
  unfold State.opFault
  repeat' first
    | with_reducible assumption
    | with_reducible apply State.contextFault_within
    | intro _
    | split
    | dsimp only
    | with_reducible rfl

theorem State.withShare_within {s₀ s : State} {o : OpE} (k : Within o.part s₀ s) (slab : Nat)  (areas : List (Nat × Nat))
    (f : State → State) (h : ∀ t, Within o.part s₀ t → Within o.part s₀ (f t)) : Within o.part s₀ (s.withShare slab o areas f) := by
  unfold State.withShare
  split
  · rename_i e; exact State.contextFault_within (Within.fst e (State.eccShare_within k ..)) ..
  · rename_i e; exact h _ (Within.fst e (State.eccShare_within k ..))

theorem State.noteWrite_within {s₀ s : State} {o : OpE} (k : Within o.part s₀ s) (slab : Nat)  (kind : Nat) (key : Nat) (addr : Nat) (len : Nat) : Within o.part s₀ (State.noteWrite s slab o kind key addr len) := by
  unfold State.noteWrite
  repeat' first
    | with_reducible assumption
    | with_reducible apply State.modLive_within
    | intro _
    | split
    | dsimp only
    | with_reducible rfl

theorem State.opWrite_within {s₀ s : State} {o : OpE} (k : Within o.part s₀ s) (slab : Nat)  (a : Nat) (bs : List Byte) : Within o.part s₀ (State.opWrite s slab o a bs) := by
  unfold State.opWrite
  repeat' first
    | with_reducible assumption
    | with_reducible apply State.writeShare_within
    | with_reducible apply State.noteWrite_within
    | intro _
    | split
    | dsimp only
    | with_reducible rfl

theorem State.withAcc_within {p : Nat} {r s : State} (k : Within p r s) (slab : Nat) (o : OpE) (ho : o.part = p) (slot a n : Nat)
    (f : State → State) (h : ∀ t, Within p r t → Within p r (f t)) : Within p r (s.withAcc slab o slot a n f) := by
  subst ho
  unfold State.withAcc
  split
  · rename_i e; exact State.contextFault_within (Within.fst e (State.readAcc_within k ..)) ..
  · rename_i e; exact h _ (Within.fst e (State.readAcc_within k ..))

theorem State.putRegs_within {p : Nat} {s₀ s : State} (k : Within p s₀ s) (slab : Nat) (g : Nat) (vs : List Word) : Within p s₀ (State.putRegs s slab g vs) := by
  unfold State.putRegs
  repeat' first
    | with_reducible assumption
    | with_reducible apply within_modSlab
    | intro _
    | split
    | dsimp only
    | with_reducible rfl

theorem State.putBand_within {s₀ s : State} {o : OpE} (k : Within o.part s₀ s) (slab : Nat)  (g : Nat) (rs : List Res) : Within o.part s₀ (State.putBand s slab o g rs) := by
  unfold State.putBand
  repeat' first
    | with_reducible assumption
    | with_reducible apply State.mark_within
    | with_reducible apply State.nanInjected_within
    | with_reducible apply State.putRegs_within
    | intro _
    | split
    | dsimp only
    | refine Within.snd (by assumption) ?_
    | refine Within.fst (by assumption) ?_
    | with_reducible rfl

theorem State.tellEntry_within {s₀ s : State} {o : OpE} (k : Within o.part s₀ s) (slab : Nat)  (m : Marks) (inj : Bool) : Within o.part s₀ (State.tellEntry s slab o m inj) := by
  unfold State.tellEntry
  repeat' first
    | with_reducible assumption
    | with_reducible apply State.raiseFlags_within
    | with_reducible apply State.reportNan_within
    | with_reducible apply within_modSlab
    | intro _
    | split
    | dsimp only
    | refine Within.snd (by assumption) ?_
    | refine Within.fst (by assumption) ?_
    | with_reducible rfl

theorem State.tell_within {s₀ s : State} {o : OpE} (k : Within o.part s₀ s) (slab : Nat)  (m : Marks) (inj : Bool) : Within o.part s₀ (State.tell s slab o m inj) := by
  unfold State.tell
  repeat' first
    | with_reducible assumption
    | with_reducible apply State.mark_within
    | with_reducible apply State.tellEntry_within
    | intro _
    | split
    | dsimp only
    | with_reducible rfl

theorem State.productInjected_within {s₀ s : State} {o : OpE} (k : Within o.part s₀ s) (slab : Nat)  : Within o.part s₀ (State.productInjected s slab o).2 := by
  unfold State.productInjected
  repeat' first
    | with_reducible assumption
    | with_reducible apply State.nanInjected_within
    | intro _
    | split
    | dsimp only
    | refine Within.snd (by assumption) ?_
    | refine Within.fst (by assumption) ?_
    | with_reducible rfl

theorem State.multiply_within {s₀ s : State} {o : OpE} (k : Within o.part s₀ s) (slab : Nat)  (a : Operand) (w : Operand) (t : Target) : Within o.part s₀ (State.multiply s slab o a w t) := by
  unfold State.multiply
  repeat' first
    | with_reducible assumption
    | with_reducible apply State.overwrite_within
    | with_reducible apply State.modSlot_within
    | with_reducible apply State.tell_within
    | with_reducible apply State.productInjected_within
    | intro _
    | split
    | dsimp only
    | refine Within.snd (by assumption) ?_
    | refine Within.fst (by assumption) ?_
    | with_reducible rfl

theorem State.arrayReads_within {s₀ s : State} {o : OpE} (k : Within o.part s₀ s) (slab : Nat)  (w : Nat) (d1 : Nat) (areas : List (Nat × Nat)) (t : Target) (k : State → State) (hk : ∀ t , Within o.part s₀ t → Within o.part s₀ (k t )) : Within o.part s₀ (State.arrayReads s slab o w d1 areas t k) := by
  unfold State.arrayReads
  repeat' first
    | with_reducible assumption
    | with_reducible apply hk
    | with_reducible apply State.opFault_within
    | with_reducible apply State.withShare_within
    | with_reducible apply State.withAcc_within
    | intro _
    | split
    | dsimp only
    | with_reducible rfl

theorem State.product_within {s₀ s : State} {o : OpE} (k : Within o.part s₀ s) (slab : Nat)  (a : Nat) (w : Nat) (d1 : Nat) (t : Target) : Within o.part s₀ (State.product s slab o a w d1 t) := by
  unfold State.product
  repeat' first
    | with_reducible assumption
    | with_reducible apply State.multiply_within
    | with_reducible apply State.arrayReads_within
    | intro _
    | split
    | dsimp only
    | with_reducible rfl

theorem mmAct_within {s₀ s : State} {o : OpE} (k : Within o.part s₀ s) (slab : Nat)  : Within o.part s₀ (mmAct s slab o) := by
  unfold mmAct
  repeat' first
    | with_reducible assumption
    | with_reducible apply State.product_within
    | intro _
    | split
    | dsimp only
    | with_reducible rfl

theorem mmListAct_within {s₀ s : State} {o : OpE} (k : Within o.part s₀ s) (slab : Nat)  : Within o.part s₀ (mmListAct s slab o) := by
  unfold mmListAct
  repeat' first
    | with_reducible assumption
    | with_reducible apply State.opFault_within
    | with_reducible apply State.withShare_within
    | with_reducible apply within_modSlab
    | intro _
    | split
    | dsimp only
    | with_reducible rfl

theorem mmChainAct_within {r s : State} {o : OpE} (k : Within o.part r s) (slab : Nat) : Within o.part r (mmChainAct s slab o) := by
  unfold mmChainAct
  dsimp only
  split
  · exact k
  · rename_i q e
    exact State.withAcc_within k slab q (State.drainOf_part e) _ _ _ _ fun t w =>
      State.arrayReads_within w _ _ _ _ _ _ fun t w => State.multiply_within w ..

theorem mmArriveAct_within {s₀ s : State} {o : OpE} (k : Within o.part s₀ s) (slab : Nat)  : Within o.part s₀ (mmArriveAct s slab o) := by
  unfold mmArriveAct
  repeat' first
    | with_reducible assumption
    | with_reducible apply State.opFault_within
    | with_reducible apply State.product_within
    | intro _
    | split
    | dsimp only
    | refine Within.snd (by assumption) ?_
    | refine Within.fst (by assumption) ?_
    | with_reducible rfl

theorem State.rewriteSlot_within {s₀ s : State} {o : OpE} (k : Within o.part s₀ s) (slab : Nat)  (f : AccSlot → AccSlot) : Within o.part s₀ (State.rewriteSlot s slab o f) := by
  unfold State.rewriteSlot
  repeat' first
    | with_reducible assumption
    | with_reducible apply State.overwrite_within
    | with_reducible apply State.modSlot_within
    | intro _
    | split
    | dsimp only
    | with_reducible rfl

theorem accClearAct_within {s₀ s : State} {o : OpE} (k : Within o.part s₀ s) (slab : Nat)  : Within o.part s₀ (accClearAct s slab o) := by
  unfold accClearAct
  repeat' first
    | with_reducible assumption
    | with_reducible apply State.rewriteSlot_within
    | intro _
    | split
    | dsimp only
    | with_reducible rfl

theorem accSatclrAct_within {s₀ s : State} {o : OpE} (k : Within o.part s₀ s) (slab : Nat)  : Within o.part s₀ (accSatclrAct s slab o) := by
  unfold accSatclrAct
  repeat' first
    | with_reducible assumption
    | with_reducible apply State.modSlot_within
    | intro _
    | split
    | dsimp only
    | with_reducible rfl

theorem accSpillAct_within {s₀ s : State} {o : OpE} (k : Within o.part s₀ s) (slab : Nat)  : Within o.part s₀ (accSpillAct s slab o) := by
  unfold accSpillAct
  repeat' first
    | with_reducible assumption
    | with_reducible apply State.mark_within
    | with_reducible apply State.withShare_within
    | with_reducible apply State.opWrite_within
    | with_reducible apply State.withAcc_within
    | with_reducible apply State.rewriteSlot_within
    | intro _
    | split
    | dsimp only
    | with_reducible rfl

theorem accResumeAct_within {s₀ s : State} {o : OpE} (k : Within o.part s₀ s) (slab : Nat)  : Within o.part s₀ (accResumeAct s slab o) := by
  unfold accResumeAct
  repeat' first
    | with_reducible assumption
    | with_reducible apply State.withShare_within
    | with_reducible apply State.opWrite_within
    | with_reducible apply State.rewriteSlot_within
    | intro _
    | split
    | dsimp only
    | with_reducible rfl

theorem State.elementWise_within {s₀ s : State} {o : OpE} (k : Within o.part s₀ s) (slab : Nat)  (f : Word → Word → Word → Res) : Within o.part s₀ (State.elementWise s slab o f) := by
  unfold State.elementWise
  repeat' first
    | with_reducible assumption
    | with_reducible apply State.putBand_within
    | intro _
    | split
    | dsimp only
    | with_reducible rfl

theorem State.reduceRows_within {s₀ s : State} {o : OpE} (k : Within o.part s₀ s) (slab : Nat)  (f : List (List Word) → List Word → List Res) : Within o.part s₀ (State.reduceRows s slab o f) := by
  unfold State.reduceRows
  repeat' first
    | with_reducible assumption
    | with_reducible apply State.putBand_within
    | intro _
    | split
    | dsimp only
    | with_reducible rfl

theorem State.convolve_within {s₀ s : State} {o : OpE} (k : Within o.part s₀ s) (slab : Nat)  (acc : Bool) (halo : Nat) (taps : Nat → Nat → List (Nat × Nat × Nat)) : Within o.part s₀ (State.convolve s slab o acc halo taps) := by
  unfold State.convolve
  repeat' first
    | with_reducible assumption
    | with_reducible apply State.putBand_within
    | intro _
    | split
    | dsimp only
    | with_reducible rfl

theorem vLdAct_within {s₀ s : State} {o : OpE} (k : Within o.part s₀ s) (slab : Nat)  : Within o.part s₀ (vLdAct s slab o) := by
  unfold vLdAct
  repeat' first
    | with_reducible assumption
    | with_reducible apply State.withShare_within
    | with_reducible apply State.putRegs_within
    | intro _
    | split
    | dsimp only
    | with_reducible rfl

theorem vStAct_within {s₀ s : State} {o : OpE} (k : Within o.part s₀ s) (slab : Nat)  : Within o.part s₀ (vStAct s slab o) := by
  unfold vStAct
  repeat' first
    | with_reducible assumption
    | with_reducible apply State.opWrite_within
    | with_reducible refine Within.foldl _ (fun _ _ _ => ?_) _ ?_
    | with_reducible refine Within.foldlFst _ (fun _ _ _ => ?_) _ ?_
    | intro _
    | split
    | dsimp only
    | with_reducible rfl

theorem State.putTileRow_within {s₀ s : State} {o : OpE} (k : Within o.part s₀ s) (slab : Nat)  (t : Tile) (r : Nat) (c : Coded) : Within o.part s₀ (State.putTileRow s slab o t r c) := by
  unfold State.putTileRow
  repeat' first
    | with_reducible assumption
    | with_reducible apply State.opWrite_within
    | intro _
    | split
    | dsimp only
    | with_reducible rfl

theorem State.epilogue_within {s₀ s : State} {o : OpE} (k : Within o.part s₀ s) (slab : Nat)  (d : Option Fuse) (vals : List Word) : Within o.part s₀ (State.epilogue s slab o d vals) := by
  unfold State.epilogue
  repeat' first
    | with_reducible assumption
    | with_reducible apply State.mark_within
    | with_reducible apply State.nanInjected_within
    | with_reducible apply State.putTileRow_within
    | with_reducible refine Within.foldl _ (fun _ _ _ => ?_) _ ?_
    | with_reducible refine Within.foldlFst _ (fun _ _ _ => ?_) _ ?_
    | intro _
    | split
    | dsimp only
    | refine Within.snd (by assumption) ?_
    | refine Within.fst (by assumption) ?_
    | with_reducible rfl

theorem State.statPass_within {s₀ s : State} {o : OpE} (k : Within o.part s₀ s) (slab : Nat)  (f : Fuse) (vals : List Word) : Within o.part s₀ (State.statPass s slab o f vals) := by
  unfold State.statPass
  repeat' first
    | with_reducible assumption
    | with_reducible apply State.mark_within
    | with_reducible apply State.opWrite_within
    | with_reducible refine Within.foldl _ (fun _ _ _ => ?_) _ ?_
    | with_reducible refine Within.foldlFst _ (fun _ _ _ => ?_) _ ?_
    | intro _
    | split
    | dsimp only
    | with_reducible rfl

theorem State.drained_within {r s : State} {o : OpE} (k : Within o.part r s) (slab : Nat) (reads : List Area) (f : State → List Word → State)
    (h : ∀ t v, Within o.part r t → Within o.part r (f t v)) : Within o.part r (s.drained slab o reads f) := by
  unfold State.drained
  split
  · exact k
  · rename_i q e
    exact State.withAcc_within k slab q (State.drainOf_part e) _ _ _ _ fun t w =>
      State.withShare_within w _ _ _ fun t w => h _ _ w

theorem vEpiAct_within {s₀ s : State} {o : OpE} (k : Within o.part s₀ s) (slab : Nat)  : Within o.part s₀ (vEpiAct s slab o) := by
  unfold vEpiAct
  repeat' first
    | with_reducible assumption
    | with_reducible apply State.epilogue_within
    | with_reducible apply State.statPass_within
    | with_reducible apply State.drained_within
    | intro _
    | split
    | dsimp only
    | refine Within.snd (by assumption) ?_
    | refine Within.fst (by assumption) ?_
    | with_reducible rfl

theorem State.osmScore_within {s₀ s : State} {o : OpE} (k : Within o.part s₀ s) (slab : Nat)  (f : Fuse) (vals : List Word) : Within o.part s₀ (State.osmScore s slab o f vals) := by
  unfold State.osmScore
  repeat' first
    | with_reducible assumption
    | with_reducible apply State.mark_within
    | with_reducible apply State.nanInjected_within
    | with_reducible apply State.opWrite_within
    | with_reducible apply State.putTileRow_within
    | with_reducible refine Within.foldl _ (fun _ _ _ => ?_) _ ?_
    | with_reducible refine Within.foldlFst _ (fun _ _ _ => ?_) _ ?_
    | intro _
    | split
    | dsimp only
    | refine Within.snd (by assumption) ?_
    | refine Within.fst (by assumption) ?_
    | with_reducible rfl

theorem State.osmOut_within {s₀ s : State} {o : OpE} (k : Within o.part s₀ s) (slab : Nat)  (f : Fuse) (vals : List Word) : Within o.part s₀ (State.osmOut s slab o f vals) := by
  unfold State.osmOut
  repeat' first
    | with_reducible assumption
    | with_reducible apply State.mark_within
    | with_reducible apply State.nanInjected_within
    | with_reducible apply State.opWrite_within
    | with_reducible apply State.putTileRow_within
    | with_reducible refine Within.foldl _ (fun _ _ _ => ?_) _ ?_
    | with_reducible refine Within.foldlFst _ (fun _ _ _ => ?_) _ ?_
    | intro _
    | split
    | dsimp only
    | refine Within.snd (by assumption) ?_
    | refine Within.fst (by assumption) ?_
    | with_reducible rfl

theorem vOsmAct_within {s₀ s : State} {o : OpE} (k : Within o.part s₀ s) (slab : Nat)  : Within o.part s₀ (vOsmAct s slab o) := by
  unfold vOsmAct
  repeat' first
    | with_reducible assumption
    | with_reducible apply State.drained_within
    | with_reducible apply State.osmScore_within
    | with_reducible apply State.osmOut_within
    | intro _
    | split
    | dsimp only
    | refine Within.snd (by assumption) ?_
    | refine Within.fst (by assumption) ?_
    | with_reducible rfl

theorem State.mapBand_within {s₀ s : State} {o : OpE} (k : Within o.part s₀ s) (slab : Nat)  (f : Word → Res) : Within o.part s₀ (State.mapBand s slab o f) := by
  unfold State.mapBand
  repeat' first
    | with_reducible assumption
    | with_reducible apply State.putBand_within
    | intro _
    | split
    | dsimp only
    | with_reducible rfl

theorem State.specialBand_within {s₀ s : State} {o : OpE} (k : Within o.part s₀ s) (slab : Nat)  (f : SFn) : Within o.part s₀ (State.specialBand s slab o f) := by
  unfold State.specialBand
  repeat' first
    | with_reducible assumption
    | with_reducible apply State.mapBand_within
    | intro _
    | split
    | dsimp only
    | with_reducible rfl

theorem vbCompressAct_within {s₀ s : State} {o : OpE} (k : Within o.part s₀ s) (slab : Nat)  : Within o.part s₀ (vbCompressAct s slab o) := by
  unfold vbCompressAct
  repeat' first
    | with_reducible assumption
    | with_reducible apply State.modStarted_within
    | with_reducible apply State.putRegs_within
    | intro _
    | split
    | dsimp only
    | with_reducible rfl

theorem vbExpandAct_within {s₀ s : State} {o : OpE} (k : Within o.part s₀ s) (slab : Nat)  : Within o.part s₀ (vbExpandAct s slab o) := by
  unfold vbExpandAct
  repeat' first
    | with_reducible assumption
    | with_reducible apply State.putRegs_within
    | intro _
    | split
    | dsimp only
    | with_reducible rfl

theorem vbPermuteAct_within {s₀ s : State} {o : OpE} (k : Within o.part s₀ s) (slab : Nat)  : Within o.part s₀ (vbPermuteAct s slab o) := by
  unfold vbPermuteAct
  repeat' first
    | with_reducible assumption
    | with_reducible apply State.putRegs_within
    | intro _
    | split
    | dsimp only
    | with_reducible rfl

theorem State.cropBoxesFrom_within {s₀ s : State} {o : OpE} (k : Within o.part s₀ s) (slab : Nat)  (c : Crop) (inj : Bool)
    (l : List Nat) (m : Marks) : Within o.part s₀ (s.cropBoxesFrom slab o c inj l m) := by
  induction l generalizing s m with
  | nil => exact State.mark_within k ..
  | cons i t ih =>
    unfold State.cropBoxesFrom
    dsimp only
    split
    · rename_i s1 j e
      exact State.contextFault_within (State.mark_within (Within.fst e (State.eccShare_within k ..)) ..) ..
    · rename_i s1 e
      have k1 : Within o.part s₀ s1 := Within.fst e (State.eccShare_within k ..)
      split
      · exact State.opFault_within (State.mark_within k1 ..) ..
      · split
        · rename_i e2
          exact State.contextFault_within (State.mark_within (Within.fst e2 (State.eccShare_within k1 ..)) ..) ..
        · rename_i e2
          exact ih (State.opWrite_within (Within.fst e2 (State.eccShare_within k1 ..)) ..) _

theorem vbCropAct_within {s₀ s : State} {o : OpE} (k : Within o.part s₀ s) (slab : Nat)  : Within o.part s₀ (vbCropAct s slab o) := by
  unfold vbCropAct
  repeat' first
    | with_reducible assumption
    | with_reducible apply State.nanInjected_within
    | with_reducible apply State.cropBoxesFrom_within
    | intro _
    | split
    | dsimp only
    | refine Within.snd (by assumption) ?_
    | refine Within.fst (by assumption) ?_
    | with_reducible rfl

theorem State.walkFault_within {s₀ s : State} {o : OpE} (k : Within o.part s₀ s) (slab : Nat)  (code : St) (bind : Nat) (offset : Nat) (piece : Nat) (d1 : Nat) : Within o.part s₀ (State.walkFault s slab o code bind offset piece d1) := by
  unfold State.walkFault
  repeat' first
    | with_reducible assumption
    | with_reducible apply State.contextFault_within
    | intro _
    | split
    | dsimp only
    | with_reducible rfl

theorem State.movePiece_within {s₀ s : State} {o : OpE} (k : Within o.part s₀ s) (slab : Nat)  (h : Nat) (toRegion : Bool)
    (va oa piece : Nat) (start : Bool) (n : Nat) : Within o.part s₀ (s.movePiece slab o h toRegion va oa piece start n).1 := by
  induction n generalizing s va oa start with
  | zero => exact k
  | succ n ih =>
    unfold State.movePiece
    split
    · split
      · rename_i e; dsimp only; exact State.xfFault_within (Within.fst e (State.eccShare_within k ..)) ..
      · rename_i e
        exact ih (State.noteWrite_within (State.overwrite_within (State.modRegion_within (Within.fst e (State.eccShare_within k ..)) ..) ..) ..) ..
    · split
      · rename_i e; dsimp only; exact State.xfFault_within (Within.fst e (State.readHbm_within k ..)) ..
      · rename_i e; exact ih (State.opWrite_within (Within.fst e (State.readHbm_within k ..)) ..) ..

theorem State.walkRow_within {s₀ s : State} {o : OpE} (k : Within o.part s₀ s) (slab : Nat)  (h bind : Nat) (toRegion : Bool)
    (fuel va oa left piece : Nat) : Within o.part s₀ (s.walkRow slab o h bind toRegion fuel va oa left piece).1 := by
  induction fuel generalizing s va oa left piece with
  | zero => exact k
  | succ n ih =>
    unfold State.walkRow
    split
    · exact k
    · split
      · dsimp only; exact State.walkFault_within k ..
      · split
        · dsimp only; exact State.walkFault_within k ..
        · dsimp only
          split
          · rename_i e; exact Within.fst e (State.movePiece_within k ..)
          · rename_i e; exact ih (Within.fst e (State.movePiece_within k ..)) ..

theorem State.walkRows_within {s₀ s : State} {o : OpE} (k : Within o.part s₀ s) (slab : Nat)  (h bind : Nat) (d : XfDesc)
    (l : List Nat) (piece : Nat) : Within o.part s₀ (s.walkRows slab o h bind d l piece).1 := by
  induction l generalizing s piece with
  | nil => exact k
  | cons r t ih =>
    unfold State.walkRows
    dsimp only
    split
    · rename_i e; exact Within.fst e (State.walkRow_within k ..)
    · rename_i e; exact ih (Within.fst e (State.walkRow_within k ..)) ..

theorem xfPagedAct_within {s₀ s : State} {o : OpE} (k : Within o.part s₀ s) (slab : Nat)  : Within o.part s₀ (xfPagedAct s slab o) := by
  unfold xfPagedAct
  repeat' first
    | with_reducible assumption
    | with_reducible apply State.modStarted_within
    | with_reducible apply State.opFault_within
    | with_reducible apply State.withShare_within
    | with_reducible apply State.walkFault_within
    | with_reducible apply State.walkRows_within
    | intro _
    | split
    | dsimp only
    | refine Within.snd (by assumption) ?_
    | refine Within.fst (by assumption) ?_
    | with_reducible rfl

theorem flDrawAct_within {s₀ s : State} {o : OpE} (k : Within o.part s₀ s) (slab : Nat)  : Within o.part s₀ (flDrawAct s slab o) := by
  unfold flDrawAct
  repeat' first
    | with_reducible assumption
    | with_reducible apply State.modLive_within
    | with_reducible apply State.putRegs_within
    | intro _
    | split
    | dsimp only
    | refine Within.snd (by assumption) ?_
    | refine Within.fst (by assumption) ?_
    | with_reducible rfl

end Sys2Proof.Machine
end

