-- ==== Sys2Proof/Machine/ConfigSpace.lean ====
section
/-! DEFINITION. ConfigSpace.lean: what configuration space reports: identifiers, BARs, SR-IOV, the CXL DVSECs and the
Nimfaric DVSEC (R337, R340, R342, R343, R348 to R350, R522). Where a standard places a field that the spec only names, the
model keeps the field's value and not its place (log 17). -/

namespace Sys2Proof.Machine

/-! ## Identifiers (R348) -/

def vendorId : Nat := 0x1F9E
def revisionId : Nat := 0xB1
def classCode : Nat := 0x120000
def subsystemVendorId : Nat := 0x1F9E
def subsystemId : Nat := 0x0001

/-- Device ID of a function (R348). -/
def State.deviceId (s : State) (fn : Nat) : Nat :=
  match s.hub.fuse.part with
  | .b824 => if fn = 0 then 0xB824 else 0xB825
  | .b618 => if fn = 0 then 0xB618 else 0xB619

/-! ## BARs (R343) -/

/-- A BAR: its number, its bytes, whether it is 64-bit and prefetchable. -/
structure Bar where
  number : Nat
  size : Nat
  wide : Bool
  prefetch : Bool
  deriving DecidableEq, Repr

/-- The BARs of a function; those of a virtual function are reported by the SR-IOV capability as VF BARs. -/
def barsOf (fn : Nat) : List Bar :=
  if fn = 0 then
    [{ number := 0, size := 2 ^ 22, wide := true, prefetch := false }, { number := 2, size := 2 ^ 16, wide := true, prefetch := false }]
  else [{ number := 0, size := 2 ^ 18, wide := true, prefetch := false }]

/-- What the 64 bits of a BAR read after all ones were written: the size, and the type in the low bits; every other BAR
register reads zero. -/
def barProbe (fn n : Nat) : Nat :=
  match (barsOf fn).find? fun b => b.number == n with
  | some b => 2 ^ 64 - b.size + 4 * boolNat b.wide + 8 * boolNat b.prefetch
  | none => 0

/-! ## SR-IOV (R340, R342) -/

/-- The SR-IOV capability: TotalVFs, First VF Offset, VF Stride, VF Device ID, NumVFs, VF Enable. -/
structure SrIov where
  total : Nat
  firstOffset : Nat
  stride : Nat
  deviceId : Nat
  num : Nat
  enable : Bool
  deriving DecidableEq, Repr

def State.srIov (s : State) : SrIov :=
  { total := 15, firstOffset := firstVfOffset, stride := vfStride, deviceId := s.deviceId 1, num := s.port.numVfs,
    enable := s.port.vfEnable }

/-! ## CXL DVSECs of the physical function (R349) -/

/-- The DVSECs that a function carries. -/
inductive Dvsec where
  | devices | flexBus | registerLocator | nimfaric
  deriving DecidableEq, Repr

def dvsecsOf (fn : Nat) : List Dvsec :=
  if fn = 0 then [.devices, .flexBus, .registerLocator, .nimfaric] else [.nimfaric]

/-- What the DVSEC for devices reports. -/
structure DeviceDvsec where
  cacheCapable : Bool
  ioCapable : Bool
  memCapable : Bool
  memHwInit : Bool
  viralCapable : Bool
  /-- HDM_Count, with the bytes of the range and its media -/
  hdmCount : Nat
  hdmBytes : Nat
  volatile : Bool
  /-- the device cache: units, and the bytes of one -/
  cacheUnits : Nat
  cacheUnitBytes : Nat
  infoValid : Bool
  active : Bool
  deriving DecidableEq, Repr

/-- The one HDM range of 16 TiB. -/
def hdmRange : Nat := 2 ^ 44

/-- Memory_Info_Valid and Memory_Active (R349, R522). -/
def State.memoryActive (s : State) : Bool := s.port.memActive

def State.deviceDvsec (s : State) : DeviceDvsec :=
  { cacheCapable := true, ioCapable := true, memCapable := true, memHwInit := false, viralCapable := true, hdmCount := 1,
    hdmBytes := hdmRange, volatile := true, cacheUnits := 16, cacheUnitBytes := 65536, infoValid := s.memoryActive,
    active := s.memoryActive }

/-- The register blocks that the Register Locator names: component registers, in BAR2 alone. -/
inductive RegBlock where
  | component
  deriving DecidableEq, Repr

def registerBlocks : List (RegBlock × Nat) := [(.component, 2)]

/-- HDM decoder `idx` of the component registers in BAR2 (R337, R340, R343). -/
def State.hdmDecoder (s : State) (idx : Nat) : Option Decoder := s.port.decoders[idx]?

/-! ## The Nimfaric DVSEC (R350) -/

/-- HP_NF_FUNC (R350). -/
def State.nfFunc (s : State) (fn : Nat) : Nat := pack [(fn % 16, 0), (boolNat (fn == 0), 4), (1, 8), (s.partCode, 16)]

/-- HP_NF_SERIAL (R350). -/
def State.nfSerial (s : State) : Nat := s.hub.fuse.serial.toNat

/-- Vendor ID, ID, revision and length of the Nimfaric DVSEC. -/
def nfVendor : Nat := 0x1F9E
def nfId : Nat := 0x0001
def nfRevision : Nat := 0x1
def nfLength : Nat := 0x1C

/-- The 32 bits at an offset of the Nimfaric DVSEC: the two headers of a DVSEC as PCIe lays them out (log 17), HP_NF_FUNC,
HP_NF_SERIAL. -/
def State.nfWord (s : State) (fn off : Nat) : Nat :=
  match off with
  | 0x04 => pack [(nfVendor, 0), (nfRevision, 16), (nfLength, 20)]
  | 0x08 => nfId
  | 0x0C => s.nfFunc fn
  | 0x10 => s.nfSerial % 2 ^ 32
  | 0x14 => s.nfSerial / 2 ^ 32 % 2 ^ 32
  | 0x18 => s.nfSerial / 2 ^ 64 % 2 ^ 32
  | _ => 0

end Sys2Proof.Machine
end

