-- ==== Sys2Proof/Tests/Slice0.lean ====
section
/-! SUPPORT. Tests/Slice0.lean: ill-formed commands are refused; states that meet the hypotheses of every statement, clause
by clause; and a few results that the spec states outright. -/

namespace Sys2Proof.Machine

-- one theorem at a time: each is a long evaluation in the kernel
set_option Elab.async false

/-! ## Helpers -/

/-- A quota wide enough for everything below. -/
def Test.quota : Quota :=
  { mask := 0xFF, hostAccess := true, enc := 2, dec := 2, slots := 4, hbm := 64, fab := 32, host := 64, spad := 256,
    hot := 16, frames := 1024 }

/-- A program with one dimension, one bucket for shapes up to 8, one passage, and a shape region on its two slabs. -/
def Test.prog : Program :=
  { geom := default, word := 0, ndim := 1, npass := 1, buckets := [[8]],
    table := [{ w := 100, passage := 0, bucket := 0, lines := [0, 0] }], idents := [], binds := [],
    regions := [{ offset := 8, len := 1, kind := 3, mask := 3, src := 0 }, { offset := 0, len := 8, kind := 0, mask := 3, src := 0 }],
    fusion := [3, 6], flint := [[default], [default]], meas := [] }

def Test.group : Group := { lidx := 0, members := [0, 1], ring := 0, chunks := 2, gshare := 1, wdog := 0, queues := [0, 0] }

/-- A context on slabs 0 and 1 with two slots and 16 MiB. -/
def Test.ctx (n : Nat) (st : CtxState) (prog : Option Program) : Ctx :=
  { num := n, slabs := [0, 1], slots := 2, spad := 16, st := st, switching := .none, lastUse := 1, prog := prog,
    data := [{ slab := 0, base := 0, share := [], slots := [default, default] },
             { slab := 1, base := 0, share := [], slots := [default, default] }],
    groups := [], cairn := 0, imgWord := 0, imgHash := List.replicate 64 0 }

def Test.place : PlaceState := { slab := 0, hot := true, pinned := false, lastUse := 1, damaged := false, loading := [] }

/-- A live partition with its contexts, a model, a region, a held result and a signer. -/
def Test.part (cs : List Ctx) : Part :=
  { Part.absent with
    live := true
    q := Test.quota
    ctxs := cs
    regions := [{ handle := 7, size := 2 ^ 21, home := 0, pages := [{ num := 4, big := false, ro := false }], lingering := [], bytes := [] }]
    models := [{ handle := 6, parts := [{ size := 1, mask := 1, bytes := [], places := [Test.place] }] }]
    held := [{ handle := 9, slab := 0, bytes := [1, 2] }]
    signers := [[1]] ++ List.replicate 7 [] }

/-- A running module: link up in CXL mode, 15 virtual functions, every completion area enabled, partitions 0 and 1. -/
def Test.up : State :=
  { State.reset with
    hub := { State.reset.hub with power := .up, seq := 100 }
    port := { State.reset.port with up := true, cxl := true, flit256 := true, memActive := true, numVfs := 15, vfEnable := true }
    fns := List.replicate 16 { Fn.reset with bme := true, en := true }
    nextHandle := 50
    parts := [Test.part [Test.ctx 0 .resident (some Test.prog), Test.ctx 1 .out none],
      Test.part [Test.ctx 0 .resident (some Test.prog), Test.ctx 1 .out none]] ++ List.replicate 14 Part.absent
    slabs := List.replicate 8 { Slab.reset with frames := 65536 } }

/-- Put a command with these argument fields (offset, bytes, value) in slot 0 of a function. -/
def Test.put (s : State) (fn : Nat) (c : Cmd) (args : List (Nat × Nat × Nat)) : State :=
  let m := args.foldl (fun m a => Memory.write m (32 + a.1) (toLe a.2.1 a.2.2)) (Memory.write [] 0 (toLe 2 c.code))
  s.setSlot fn { idx := 0, seq := 0, status := .ok, state := .free, area := m }

/-- The command, so put, is ready, and what the clause asks besides holds of its state and its flight. -/
def Test.meets (s : State) (fn : Nat) (c : Cmd) (args : List (Nat × Nat × Nat)) (p : State → Flight → Bool := fun _ _ => true) : Bool :=
  let t := Test.put s fn c args
  t.ready c fn 0 && p (t.accepting c fn 0) (t.sealed c fn 0)

/-- Partition 1 with an open codec session of a kind, in the least frame size. -/
def Test.coded (kind : Nat) : State :=
  let p := toLe 8 (16 + 16 * 2 ^ 16 + 2 ^ 48 + (if kind = 0 then 2 * 2 ^ 56 else 0))
  Test.up.setCodec { Test.up.codec with sessions := [{ (default : CodecSession) with handle := 3, part := 1, kind := kind, param := p }] }

/-- A RUN_PASSAGE in flight on context 0 of partition 1, with region 7 bound. -/
def Test.runFlight : Flight :=
  { flightOf 1 40 .runPassage default with
    phase := .busy
    run := some { (default : RunInfo) with slabs := [0, 1], queued := [0, 1], regions := [7], shape := [8] } }

def Test.live : Live :=
  { (default : Live) with seq := 40, part := 1, tokens := List.replicate 64 0, cursors := List.replicate 16 0, diag := true }

/-- The passage selected on slab 0, its context with a group of slabs 0 and 1 on their queues 0. -/
def Test.run : State :=
  let s := (Test.up.setFlights [Test.runFlight]).modSlab 0 fun b => { b with live := [Test.live] }
  (s.modCtx 1 0 fun c => { c with groups := [Test.group] }).modSlab 0 fun b =>
    { b with gqs := modAt b.gqs 0 fun _ => { GQueue.reset with bound := some (1, 0, 0) } }

/-- An operation of the passage with these slot bits. -/
def Test.op (u bits : Nat) : OpE :=
  { id := 1, lineId := 1, unit := u, part := 1, ctx := 0, seq := 40, line := 0, bits := BitVec.ofNat 96 bits,
    coupled := false, fired := false, ext := (512, 1) }

/-- The operation alone at the head of its unit's queue on slab 0. -/
def Test.head (s : State) (o : OpE) : State :=
  s.modSlab 0 fun b => { b with queues := modAt b.queues o.unit fun _ => [o] }

/-- The operation alone among the started ones of slab 0. -/
def Test.begun (s : State) (o : OpE) : State := s.modSlab 0 fun b => { b with started := [o] }

/-- A producer and its consumer, the pair fired. -/
def Test.pair (s : State) (o q : OpE) : State :=
  s.modSlab 0 fun b => { b with started := [o, { q with coupled := true, fired := true }] }

/-- It fires, on a slab without a damaged word or an armed point. -/
def Test.fires (s : State) (u bits : Nat) : Bool :=
  let t := Test.head s (Test.op u bits)
  t.firing 0 u (slotOp u bits) == some (Test.op u bits) && (t.slab 0).bad.isEmpty && t.talus.armed.isEmpty

def Test.ok {α : Type} (r : Except St α) (p : α → Bool) : Bool := match r with | .ok x => p x | .error _ => false

/-- A read that may fail succeeds, and what the clause asks holds of the state after it and of what was read. -/
def Test.got {α : Type} (r : State × Except St α) (p : State → α → Bool) : Bool :=
  match r with | (a, .ok x) => p a x | (_, .error _) => false

/-- A list of witnesses all hold. -/
def Test.all (l : List Bool) : Bool := l.all id

/-! ## Commands: states that meet the hypotheses of every clause -/

/-- ReadyCommandPerformsAtItsSeal, with slot 255 as well. -/
theorem test_meets_ready : ([
  (Test.put Test.up 15 .resultDrop []).ready .resultDrop 15 0,
  ((Test.put Test.up 0 .statusGet []).modFn 0 fun g => { g with slots := g.slots.map fun b => { b with idx := 255 } }).ready
    .statusGet 0 255] : List Bool).all id = true := by decide +kernel

/-- SealsThatPerformNothing. -/
theorem test_meets_refused_seals : (
  let rest : State → Nat → Bool := fun s fn => s.barOpen fn && s.hub.stop.isNone && decide (s.hub.rest = .awake)
    && decide (((s.fn fn).slot 0).state ≠ .owned) && (s.part fn).session.isNone
  let bad := Test.up.setSlot 0 { idx := 0, area := [(0, 0xFF)], seq := 0, status := .ok, state := .free }
  let rsvd := Test.put Test.up 0 .restEnter [(0, 1, 1)]
  let head := Test.up.setSlot 0 { idx := 0, area := [(0, 1), (3, 0x80)], seq := 0, status := .ok, state := .free }
  let owned := Test.up.setSlot 0 { idx := 0, area := [], seq := 0, status := .ok, state := .owned }
  [rest bad 0 && (Cmd.ofCode ((bad.fn 0).slot 0).opcode).isNone,
   rest rsvd 0 && ((rsvd.fn 0).slot 0).opcode == Cmd.restEnter.code && !(Cmd.restEnter.argsClean ((rsvd.fn 0).slot 0).args),
   rest head 0 && ((head.fn 0).slot 0).opcode == Cmd.statusGet.code && !((head.fn 0).slot 0).headerClean,
   decide (((owned.fn 0).slot 0).state = .owned), !(State.reset.fnExists 15),
   (let s := (Test.put Test.up 0 .statusGet []).stopModule .selftest 0xF 0xF 0xF 0
    s.barOpen 0 && s.hub.stop.isSome && ((s.fn 0).slot 0).opcode == Cmd.statusGet.code
      && decide (((s.fn 0).slot 0).state ≠ .owned))] : List Bool).all id = true := by decide +kernel

/-- StatusServiceAndRestCommands. -/
theorem test_meets_status_service_rest : ([
  Test.meets Test.up 1 .statusGet [(0, 8, 64), (8, 4, 64)] fun _ f => bufOk (f.arg 0 8) (f.arg 8 4) && decide (64 ≤ f.arg 8 4),
  Test.meets Test.up 0 .serviceEnter [],
  Test.meets Test.up 0 .restEnter [] fun s _ => decide (s.flights.length = 1),
  Test.meets (Test.up.setFlights [flightOf 1 50 .statusGet default]) 0 .restEnter [] fun _ _ =>
    Test.up.flights.isEmpty && decide (50 ≠ Test.up.hub.seq)] : List Bool).all id = true := by decide +kernel

/-- PartitionCommands, with the largest partition number: quotas that change, a window closed without lines, and one with a
line that the host holds. -/
theorem test_meets_partition_commands : (
  let two : Bool → State := fun h => Test.up.modPart 2 fun _ => { Part.absent with live := true, q := { Quota.zero with mask := 1, hostAccess := h } }
  let line := (two true).setPort { (two true).port with snoop := [2 * 2 ^ 34] }
  let set : State → (State → Bool) → Bool := fun s p => Test.meets s 0 .partSet [(0, 1, 2), (1, 1, 3)] fun a f =>
    let q := quotaOfArgs f
    a.quotaInRange q && (a.part 2).live && a.quotaFits 2 q && !q.hostAccess
      && (a.placeBlocks 2 q).any fun b => !a.setBusy 2 q b && p ((a.modPart 2 fun x => { x with q := q, slotBase := b }).closeWindow 2)
  [Test.meets Test.up 0 .partCreate [(0, 1, 15), (1, 1, 1)] fun a f =>
     a.quotaInRange (quotaOfArgs f) && !(a.part 15).live && (a.placeBlocks 15 (quotaOfArgs f)).isSome && a.quotaFits 15 (quotaOfArgs f),
   set (two false) fun _ => true, set (two true) fun t => t.windowClosed 2, set line fun t => !t.windowClosed 2,
   Test.meets Test.up 0 .partDestroy [(0, 1, 1)] fun a _ =>
     (a.part 1).live && a.slabs.all fun b => b.live.isEmpty && b.started.isEmpty] : List Bool).all id = true := by decide +kernel

/-- ContextCommands: a context made at once, and one made in the place of a victim; images kept, sent out and copied out; an
image taken into its own context, resident or Out, and into another. A host copy: `test_meets_restore_of_a_copy`. -/
theorem test_meets_context_commands : (
  let img : Ctx := { Test.ctx 1 .out none with cairn := 5, imgWord := 0xB12401020020 }
  let kept : CtxState → State := fun st => Test.up.modPart 1 fun q => { q with ctxs := [Test.ctx 0 st none, img] }
  let create : Nat → List Nat → Bool := fun spad vs => Test.meets Test.up 1 .ctxCreate [(0, 1, 1), (1, 1, 2), (2, 2, spad)] fun a _ =>
    let p := a.part 1
    ((List.range 256).find? fun n => !p.ctxs.any fun c => c.num == n) == some 2 && a.victims 1 2 spad [0] == some vs
      && a.imagesFit 1 vs && bitOf p.q.mask 0 && decide (2 ≤ p.q.slots) && decide (spad ≤ p.q.spad)
  let save : Nat → Nat → (State → Ctx → Bool) → Bool := fun n buf p => Test.meets Test.up 1 .ctxSave [(0, 2, n), (8, 8, buf)] fun a _ =>
    Test.ok (a.needCtx 1 n) fun c => p a c
  let take : State → Nat → (State → Ctx → Ctx → Bool) → Bool := fun s n p => Test.meets s 1 .ctxRestore [(0, 2, n), (8, 8, 5)] fun a f =>
    Test.ok (a.needCtx 1 n) fun c =>
      (a.idle 1 c 100 || decide (c.st = .out) && decide (c.switching = .none)) && !bitOf (f.arg 8 8) 63
        && ((a.part 1).ctxs.find? fun x => x.cairn == f.arg 8 8 && f.arg 8 8 != 0 && decide (x.st = .out)).any fun x =>
          a.cairnMatches c x.imgWord x.imgHash && ((a.cairnRead 1 x).2).isNone && p a c x
  let other : State → Ctx → Ctx → Bool := fun a _ x => x.num == 1 && (((a.cairnRead 1 x).1.ctx? 1 x.num).bind fun y => (a.cairnRead 1 x).1.switchFor 1 100 y).isSome
  [create 16 [], create 1 [], create 256 [0],
   Test.meets Test.up 1 .ctxDestroy [(0, 2, 0)] fun a _ => Test.ok (a.needCtx 1 0) fun c => !a.passaging 1 c.num 100,
   save 1 0 fun _ c => decide (c.st = .out) && decide (c.switching = .none),
   save 1 64 fun a c => decide (c.st = .out) && decide (c.switching = .none) && ((a.cairnRead 1 c).2).isNone,
   save 0 0 fun a c => a.idle 1 c 100 && a.imagesFit 1 [c.num],
   take (kept .resident) 1 fun a c x => decide (c.st = .out) && x.num == c.num && (a.switchFor 1 100 c).isSome,
   take (kept .resident) 0 fun a c x => decide (c.st ≠ .out) && other a c x,
   take (kept .out) 0 fun a c x => decide (c.st = .out) && ((a.cairnRead 1 x).1.switchFor 1 100 c).any fun a2 =>
     x.num == 1 && ((a2.ctx? 1 x.num).bind fun y => a2.switchFor 1 100 y).isSome] : List Bool).all id = true := by
  decide +kernel

/-- A host copy of a Cairn image of two slabs, two slots and 16 MiB, all zeros, without a program (R412). -/
def Test.cairnHead : List Byte := toLe 8 (0x4E464332 + 2 ^ 32) ++ toLe 16 0xB12401020020 ++ toLe 8 41955392

def Test.copy : List Byte :=
  let body := Test.cairnHead ++ List.replicate 41955296 0
  body ++ bytesAt (Config.sha3 body) 0 64

theorem Test.length_copy : Test.copy.length = 41955392 := by
  rw [Test.copy, List.length_append, length_bytesAt, List.length_append, List.length_replicate]; rfl

theorem Test.parse_fields {bs : List Byte} {b : CairnBody} (h : parseCairn bs = some b) :
    b.word = numAt bs 8 16 ∧ b.hash = bytesAt bs 32 64 := by
  unfold parseCairn at h
  dsimp only at h
  split at h
  · cases h; exact ⟨rfl, rfl⟩
  · cases h

theorem Test.copy_length_field : numAt Test.copy 24 8 = 41955392 := by
  have hl : (Test.cairnHead ++ List.replicate 41955296 (0 : Byte)).length = 41955328 := by
    rw [List.length_append, List.length_replicate]; rfl
  rw [numAt, Test.copy, bytesAt_append (by rw [hl]; decide), bytesAt_append (by decide)]; decide +kernel

theorem Test.copy_reads : ∃ b, parseCairn Test.copy = some b ∧ b.word = 0xB12401020020 ∧ b.hash = List.replicate 64 0 := by
  have hl : (Test.cairnHead ++ List.replicate 41955296 (0 : Byte)).length = 41955328 := by
    rw [List.length_append, List.length_replicate]; rfl
  have head : ∀ a n, a + n ≤ 32 → numAt Test.copy a n = numAt Test.cairnHead a n := fun a n h => by
    rw [numAt, Test.copy, bytesAt_append (by rw [hl]; omega), bytesAt_append h, numAt]
  have zeros : ∀ a n, 32 ≤ a → a + n ≤ 41955328 → bytesAt Test.copy a n = List.replicate n 0 := fun a n h h2 => by
    rw [Test.copy, bytesAt_append (by rw [hl]; exact h2), bytesAt_zeros h]
  have m : numAt Test.copy 0 4 = 0x4E464332 := by rw [head _ _ (by decide)]; decide +kernel
  have v : numAt Test.copy 4 2 = 1 := by rw [head _ _ (by decide)]; decide +kernel
  have v2 : numAt Test.copy 6 2 = 0 := by rw [head _ _ (by decide)]; decide +kernel
  have w : numAt Test.copy 8 16 = 0xB12401020020 := by rw [head _ _ (by decide)]; decide +kernel
  have n := Test.copy_length_field
  have b98 : numAt Test.copy 98 1 = 0 := by rw [numAt, zeros _ _ (by decide) (by decide)]; decide
  have tk : Test.copy.take 41955328 = Test.cairnHead ++ List.replicate 41955296 0 := List.take_left' hl
  have tag : bytesAt Test.copy 41955328 64 = bytesAt (Config.sha3 (Test.cairnHead ++ List.replicate 41955296 0)) 0 64 :=
    bytesAt_right hl length_bytesAt
  have s0 : bytesAt Test.copy 4096 20975616 = List.replicate 20975616 0 := zeros _ _ (by decide) (by decide)
  have s1 : bytesAt Test.copy 20979712 20975616 = List.replicate 20975616 0 := zeros _ _ (by decide) (by decide)
  have clean : slotRecordClean (List.replicate 4096 0) 2 = true := by decide +kernel
  have rest : (List.replicate 3997 (0 : Byte)).all (· == 0) = true := by decide +kernel
  have ra : List.range 2 = [0, 1] := rfl
  have ok : (parseCairn Test.copy).isSome = true := by
    unfold parseCairn
    simp only [w, n, show fld 0xB12401020020 7 4 = 2 from rfl, show fld 0xB12401020020 19 16 = 2 from rfl,
      show fld 0xB12401020020 31 20 * 2 ^ 20 = 16777216 from rfl, show cairnLen 2 2 16777216 = 41955392 from rfl,
      show 41955392 - 64 = 41955328 from rfl, ra, List.map_cons, List.map_nil, List.all_cons, List.all_nil]
    rw [if_pos]
    · rfl
    · simp only [m, v, v2, Test.length_copy, tk, tag, b98, zeros 99 3997 (by decide) (by decide), rest]
      rw [show (4096 + 0 * (4096 + 2097152 * 2 + 16777216) : Nat) = 4096 from rfl,
        show (4096 + 1 * (4096 + 2097152 * 2 + 16777216) : Nat) = 20979712 from rfl,
        show (4096 + 2097152 * 2 + 16777216 : Nat) = 20975616 from rfl, s0, s1, List.take_replicate, show min 4096 20975616 = 4096 from rfl, clean]
      rfl
  obtain ⟨b, hb⟩ := Option.isSome_iff_exists.1 ok
  have hf := Test.parse_fields hb
  exact ⟨b, hb, hf.1.trans w, hf.2.trans (zeros _ _ (by decide) (by decide))⟩

theorem Test.switch_host (s : State) (m : Mem) (p q : Nat) (c : Ctx) :
    ((s.setHost m).switchFor p q c).isSome = (s.switchFor p q c).isSome := by
  unfold State.switchFor
  rw [show (s.setHost m).victims p c.slots c.spad c.slabs [c.num] = s.victims p c.slots c.spad c.slabs [c.num] from rfl]
  cases s.victims p c.slots c.spad c.slabs [c.num] with
  | none => rfl
  | some vs =>
    dsimp only
    rw [show (s.setHost m).imagesFit p vs = s.imagesFit p vs from rfl]
    split <;> rfl

/-- A memory that holds the copy at host address 64 of partition 1. -/
theorem Test.copy_in_memory : ∃ m : Mem, numAt (Memory.read m (hostAddr 1 (64 + 24)) 8) 0 8 = 41955392 ∧
    Memory.read m (hostAddr 1 64) 41955392 = Test.copy := by
  have e : hostAddr 1 (64 + 24) = hostAddr 1 64 + 24 := by unfold hostAddr; omega
  have q : bytesAt (bytesAt Test.copy 24 8) 0 8 = bytesAt Test.copy 24 8 := by
    have := bytesAt_left (y := []) (length_bytesAt (bs := Test.copy) (a := 24) (n := 8))
    rwa [List.append_nil] at this
  have all := bytesAt_left (x := Test.copy) (y := []) Test.length_copy
  rw [List.append_nil] at all
  refine ⟨Memory.write [] (hostAddr 1 64) Test.copy, ?_, ?_⟩
  · rw [e, Memory.read_write Memory.wf_nil _ 24 8 (by rw [Test.length_copy]; decide), numAt, q]
    exact Test.copy_length_field
  · have := Memory.read_write Memory.wf_nil (hostAddr 1 64) 0 41955392 (vs := Test.copy) (by rw [Test.length_copy])
    rw [Nat.add_zero] at this
    rw [this, all]

theorem Test.cairn_host (s : State) (m : Mem) (c : Ctx) (w : Nat) (h : List Byte) :
    ((s.setHost m).accepting .ctxRestore 1 0).cairnMatches c w h = (s.accepting .ctxRestore 1 0).cairnMatches c w h := rfl

/-- A host copy is read as it is, outside a session and where no translation is asked for. -/
theorem Test.host_copy (s : State) (m : Mem) (h : (s.accepting .ctxRestore 1 0).port.ideCm = 0)
    (ha : ((s.accepting .ctxRestore 1 0).fn 1).ats = false) (hs : ((s.accepting .ctxRestore 1 0).part 1).session = none) {c : Ctx} :
    let a := (s.setHost m).accepting .ctxRestore 1 0
    a.hostCairn ((s.setHost m).sealed .ctxRestore 1 0) c 64 = (a,
      match parseCairn (Memory.read m (hostAddr 1 64) (numAt (Memory.read m (hostAddr 1 (64 + 24)) 8) 0 8)) with
      | some b => .ok b | none => .error .imageForm) := by
  intro a
  have h' : a.port.ideCm = 0 := h
  have ha' : (a.fn 1).ats = false := ha
  have hs' : (a.part 1).session = none := hs
  have op : a.hostOpen ((s.setHost m).sealed .ctxRestore 1 0) = (a, none) := by
    simp [State.hostOpen, State.hostRefuses, State.atsInjected, show ((s.setHost m).sealed .ctxRestore 1 0).fn = 1 from rfl, h', ha']
  simp only [State.hostCairn, op, State.cairnArg, show ((s.setHost m).sealed .ctxRestore 1 0).fn = 1 from rfl, hs', State.readHost,
    show a.host = m from rfl]
  all_goals (generalize parseCairn _ = o; cases o <;> rfl)

/-- The state in which CTX_RESTORE of host address 64 is sealed by partition 1, its one context in a state. -/
def Test.restoring (st : CtxState) : State :=
  Test.put (Test.up.modPart 1 fun q => { q with ctxs := [Test.ctx 0 st none] }) 1 .ctxRestore [(8, 8, 2 ^ 63 + 64)]

theorem Test.restoring_facts : ∀ st ∈ [CtxState.resident, CtxState.out], (Test.restoring st).ready .ctxRestore 1 0 = true
    ∧ ((Test.restoring st).accepting .ctxRestore 1 0).needCtx 1 (((Test.restoring st).sealed .ctxRestore 1 0).arg 0 2)
      = .ok (Test.ctx 0 st none)
    ∧ (((Test.restoring st).accepting .ctxRestore 1 0).idle 1 (Test.ctx 0 st none) (Test.restoring st).hub.seq = true ∨ st = .out)
    ∧ (((Test.restoring st).accepting .ctxRestore 1 0).switchFor 1 (Test.restoring st).hub.seq (Test.ctx 0 st none)).isSome = true
    ∧ ((Test.restoring st).sealed .ctxRestore 1 0).arg 8 8 = 2 ^ 63 + 64
    ∧ ((Test.restoring st).accepting .ctxRestore 1 0).port.ideCm = 0
    ∧ (((Test.restoring st).accepting .ctxRestore 1 0).fn 1).ats = false
    ∧ (((Test.restoring st).accepting .ctxRestore 1 0).part 1).session = none
    ∧ ((Test.restoring st).accepting .ctxRestore 1 0).cairnMatches (Test.ctx 0 st none) 0xB12401020020 (List.replicate 64 0) = true := by
  decide +kernel

/-- ContextCommands, a host copy that passes every check of R414, into a context that is resident and one that is Out. -/
theorem test_meets_restore_of_a_copy : ∀ st ∈ [CtxState.resident, CtxState.out], ∃ (s : State) (c : Ctx) (b : CairnBody),
    let a := s.accepting .ctxRestore 1 0
    let f := s.sealed .ctxRestore 1 0
    s.ready .ctxRestore 1 0 = true ∧ a.needCtx 1 (f.arg 0 2) = .ok c ∧ c.st = st ∧
      (a.idle 1 c s.hub.seq = true ∨ c.st = .out ∧ c.switching = .none) ∧ bitOf (f.arg 8 8) 63 = true ∧
      fld (f.arg 8 8) 62 0 % 64 = 0 ∧ a.hostCairn f c (fld (f.arg 8 8) 62 0) = (a, Except.ok b) ∧ a.cairnMatches c b.word b.hash = true ∧
      (a.switchFor 1 s.hub.seq c).isSome = true := by
  intro st hst
  obtain ⟨m, len, all⟩ := Test.copy_in_memory
  obtain ⟨b, hb, hw, hh⟩ := Test.copy_reads
  have facts := Test.restoring_facts st hst
  generalize Test.restoring st = s at facts
  obtain ⟨ready, need, idle, sw, arg, ide, ats, ses, fits⟩ := facts
  have arg' : ((s.setHost m).sealed .ctxRestore 1 0).arg 8 8 = 2 ^ 63 + 64 := arg
  refine ⟨s.setHost m, Test.ctx 0 st none, b, ?_, ?_, rfl, ?_, ?_, ?_, ?_, ?_, ?_⟩
  · exact ready
  · exact need
  · exact idle.imp id fun h => ⟨h, rfl⟩
  · rw [arg']; decide
  · rw [arg']; decide
  · rw [arg', show fld (2 ^ 63 + 64) 62 0 = 64 from rfl]
    exact (Test.host_copy _ m ide ats ses).trans (by rw [len, all, hb])
  · rw [hw, hh]
    exact (Test.cairn_host s m _ _ _).trans fits
  · exact (Test.switch_host (s.accepting .ctxRestore 1 0) m _ _ _).trans sw

/-- ContextSwitchAndTeardownEnds: switches without a command, for a CTX_SAVE and for a CTX_RESTORE; a teardown; none. -/
theorem test_meets_switch_ends : (
  let set0 : (Ctx → Ctx) → List Flight → State := fun g l => (Test.up.modCtx 1 0 g).setFlights l
  let c : State → (Ctx → Bool) → Bool := fun s p => s.running && (s.ctx? 1 0).any p
  let going : Ctx → Ctx := fun c => { c with switching := .goingOut }
  let coming : Ctx → Ctx := fun c => { c with st := .out, switching := .comingIn }
  let waits : Cmd → Flight := fun k => { flightOf 1 40 k default with phase := .busy, waits := [0] }
  let out : List Flight → Bool := fun l => c (set0 going l) fun c => c.leaving && (((set0 going l).switchRead 1 c).2).isNone
  let back : List Flight → Bool := fun l => c (set0 coming l) fun c => decide (c.switching = .comingIn) && decide (c.st = .out)
    && ((set0 coming l).part 1).ctxs.all (fun c => !c.leaving) && (((set0 coming l).cairnRead 1 c).2).isNone
  [out [], out [waits .ctxSave], (waits .ctxSave).arg 8 8 == 0, back [], back [waits .ctxRestore],
   c (set0 (fun c => { c with st := .faulted }) []) fun c => decide (c.st = .faulted),
   c Test.up fun c => !c.leaving && decide (c.switching ≠ .comingIn) && decide (c.st ≠ .faulted)] : List Bool).all id = true := by
  decide +kernel

/-- ModelCommands: a load into a new model, with a hot copy asked for, and in the place of a model; a pin of what is hot, and
one that waits. -/
theorem test_meets_model_commands : (
  let list := toLe 8 0x10000 ++ toLe 2 1 ++ toLe 1 1
  let s := Test.up.writeHost 1 0x1000 list
  let pinned := Test.up.modPlace 1 6 0 0 fun y => { y with pinned := true }
  let cold := Test.up.modPlace 1 6 0 0 fun y => { y with hot := false }
  let load : Nat → Nat → Bool := fun flags h => Test.meets s 1 .modelLoad [(0, 1, 1), (1, 1, flags), (4, 4, h), (8, 8, 0x1000)] fun a f =>
     Test.got (a.hostIn f f.cmd.code 1 0x1000 80) fun a1 bs =>
       let as := [partArgAt bs 0]
       (as.all fun x => x.clean && decide (x.size = 1) && decide (x.mask = 1))
         && (List.range 8).all (fun k => decide (partFrames (as.map fun x => (x.size, x.mask)) k ≤ a1.framesFree 1 k))
         && (h == 0 || !a1.modelHeld 1 h && ((a1.part 1).model? h).any fun m => !m.isLoading)
         && Test.got (a1.readParts f (bitOf (f.arg 1 1) 1) 0 as) fun _ l => l.length == 1
  let pin : State → Bool → Bool := fun s w => Test.meets s 1 .modelPin [(0, 4, 6)] fun a _ => ((a.part 1).model? 6).any fun m =>
    Test.ok (a.startLoads 1 100 m.spots) fun t => t.allHot 1 m.spots == w
  [load 0 0, load 1 6,
   Test.meets Test.up 1 .modelDrop [(0, 4, 6)] fun a _ =>
     ((a.part 1).model? 6).any (fun m => !m.isLoading) && !a.modelHeld 1 6,
   pin Test.up true, pin cold false,
   Test.meets pinned 1 .modelUnpin [(0, 4, 6)] fun a _ => ((a.part 1).model? 6).isSome,
   Test.meets Test.up 1 .quarryStat [(0, 8, 64), (8, 4, 64)] fun _ f => bufOk (f.arg 0 8) (f.arg 8 4)] : List Bool).all id = true := by
  decide +kernel

/-- RegionCommands, with the smallest and the largest region, small and large pages, and a home slab with a passage. -/
theorem test_meets_region_commands : (
  let busy := Test.up.modSlab 0 fun b => { b with live := [{ (default : Live) with seq := 3 }] }
  let maps : Bool → Nat → State → Flight → Bool := fun big n a f =>
    ((a.part 1).region? 7).any fun r =>
      let unit := if big then 2 ^ 21 else 2 ^ 16
      let num := f.arg 8 8 / 2 ^ 16
      decide (f.arg 8 8 + n * unit ≤ r.size)
        && ((List.range (n * (unit / 2 ^ 16))).all fun i => (r.entry? (num + i)).isNone)
        && decide (({ r with pages := r.pages ++ (List.range n).map fun i => ({ num := num + i, big := big, ro := false } : Page) } : Region).frames
            ≤ a.framesFree 1 r.home + r.frames)
  [Test.meets Test.up 1 .regionCreate [(0, 8, 2 ^ 21), (8, 1, 7)] fun a _ => bitOf (a.part 1).q.mask 7,
   Test.meets Test.up 1 .regionCreate [(0, 8, 2 ^ 36)] fun a _ => bitOf (a.part 1).q.mask 0 && decide ((a.part 1).regions.length < 4096),
   Test.meets Test.up 1 .regionMap [(0, 4, 7), (8, 8, 0x100000), (16, 4, 16)] fun a f => maps false 16 a f,
   Test.meets (Test.up.modRegion 1 7 fun r => { r with pages := [] }) 1 .regionMap [(0, 4, 7), (4, 1, 1), (16, 4, 1)] fun a f => maps true 1 a f,
   Test.meets Test.up 1 .regionUnmap [(0, 4, 7), (8, 8, 0), (16, 8, 2 ^ 21)] fun a f =>
     ((a.part 1).region? 7).any fun r => decide (f.arg 8 8 + f.arg 16 8 ≤ r.size) && r.pages.all fun g => !g.big,
   Test.meets busy 1 .regionUnmap [(0, 4, 7), (16, 8, 2 ^ 16)] fun a _ => decide (a.selected 0 ≠ []),
   Test.meets Test.up 1 .regionDestroy [(0, 4, 7)] fun a _ => ((a.part 1).region? 7).any fun r => !a.regionBusy 1 r.handle,
   Test.meets busy 1 .regionDestroy [(0, 4, 7)] fun a _ => !a.regionBusy 1 7 && decide (a.selected 0 ≠ [])] : List Bool).all id = true := by
  decide +kernel

/-- ProgLoadPlacesACheckedImage and RunAndHeldResultCommands: an image from the host and one from flat memory (each too short,
which is ST_IMAGE_FORM; one that passes is `test_meets_signed_image`); a shape over every bucket, a zero extent, and one at its
bucket's edge, its context resident, Out and on its way out. -/
theorem test_meets_prog_run_held : (
  let ident : Ident := { passage := 0, kind := 0, fmt := 0, dest := 0, slab := 0, buf := 0, count := 1, addr := 64 }
  let prog := some { Test.prog with idents := [ident] }
  let with0 : (Ctx → Ctx) → State := fun g => Test.up.modCtx 1 0 fun c => g { c with prog := prog }
  let run : State → Nat → (State → Ctx → ShapeClass → Bool) → Bool := fun s x p =>
    Test.meets s 1 .runPassage [(4, 4, x)] fun a f =>
      Test.got ((a.modCtx 1 0 fun x => { x with lastUse := 100 }).outEntries f) fun a o => o.isEmpty && Test.ok (a.needCtx 1 0) fun c =>
        (c.prog.any fun g => p a c (g.classify (f.handles 4 4)) && decide (0 < g.npass) && c.groupsOk g && a.windowsOk 1 c g (f.handles 96 8))
          && ((f.handles 32 16).filter fun h => h != 0).isEmpty && ((f.handles 96 8).filter fun h => h != 0).isEmpty
  let bucket : State → Bool := fun s => run s 8 fun a c k => (match k with | .bucket b => b == 0 | _ => false) && !a.heldFull 1 0 &&
    Test.ok (a.startLoads 1 100 []) fun s1 =>
      if c.st = .out ∧ c.switching = .none ∨ c.switching = .goingOut then (s1.switchFor 1 100 c).isSome else true
  let load : Nat → Nat → Nat → Bool := fun src addr len =>
    Test.meets Test.up 1 .progLoad [(0, 2, 0), (2, 1, src), (8, 8, addr), (16, 8, len)] fun a f => Test.ok (a.needCtx 1 0) fun c =>
      a.idle 1 c 100 && (f.arg 2 1 == 0 || a.inFlatSize 1 0 0 len && spaceOf addr == 3) && Test.got (a.imageBytes f) fun a1 img =>
        match a1.imageCheck 1 c img len with | .error e => e == .imageForm | .ok _ => false
  [load 0 0x1000 64, load 1 (3 * 2 ^ 60) 64,
   run (with0 id) 9 fun _ _ k => match k with | .over => true | _ => false,
   run (with0 id) 0 fun a c k => match k with | .zero => a.identFits 1 c [] ident && (a.writeIdent 1 c ident).isSome | _ => false,
   bucket (with0 id), bucket (with0 fun c => { c with st := .out }), bucket (with0 fun c => { c with switching := .goingOut }),
   Test.meets Test.up 1 .fetch [(0, 8, 9), (8, 8, 64), (16, 4, 64)] fun a f => ((a.part 1).held? 9).any fun x =>
     decide (x.bytes.length ≤ f.arg 16 4) && bufOk (f.arg 8 8) (f.arg 16 4) && !a.claimed f x
       && ((a.readHbm x.slab 1 (heldPlace 1 9) none).2).isNone,
   Test.meets Test.up 1 .resultDrop [(0, 8, 9)] fun a f => ((a.part 1).held? 9).any fun x => !a.claimed f x]
  : List Bool).all id = true := by decide +kernel

/-- The body of an image for two slabs with one passage of one line on each, one bucket and no dimension (R319 to R324). -/
def Test.image : List Byte :=
  let zeros : Nat → List Byte := fun n => List.replicate n 0
  let geom := 1 + 2 * 2 ^ 4 + 9 * 2 ^ 8 + 9 * 2 ^ 12 + 2 * 2 ^ 16 + 2 ^ 20 + 0xB124 * 2 ^ 32 + 2 ^ 48 + 2 ^ 56 + 2 ^ 64
  let dir : List (Nat × Nat) := [(768, 16), (832, 32), (0, 0), (0, 0), (896, 32), (0, 0), (0, 0), (0, 0), (960, 64), (1024, 64)]
  toLe 8 (0x4E464231 + 2 ^ 32) ++ toLe 16 geom ++ [0, 1, 1, 0, 0, 0, 0, 0] ++ toLe 8 2 ++ toLe 8 1088 ++ zeros 208
    ++ dir.flatMap (fun e => toLe 8 e.1 ++ toLe 8 e.2) ++ zeros 352
    ++ zeros 64 ++ toLe 64 100 ++ toLe 16 (2 ^ 24 + 3 * 2 ^ 56) ++ toLe 48 (1 + 2 ^ 24 + 3 * 2 ^ 48 + 3 * 2 ^ 56)
    ++ toLe 64 (1 + 2 ^ 12) ++ toLe 64 (1 + 2 ^ 12)

/-- ProgLoadPlacesACheckedImage, an image that passes every check of R327: where the signature scheme, of which nothing is
known (log 9), takes this signature under the partition's one signer. -/
theorem test_meets_signed_image (h : Config.sigOk [1] (bytesAt (Config.sha3 Test.image) 0 64) (List.replicate 4627 0) = true) :
    Test.up.imageCheck 1 (Test.ctx 0 .resident (some Test.prog))
      (Test.image ++ (bytesAt (Config.sha3 [1]) 0 64 ++ List.replicate 4627 0)) 5779 = .ok Test.image := by
  have hn : imgLen (Test.image ++ (bytesAt (Config.sha3 [1]) 0 64 ++ List.replicate 4627 0)) = 1088 := by decide +kernel
  have hl : Test.image.length = 1088 := by decide +kernel
  have hs : (Test.up.part 1).signed Test.image (bytesAt (Config.sha3 [1]) 0 64 ++ List.replicate 4627 0) = true := by
    have h0 : bytesAt (bytesAt (Config.sha3 [1]) 0 64 ++ List.replicate 4627 0) 0 64 = bytesAt (Config.sha3 [1]) 0 64 := bytesAt_left length_bytesAt
    have h1 : bytesAt (bytesAt (Config.sha3 [1]) 0 64 ++ List.replicate 4627 0) 64 4627 = List.replicate 4627 0 :=
      bytesAt_right length_bytesAt List.length_replicate
    have hg : (Test.up.part 1).signers = [1] :: List.replicate 7 [] := by decide +kernel
    simp only [Part.signed, hg, List.any_cons, h0, h1, h, beq_self_eq_true, Bool.and_true]
    rfl
  simp only [State.imageCheck, hn, List.take_left' hl, List.drop_left' hl, hs]
  decide +kernel

/-- GroupCopyAndFillCommands: a free index and a bound one, shares, flat memory and the host. -/
theorem test_meets_group_copy_fill : (
  let bound := Test.up.modCtx 1 0 fun c => { c with groups := [Test.group] }
  let create : State → (Option St → Bool) → Bool := fun s p =>
    Test.meets s 1 .groupCreate [(3, 1, 2), (4, 8, 0xFFFFFFFFFFFF0100), (12, 1, 4), (13, 1, 1)] fun a f =>
      a.groupArgs f && Test.ok (a.needCtx 1 0) fun c => a.idle 1 c 100 && p (a.groupRefused c (groupOfArgs f))
  let moves : Nat → Nat → Bool := fun src dst =>
    Test.meets Test.up 1 .copy [(0, 8, src), (8, 8, dst), (16, 8, 512)] fun a f =>
      Test.ok (a.copyCtx f) (fun _ => true) && [2, 3, 5].contains (spaceOf src) && [2, 3, 5].contains (spaceOf dst) && Test.ok (a.side f src 512) fun x => Test.ok (a.side f dst 512) fun y =>
        match a.sideRead f 512 x with
        | (s1, .ok bs) => (s1.sideWrite f bs y).isSome
        | (_, .error _) => false
  [create Test.up fun r => r == none, create bound fun r => r == some .groupBusy,
   Test.meets bound 1 .groupDestroy [] fun a _ => Test.ok (a.needCtx 1 0) fun c =>
     (c.groups.any fun x => x.lidx == 0) && !a.passaging 1 c.num 100,
   moves (2 * 2 ^ 60) (3 * 2 ^ 60), moves (3 * 2 ^ 60) (5 * 2 ^ 60), moves (5 * 2 ^ 60) (2 * 2 ^ 60 + 2 ^ 56),
   Test.meets Test.up 1 .fill [(0, 8, 3 * 2 ^ 60), (8, 8, 512), (16, 8, 7)] fun a f =>
     Test.ok (a.copyCtx f) (fun _ => true) && Test.ok (a.side f (f.arg 0 8) 512) fun y => (a.sideWrite f (List.replicate 512 7) y).isSome]
  : List Bool).all id = true := by decide +kernel

/-- CodecCommands: the smallest encoder frame (16 by 16) and the smallest decoder frame; an output that is held, and one that
goes to the host. -/
theorem test_meets_codec_commands : (
  let enc := toLe 8 (16 + 16 * 2 ^ 16 + 2 ^ 48 + 2 * 2 ^ 56)
  let dec := toLe 8 (16 + 16 * 2 ^ 16 + 2 ^ 48)
  let opens : Nat → List Byte → Bool := fun kind p =>
    Test.meets (Test.up.writeHost 1 0x1000 p) 1 .codecOpen [(0, 1, kind), (8, 8, 0x1000), (16, 4, 64)] fun a f =>
      Test.got (a.hostIn f f.cmd.code 1 0x1000 64) fun a p =>
        f.arg 16 4 == 64 && (if kind = 0 then encParamOk p else decParamOk p)
          && decide (a.coresHeld 1 (kind == 0) + codecCores kind p ≤ 2) && decide (codecFrames kind p ≤ a.framesFree 1 (codecHome kind p))
          && decide (8 + (a.part 1).declaredOn (codecHome kind p) ≤ (a.part 1).quotaOn (codecHome kind p) Quota.hbm - a.codecReserve 1 (codecHome kind p))
  let encode : Nat → Nat → Bool := fun n buf =>
    Test.meets (Test.coded 0) 1 .codecEncode [(0, 4, 3), (4, 2, n), (8, 8, buf), (16, 4, 64), (24, 8, 4096)] fun a f =>
      (a.sink? 1 3).isSome && bufOk (f.arg 8 8) (f.arg 16 4) && fld (f.arg 24 8) 63 33 == 0 && !a.heldFull 1 1
  [opens 0 enc, opens 1 dec, opens 2 dec,
   Test.meets (Test.coded 0) 1 .codecClose [(0, 4, 3)] fun a _ => (a.ownSession 1 3).isSome && !a.codecInFlight 1 3,
   encode 1 0, encode 256 64,
   Test.meets (Test.coded 1) 1 .codecDecode [(0, 4, 3), (6, 1, 1)] fun a f => Test.ok (a.needCtx 1 0) fun x =>
     (a.ownSession 1 3).any fun c => c.kind == 1 && (x.onSlab? 1).isSome && decide (x.st = .resident) && decide (x.switching = .none)
       && decide (f.arg 20 4 * 512 + frMax c.param * decFrameBytes c.param ≤ x.shareBytes)] : List Bool).all id = true := by decide +kernel

/-- AttestAndSignerCommands, SessionCommandsOpenTheirArguments, SessionAndDebugCommands. That an argument area opens, and that
a token is good, nothing can show: nothing is known of the cipher and of the signature scheme (log 9). -/
theorem test_meets_session_commands : (
  let empty := Test.up.modPart 1 fun q => { q with ctxs := [], models := [], regions := [], held := [], pendKey := some (1, []) }
  let line := empty.setPort { empty.port with snoop := [2 ^ 34] }
  let session := Test.up.modPart 1 fun q => { q with session := some { handle := 8, kIn := [], kOut := [], used := [], saves := [] } }
  let insecure := Test.up.setPort { Test.up.port with ideCm := 2 }
  let opens : State → Bool → Bool := fun s w =>
    Test.meets s 1 .sessionOpen [(16, 4, 128)] fun a f => bufOk (f.arg 8 8) (f.arg 16 4) && !a.sessionBusy f && (a.part 1).pendKey == some (1, [])
      && Test.got (a.hostIn f f.cmd.code 1 (f.arg 0 8) 1568) fun a _ => (a.closeWindow 1).windowClosed 1 == w
  [Test.meets Test.up 1 .attest [(8, 4, 6848)] fun a f =>
     bufOk (f.arg 0 8) (f.arg 8 4) && decide (6611 + 80 * (a.part 1).ctxs.length ≤ f.arg 8 4),
   Test.meets Test.up 1 .signerAdd [(8, 1, 7)] fun a f => (nth (a.part 1).signers 7).isEmpty
     && Test.got (a.hostIn f f.cmd.code 1 (f.arg 0 8) 2592) fun _ key => key.length == 2592,
   Test.meets Test.up 1 .signerRemove [(0, 1, 0)] fun a _ => !(nth (a.part 1).signers 0).isEmpty,
   (Test.put session 1 .sessionClose []).starts .sessionClose 1 0 && (session.part 1).session.isSome,
   (Test.put session 1 .fill []).starts .fill 1 0,
   opens empty true, opens line false,
   Test.meets Test.up 1 .sessionClose [],
   Test.meets Test.up 0 .debugUnlock [] fun a _ => !a.tokenOk [],
   Test.meets insecure 0 .debugUnlock [(8, 4, 4691)] fun a f => !(Test.got (a.hostIn f f.cmd.code 1 (f.arg 0 8) 4691) fun _ _ => true)]
  : List Bool).all id = true := by decide +kernel

/-- SessionCommandsOpenTheirArguments: where the cipher, of which nothing is known (log 9), opens the area, its counter is used
up; where it does not, the command fails. -/
theorem test_meets_opened_area (pt : List Byte) :
    let k : Session := { handle := 8, kIn := [], kOut := [], used := [], saves := [] }
    let f := flightOf 1 100 .sessionClose { idx := 0, area := [(32, 1)], seq := 0, status := .ok, state := .free }
    let aad := gcmAad 1 f.cmd.code 0 0 200 true ++ f.headerAad
    let r := Config.gcmOpen [] (gcmNonce 1 0 0 0) aad (bytesAt f.args 24 200) (bytesAt f.args 8 16)
    (r = some pt → k.openArgs f = .ok (1, bytesAt pt 0 200 ++ List.replicate 24 0)) ∧ (r = none → k.openArgs f = .error .authFail) := by
  intro k f aad r
  have hc : numAt f.args 0 8 = 1 := by decide +kernel
  constructor <;> intro h <;> simp only [Session.openArgs, hc]
  · rw [show Config.gcmOpen k.kIn (gcmNonce 1 0 0 0) (gcmAad f.fn f.cmd.code 0 0 200 true ++ f.headerAad) (bytesAt f.args 24 200)
      (bytesAt f.args 8 16) = some pt from h]
    rfl
  · rw [show Config.gcmOpen k.kIn (gcmNonce 1 0 0 0) (gcmAad f.fn f.cmd.code 0 0 200 true ++ f.headerAad) (bytesAt f.args 24 200)
      (bytesAt f.args 8 16) = none from h]

/-- A debug token for a module of serial 0 and challenge 0, and a signature of zeros (R467). -/
def Test.token : List Byte := toLe 8 (0x4E464454 + 2 ^ 32) ++ List.replicate 4683 0

/-- SessionAndDebugCommands: the token is good where the signature scheme, of which nothing is known (log 9), takes it. -/
theorem test_meets_good_token (h : Config.sigOk Config.debugKey (digest (Test.token.take 64)) (Test.token.drop 64) = true) :
    let s := (Test.up.setHub { Test.up.hub with fuse := { Test.up.hub.fuse with serial := 0 } }).setGeode { Test.up.geode with chal := 0 }
    s.tokenOk Test.token = true := by
  intro s
  have a : (Test.token.length == 4691 && numAt Test.token 0 4 == 0x4E464454 && numAt Test.token 4 2 == 1
    && numAt Test.token 8 12 == (0 : BitVec 96).toNat && decide (numAt Test.token 24 4 < 4)
    && numAt Test.token 32 32 == (0 : BitVec 256).toNat) = true := by decide +kernel
  rw [State.tokenOk, h, Bool.and_true]
  exact a

/-- TalusCommands, with the smallest and the largest ring; a point that is armed and one that acts at once. -/
theorem test_meets_talus_commands : (
  let alarm := Test.up.emit [16, 1] (unitEvent Test.up .ideFail 0 0xF 0xC 0 0 0) 5 true
  let inject : Nat → List (Nat × Nat × Nat) → Bool := fun fn args => Test.meets Test.up fn .inject args fun a f =>
    let pt := f.arg 0 2
    (pointScopes pt).contains (f.arg 2 1) && a.targetExists fn (f.arg 2 1) (f.arg 4 2)
      && !((a.ctx? fn (f.arg 4 2)).any fun c => decide (c.st = .faulted)) && a.talus.armed.isEmpty
      && !((pt == 0x0B01 || pt == 0x0B02) && (pathClass pt (f.arg 8 8)).isNone)
  [Test.meets Test.up 1 .ringSet [(0, 8, 64), (8, 1, 6), (9, 1, 127)], Test.meets Test.up 0 .ringSet [(0, 8, 64), (8, 1, 16), (10, 1, 1)],
   Test.meets Test.up 0 .ringSet [(8, 1, 16), (10, 1, 1)],
   Test.meets alarm 0 .alarmAck [(0, 2, St.ideFail.code)] fun a f => a.talus.canAck (ackViews 0) (f.arg 0 2),
   Test.meets Test.up 0 .alarmAck [] fun a _ => !a.talus.canAck (ackViews 0) 0,
   inject 1 [(0, 2, 0x0101)] && !immediatePoint 0x0101,
   inject 0 [(0, 2, 0x0B01), (2, 1, 5), (8, 8, St.memCorr.code)] && immediatePoint 0x0B01,
   Test.meets Test.up 1 .injectClear [(0, 2, 0xFFFF)]] : List Bool).all id = true := by decide +kernel

/-- CompletionsAndHeldCommands: a finished command, one with a result, a REST_ENTER, one that is held or may not send; one held
back, one free to start. -/
theorem test_meets_completions : (
  let f := flightOf 1 40 .statusGet default
  let done := { f with phase := .done, irq := true }
  let data := { done with outs := [{ addr := 64, len := 4, bytes := [1, 2, 3, 4], index := 1, epoch := true }] }
  let rest := { flightOf 0 40 .restEnter default with phase := .done }
  let at1 : Flight → (State → Flight → Bool) → Bool := fun g p =>
    let s := Test.up.setFlights [g]
    s.running && (s.fn g.fn).masters && (s.flight? 40).any (fun x => x.fn == g.fn && p s x) && decide (s.hub.rest = .awake)
  let writes : State → Flight → Bool := fun s g => decide (g.phase = .done) && ((if g.outs = [] then (s, none) else s.hostOpen g).2).isNone
    && !(s.atsInjected g.fn).1 && s.port.ideCm != 2
  let low := (Test.up.modFn 1 fun g => { g with d3hot := true }).setFlights [done]
  [at1 done writes, at1 data fun s g => !g.outs.isEmpty && writes s g, at1 rest fun s g => decide (g.status = .ok) && writes s g,
   at1 f fun s g => decide (g.phase = .ordered) && !s.held g, at1 { f with phase := .bme } fun _ g => decide (g.phase = .bme),
   !(low.fn 1).masters, !State.reset.running,
   (let s := Test.up.setFlights [{ f with seq := 30 }, { f with ordered := true }]
    (s.flight? 40).any s.held && s.running)] : List Bool).all id = true := by decide +kernel

/-- HeadWritesMoveForward at the edge of what is there, and one past it; RegisterWrites, AccessesOfTheRegisterWindow,
RegisterReads. -/
theorem test_meets_register_writes : (
  let two := Test.up.modFn 0 fun g => { g with head := 2 ^ 17 - 1, tail := 1 }
  let fits : Nat → Nat → Nat → Bool := fun h head tail => decide ((h + 2 ^ 17 - head) % 2 ^ 17 ≤ (tail + 2 ^ 17 - head) % 2 ^ 17)
  let off := Test.up.modFn 15 fun g => { g with en := false }
  let low := Test.up.modFn 15 fun g => { g with d3hot := true }
  [two.barOpen 0 && two.hub.stop.isNone, fits 1 (two.fn 0).head (two.fn 0).tail, !fits 2 (two.fn 0).head (two.fn 0).tail,
   fits 0 (two.ring 16).head (two.ring 16).tail, !fits 1 (two.ring 0).head (two.ring 0).tail,
   off.barOpen 15 && !(off.fn 15).en, Test.up.barOpen 15 && (Test.up.fn 15).en && decide (Test.up.inflight 15 = 0),
   decide (1 ≤ (Test.up.setFlights [flightOf 15 1 .statusGet default]).inflight 15),
   (let s := Test.up.setHub { Test.up.hub with rest := .inRest }; s.running && decide (s.hub.rest = .inRest)),
   !Test.up.hub.service && decide ((0x5F4E0000#32).toNat = 0x5F4E0000 + Test.up.hub.svnFw.val),
   decide ((0#32).toNat ≠ 0x5F4E0000 + Test.up.hub.svnFw.val), (Test.up.setHub { Test.up.hub with service := true }).hub.service,
   Test.up.configOpen && Test.up.fnExists 15 && !(Test.up.fn 15).d3hot && Test.up.port.ideIo != 2 && Test.up.port.cxl,
   low.configOpen && (low.fn 15).d3hot, (Test.up.setPort { Test.up.port with ideIo := 2 }).configOpen,
   (let s := Test.up.setPort { Test.up.port with vfEnable := false }; s.configOpen && !s.fnExists 15)] : List Bool).all id = true := by
  decide +kernel

/-- InputSupplyAndStops: the input at both edges, before start-up and after it, the supplies after a stop, within the hub's own
range and out of it. -/
theorem test_meets_input_and_stops : (
  let out := Test.up.setPower { Test.up.power with vin := 30000, excursion := true }
  let stopped : Nat → State := fun mv => (out.setPower { out.power with vin := mv }).stopModule .vinRange 0xF 0xF 0xF 0xFFFFFFFF
  let starts := Test.up.setHub { Test.up.hub with power := .starting, startup := Startup.reset }
  let shut : State → Bool := fun s => s.hub.stop.any fun x => !x.suppliesOff && [St.vinRange, .pwrGood, .thermTrip, .hbmTrip].contains x.code
  [decide (Test.up.hub.power = .up) && Test.up.hub.stop.isNone && !Test.up.power.excursion, out.power.excursion,
   decide (starts.hub.power = .starting) && starts.hub.startup.step == 0 && starts.hub.stop.isNone,
   shut (stopped 30000) && shut (stopped 66000) && shut (stopped 29999) && shut (stopped 66001)] : List Bool).all id = true := by
  decide +kernel

/-- TemperatureAndPowerLimits and CalibrationEvents: each clause has its state. -/
theorem test_meets_power_limits : (
  let s := Test.up
  let now : State := s.setHub { s.hub with timers := s.hub.timers.map fun _ => 10000 }
  let ep := s.setPower { s.power with episode := true }
  let limited := s.setPower { s.power with limitTherm := List.replicate 8 true }
  let hot := (s.modSlab 7 fun b => { b with hbm := modAt b.hbm 2 fun u => { u with level := 1 }, timers := b.timers.map fun _ => 10000 })
  let dom : (Domain → Domain) → State := fun g => now.modDomain 31 g
  [s.running && s.talus.armed.isEmpty && decide (23 < 3 * s.slabCount) && (nth (s.slab 7).hbm 2).level == 0,
   (nth (hot.slab 7).hbm 2).level == 1 && decide ((nth (hot.slab 7).hbm 2).coolSince.getD 0 + 10000 ≤ nth (hot.slab 7).timers 9),
   !nth s.power.limitTherm 7, nth limited.power.limitTherm 7,
   decide ((nth now.power.coolSince 7).getD 0 + 10000 ≤ now.powTime) && decide (s.powTime < 10000),
   decide (3199 < s.sustained) && decide (s.sustained ≤ 3200) && !s.power.episode,
   ep.power.episode && decide (3040 * 100 ≤ ep.sustained * 95) && decide (ep.sustained * 95 < 3041 * 100),
   s.domainExists 31 && decide (31 < s.power.domains.length) && decide (0 * 100 ≤ (nth s.power.domains 31).capture * 110)
     && decide ((nth s.power.domains 31).capture * 110 < 1 * 100) && !(nth s.power.domains 31).fallback,
   (let x := nth (dom fun x => { x with fallback := true, since := 5000 }).power.domains 31
    x.fallback && x.recal.isNone && decide (x.since + 5000 ≤ now.powTime) && decide (now.hub.rest = .awake)),
   (nth (dom fun x => { x with recal := some 1 }).power.domains 31).recal == some 1] : List Bool).all id = true := by decide +kernel

/-- RestAndServiceTransitions. -/
theorem test_meets_rest_and_service : (
  let r : Rest → State := fun r => Test.up.setHub { Test.up.hub with rest := r }
  let f := { flightOf 0 40 .serviceEnter default with phase := .busy }
  let one := Test.up.setFlights [f]
  let two := Test.up.setFlights [flightOf 0 39 .statusGet default, f]
  let finds : State → Bool := fun s => (s.flights.find? fun f => decide (f.cmd = .serviceEnter) && decide (f.phase = .busy)) == some f
  [(r .entering).running && (r .inRest).running && (r .waking).running,
   (List.range 16).all fun i => ((r .waking).fn i).slots.all fun b => decide (b.state ≠ .owned),
   finds one && one.flights.all fun g => decide (f.seq ≤ g.seq), finds two && two.flights.any fun g => decide (g.seq < f.seq)]
  : List Bool).all id = true := by decide +kernel

/-! ## Slabs: states that meet the hypotheses of every clause -/

/-- PassagesEnterTheSlab, with the queue of a slab one short of full. -/
theorem test_meets_passages_enter : (
  let held := { Test.runFlight with run := Test.runFlight.run.map fun r => { r with queued := [] } }
  let s := (Test.up.setFlights [held]).modSlab 0 fun b => { b with passq := List.replicate 63 1 }
  let q := (Test.up.setFlights [Test.runFlight]).modSlab 0 fun b => { b with passq := [40] }
  let sel : State → Bool := fun s => ((s.slab 0).passq.head?.bind s.flight?).any fun f =>
    f.run.any fun r => (s.ctx? f.fn r.ctx).any fun c => c.prog.any fun g => s.selectable 0 f r c g
  [s.running && (leastBy Flight.seq (s.flights.filter fun g => decide (g.phase = .busy) && g.run.any fun r =>
     r.slabs.contains 0 && !r.queued.contains 0)) == some held && s.canQueue 40 0,
   sel q && q.talus.armed.isEmpty, !sel (q.modSlab 0 fun b => { b with live := [Test.live] })] : List Bool).all id = true := by
  decide +kernel

/-- LinesIssueInOrder: a line that issues, one that finds its queue full, one that fails, a LOOPR, and one whose count is 0. -/
theorem test_meets_lines_issue : (
  let plan : (Live → Live) → Nat → (State → Live → Ctx → Program → Nat → Bool) → Bool := fun g ln p =>
    let s := (Test.run.modSlab 0 fun b => { b with live := [g Test.live] }).writeShare 1 0 0 0 (toLe 64 ln)
    s.running && ((s.slab 0).live.find? fun l => !l.allIssued).any fun l => l.looprWait == 0 && (s.ctx? 1 0).any fun c =>
      c.prog.any fun g => p s l c g (leNat (Memory.read (s.share 1 0 0) (l.lineAddr g) 64))
  let full := (Test.run.modSlab 0 fun b => { b with queues := modAt b.queues 7 fun _ => List.replicate 16 (Test.op 7 0) })
  let slots : (Option (Nat × St) → Bool) → State → Live → Ctx → Program → Nat → Bool := fun p s l c g ln =>
    match l.plan ln with
    | .slots us _ => !us.any (fun u => 16 ≤ (nth (s.slab 0).queues u).length)
        && !((s.slab 0).ops.any fun p => (s.slab 0).listOpen p)
        && p (s.issueFails l.part c g l.seq 0 { line := ln, units := us } (((c.onSlab? 0).map CtxSlab.slots).getD []))
    | _ => false
  [plan id (2 ^ 11) (slots fun r => r == none), plan id (2 ^ 5 + (1 + 7 * 2 ^ 25) * 2 ^ 128) (slots fun r => r == some (1, .accRange)),
   plan id (2 ^ 11 + 3 * 2 ^ 480) fun s l _ _ ln => (match l.plan ln with | .loopr => true | _ => false) && (s.queue 0 7).isEmpty,
   ((full.queue 0 7).length == 16) && plan id (2 ^ 11) (fun _ l _ _ ln => match l.plan ln with | .slots us _ => us == [7] | _ => false),
   plan (fun l => { l with looprCount := some 0 }) (2 ^ 11 + 3 * 2 ^ 480) fun _ l _ _ ln => match l.plan ln with | .skip => true | _ => false]
  : List Bool).all id = true := by decide +kernel

/-- ControlOperations; UnitOperationsWait, and band results. -/
theorem test_meets_control : (
  [Test.fires Test.run 0 0, Test.fires Test.run 7 0, Test.fires Test.run 7 1, Test.fires Test.run 7 2, Test.fires Test.run 7 4,
   Test.fires Test.run 7 3 && (Test.run.live? 0 40).any fun l => decide (l.count ≤ ctlArg 3),
   (Test.run.modLive 0 40 fun l => { l with count := 1 }).live? 0 40 |>.any fun l => decide (ctlArg 3 < l.count),
   Test.fires Test.run 7 5, (Test.run.firing 0 2 0x01).isNone && (Test.run.joining 0 2 0x20).isNone,
   Test.run.diagOf 0 40 && !((Test.run.modLive 0 40 fun l => { l with diag := false }).diagOf 0 40)] : List Bool).all id = true := by
  decide +kernel

/-- OperationsEndWithATokenEach: an operation that ends, a transfer with work left. -/
theorem test_meets_ends : (
  let s := Test.begun Test.run (Test.op 2 1)
  let x := Test.begun Test.run { Test.op 4 1 with ext := (0, 0) }
  let first : State → Nat → Option OpE := fun s u => ((s.slab 0).started.filter fun o => o.unit == u)[0]?
  [s.running && (first s 2).any fun o => (s.slab 0).canEnd o, (first x 4).any fun o => !(x.slab 0).canEnd o] : List Bool).all id = true := by
  decide +kernel

/-- PassagesEnd: a clean end on the last slab and before it, a token left, a slot gated, one not yet done. -/
theorem test_meets_passages_end : (
  let fin : (Live → Live) → State := fun g => Test.run.modLive 0 40 fun l => g { l with allIssued := true }
  let gated : State → Bool := fun s => ((s.ctx? 1 0).bind fun c => c.onSlab? 0).any fun d => d.slots.any fun a => a.gated
  let done : State → (Live → Bool) → Bool := fun s p => s.running && (s.live? 0 40).any fun l =>
    l.allIssued && !(s.slab 0).ops.any (fun o => o.seq == 40) && !s.endWithheld l && p l
  let zero : Live → Bool := fun l => l.tokens.all fun t => t == 0
  let last : List Nat → Bool → Bool := fun e all => Test.runFlight.run.any fun r => (r.slabs.all fun k => (e ++ [0]).contains k) == all
  [done (fin id) zero && !gated (fin id),
   done (fin fun l => { l with tokens := modAt l.tokens 63 fun _ => 1 }) fun l => l.tokens.any fun t => t != 0,
   done ((fin id).modSlot 1 0 0 1 fun a => { a with gated := true }) zero && gated ((fin id).modSlot 1 0 0 1 fun a => { a with gated := true }),
   (Test.run.live? 0 40).any fun l => !l.allIssued, Test.run.talus.armed.isEmpty, (Test.run.slab 0).watched 40,
   !((Test.run.modSlab 0 fun b => { b with live := { Test.live with seq := 39 } :: b.live }).slab 0).watched 40,
   last [1] true, last [] false] : List Bool).all id = true := by decide +kernel

/-- ArrayProducts: products with and without an expansion header, an arrival, a chain; a list, its entries. -/
theorem test_meets_array_products : (
  let w7 := 1 + 7 * 2 ^ 30
  let fails : State → Nat → Bool := fun s x =>
    arrWfmt x == 7 && (s.fire 0 (Test.op 0 x)).expandFails 0 (Test.op 0 x) (arrW x * 512) (shapeK (arrShape x)) (shapeN (arrShape x))
  let junk := Test.run.writeShare 1 0 0 0 (toLe 8 0xFFFFFFFFFFFFFFFF)
  let gather := Test.run.modQueue 0 0 fun k => { k with gather := some { total := 2, chunks := 1, uses := 1, arrived := [0], emitted := 0, reads := [] } }
  let chain := { Test.op 0 3 with coupled := true, fired := true }
  let c := Test.pair Test.run (Test.op 1 4) chain
  let far := 2 + (2 ^ 21 - 1) * 2 ^ 48
  let can : Nat → Nat → Bool := fun x n => Test.run.readable 1 0 40 0 (arrA x * 512) n
  [Test.fires Test.run 0 1 && !fails Test.run 1, Test.fires junk 0 w7 && fails junk w7,
   Test.fires gather 0 4 && (gather.groupQueue? 1 0 0 0).any fun g => (gather.gatherAt? 0 g.2).any fun t => decide (arrChunk 4 < t.total),
   (Test.up.groupQueue? 1 0 0 0).isNone,
   (c.joining 0 0 3) == some chain && ((c.join 0 chain).drainOf 0 chain).isSome,
   Test.fires Test.run 0 2 && can 2 16 && can 2 32, Test.fires Test.run 0 far && !can far 16] : List Bool).all id = true := by decide +kernel

theorem test_meets_list_entries : (
  let o := Test.op 0 2
  let s := (Test.begun Test.run o).modSlab 0 fun b => { b with lists := [{ id := 1, total := 1, read := 0, slots := [], flags := 0, births := 0, pos := 0, inj := false }] }
  let bad := s.writeShare 1 0 0 31 [0xFF]
  let busy := Test.head s { Test.op 1 1 with lineId := 0 }
  let entry : State → ListEntry := fun s => listEntryOf (leNat (s.opBytes 0 o 16 16))
  let d := (s.progOf o).bind fun g => fuseAt g 0 2
  [s.running && (s.slab 0).slotFree o (entry s).slot && s.entryFails 0 o d (entry s) == none,
   (bad.entryFails 0 o d (entry bad)).isSome, !(busy.slab 0).slotFree o (entry busy).slot] : List Bool).all id = true := by decide +kernel

/-- AccumulatorOperations and CoupledPairs. -/
theorem test_meets_accumulator : (
  let o := { Test.op 1 4 with coupled := true }
  let q := { Test.op 2 0x20 with coupled := true }
  let pair := Test.head (Test.head Test.run o) q
  let epi : Nat → OpE := fun bits => { Test.op 2 bits with coupled := true, fired := true }
  let joined : Nat → (Option Fuse → Bool) → Bool := fun bits p =>
    let e := epi bits
    let s := Test.pair Test.run { Test.op 1 4 with coupled := true } e
    s.joining 0 2 (slotOp 2 bits) == some e && ((s.join 0 e).drainOf 0 e).isSome && p ((s.progOf e).bind fun g => fuseAt g 2 bits)
  [Test.fires Test.run 1 1, Test.fires Test.run 1 2, Test.fires Test.run 1 3, Test.fires Test.run 1 6,
   !((Test.run.modLive 0 40 fun l => { l with diag := false }).diagOf 0 40),
   (pair.queue 0 1).head? == some o && pair.partner? 0 o == some q && o.op == 4, ({ o with bits := 5 } : OpE).op == 5,
   pair.canFire 0 o (o.waits ++ q.waits) && (pair.slab 0).unitFree q, !((pair.setHub { pair.hub with stop := State.reset.hub.stop, power := .off }).running),
   joined 0x20 fun d => d.isNone, joined (0x20 + 2 ^ 29) fun d => d.any fun f => f.kind == 3,
   joined (0x21 + 2 * 2 ^ 29) fun d => d.any fun f => f.kind == 6, joined (0x21 + 2 ^ 29) fun d => d.any fun f => f.kind != 6]
  : List Bool).all id = true := by decide +kernel

/-- ElementWiseOperations, RowOperations, LoadsAndStores, VectorBOperations, CropAndFlintOperations: each row fires. -/
theorem test_meets_vector_rows : (
  [[0x01, 0x02, 0x03, 0x04, 0x05, 0x06, 0x07, 0x08, 0x09, 0x0A, 0x0C, 0x0D, 0x0E, 0x10, 0x11, 0x12, 0x13, 0x30, 0x31, 0x40,
     0x41].all (Test.fires Test.run 2),
   [0x01, 0x02, 0x03, 0x04, 0x05, 0x06, 0x07, 0x08, 0x09, 0x0A, 0x10, 0x11, 0x12, 0x20, 0x30, 0x40, 0x41].all (Test.fires Test.run 3),
   !isBlock (mFmt 0x40), isBlock (mFmt (0x40 + 5 * 2 ^ 41)) && Test.fires Test.run 2 (0x40 + 5 * 2 ^ 41),
   isBlock (mFmt (0x41 + 5 * 2 ^ 41)) && Test.fires Test.run 3 (0x41 + 5 * 2 ^ 41)] : List Bool).all id = true := by decide +kernel

/-- CropAndFlintOperations: a box that passes, one of no size, and a draw. -/
theorem test_meets_crop_and_flint : (
  let o := Test.op 3 0x30
  let k := cropOf 0x30
  let good : Box := { (default : Box) with src := 64, dst := 1024, h := 1, w := 1, pitch := 16 }
  [Test.run.boxFails 0 o k good == none, (Test.run.boxFails 0 o k { good with h := 0 }).isSome,
   Test.fires Test.run 6 1 && (Test.run.progOf (Test.op 6 1)).isSome && (Test.run.flight? 40).any fun f => f.run.isSome,
   ((Test.run.fire 0 (Test.op 6 1)).live? 0 40).isSome] : List Bool).all id = true := by decide +kernel

/-- TransfersMoveTheirUnits: a transfer that starts, one that goes on, one of the other opcode; a descriptor that fails, one
that waits, one with lines to ask for, one that moves; units of every kind, under a session too. -/
theorem test_meets_transfers : (
  let o := Test.op 4 1
  let going := { o with ext := (0, 0) }
  let paged := { Test.op 4 2 with ext := (0, 0) }
  let desc : Nat → Nat → Nat := fun src dst => src + dst * 2 ^ 64 + 512 * 2 ^ 128 + 2 ^ 160
  let at0 : State → Nat → (State → XfDesc → Bool) → Bool := fun s d p =>
    let t := s.writeShare 1 0 0 0 (toLe 64 d)
    p t (t.xfDescAt 0 o 0)
  let flat := 3 * 2 ^ 60
  let tenant := Test.run.modPart 1 fun q => { q with session := some { handle := 8, kIn := [], kOut := [], used := [], saves := [] } }
  let lined := Test.run.setPort { Test.run.port with snoop := [2 ^ 34] }
  let idle : State → XfDesc → Bool := fun s d => s.descFails 0 o d == none && !(d.usesHost && !(s.fn 1).masters || s.sinkWaits o d)
  [Test.fires Test.run 4 1 && (Test.run.slab 0).transfer?.isNone,
   ((Test.begun Test.run going).slab 0).transfer? == some going && going.op == 1,
   ((Test.begun Test.run paged).slab 0).transfer? == some paged && paged.op != 1,
   at0 Test.run 0 fun s d => (s.descFails 0 o d).isSome,
   at0 (Test.run.modFn 1 fun g => { g with bme := false }) (desc (5 * 2 ^ 60) 1024) fun s d =>
     s.descFails 0 o d == none && d.usesHost && !(s.fn 1).masters,
   at0 lined (desc 1024 flat) fun s d => idle s d && !(s.descLines 0 o d).isEmpty,
   at0 Test.run (desc 1024 flat) fun s d => idle s d && (s.descLines 0 o d).isEmpty && !d.usesHost,
   [desc 0 1024, desc (5 * 2 ^ 60) 1024, desc (6 * 2 ^ 60) (5 * 2 ^ 60)].all fun d =>
     [0, 5, 6].contains (xfDescOf d).sspace && [0, 5].contains (xfDescOf d).dspace,
   (let d := xfDescOf (desc 0 (2 * 2 ^ 60 + 7 * 2 ^ 56)); d.sspace == 0 && d.dspace == 2 && d.dst.slab 0 == 7),
   (Test.run.part 1).session.isNone, (tenant.part 1).session.isSome && (tenant.slab 0).bad.isEmpty && tenant.talus.armed.isEmpty] : List Bool).all id = true := by decide +kernel

/-- PagedTransfers: each check in order. -/
theorem test_meets_paged : (
  let o := Test.op 4 2
  let desc : Nat → Nat → Nat := fun bind run => 7 * 2 ^ 60 + bind * 2 ^ 40 + 1024 * 2 ^ 64 + run * 2 ^ 128 + 2 ^ 160
  let at0 : State → Nat → (State → XfDesc → Bool) → Bool := fun s d p =>
    let t := s.writeShare 1 0 0 0 (toLe 64 d)
    (Test.head t o).firing 0 4 2 == some o && p t (t.xfDescAt 0 o 0)
  let ok : XfDesc → Bool := fun d => d.spaceOk true && d.alignOk
  let far := Test.run.modRegion 1 7 fun r => { r with home := 1 }
  [at0 Test.run 0 fun _ d => !d.spaceOk true, at0 Test.run (desc 0 8) fun _ d => d.spaceOk true && !d.alignOk,
   at0 Test.run (desc 15 512) fun s d => ok d && (s.bound? o 15).isNone,
   at0 far (desc 0 512) fun s d => ok d && (s.bound? o 0).any fun g => g.home != 0,
   at0 Test.run (desc 0 512 + 2 ^ 21) fun s d => ok d && (s.bound? o 0).any fun g => g.home == 0 && decide (g.size < d.paged.1.last d),
   at0 Test.run (desc 0 512) fun s d => ok d && (s.bound? o 0).any fun g =>
     g.home == 0 && decide (d.paged.1.last d ≤ g.size) && s.sideFits 0 o d (if d.paged.2 then d.src else d.dst) (!d.paged.2)]
  : List Bool).all id = true := by decide +kernel

/-- CollectivesQueueAndStart: a queue that is empty, has room, is full; a descriptor that passes, one that fails. -/
theorem test_meets_collectives_queue : (
  let e : CollE := { op := Test.op 5 9, desc := 0, started := false, met := false, held := false }
  let n : Nat → State := fun n => Test.run.modQueue 0 0 fun k => { k with entries := List.replicate n e }
  let fails : Nat → Bool := fun w => Test.run.collFails 0 e.op Test.group (cdescOf w)
  [[1, 2, 3, 4, 5, 6, 7, 8, 9].all fun op => Test.fires Test.run 5 op && (Test.run.groupQueue? 1 0 (colGroup op) 0).isSome,
   ((n 0).gqueue 0 0).entries.isEmpty, decide (((n 3).gqueue 0 0).entries.length = 3), decide (((n 4).gqueue 0 0).entries.length = 4),
   ((n 1).gqueue 0 0).bound == some (1, 0, 0) && ((n 1).gqueue 0 0).entries.head? == some e,
   !fails (1 * 2 ^ 8), fails 0] : List Bool).all id = true := by decide +kernel

/-- CollectivesMeetAndGather: members that agree, members that differ, one missing; an end, a watchdog, a gather's unit. -/
theorem test_meets_collectives_meet : (
  let e : Nat → Nat → CollE := fun op d => { op := Test.op 5 op, desc := BitVec.ofNat 512 d, started := true, met := false, held := false }
  let both : CollE → CollE → State := fun a b =>
    (Test.run.modQueue 0 0 fun k => { k with entries := [a] }).modQueue 1 0 fun k => { k with entries := [b] }
  let met := Test.begun (both { e 9 0 with met := true } { e 9 0 with met := true }) (Test.op 5 9)
  let g : Gather := { total := 2, chunks := 1, uses := 1, arrived := [], emitted := 0, reads := [] }
  let gather := (both { e 8 0 with met := true } { e 8 0 with met := true }).modQueue 0 0 fun k => { k with gather := some g }
  let gone : Gather := { total := 2, chunks := 1, uses := 0, arrived := [0, 1], emitted := 2, reads := [] }
  let done := Test.begun ((both { e 8 0 with met := true } { e 8 0 with met := true }).modQueue 0 0 fun k => { k with gather := some gone }) (Test.op 5 8)
  [((both (e 9 0) (e 9 0)).meeting Test.group).any fun ms => ms.length == 2 && ms.all fun m => some m.key == ms.head?.map Member.key,
   ((both (e 9 0) (e 9 1)).meeting Test.group).any fun ms => ms.any fun m => some m.key != ms.head?.map Member.key,
   (Test.run.meeting Test.group).isNone && (Test.run.ctx? 1 0).any fun c => c.groups == [Test.group],
   met.running && (met.groupQueue? 1 0 0 0) == some (Test.group, 0) && met.collDone Test.group 0 0
     && (met.gqueue 0 0).entries.head?.any fun x => x.op.id == 1,
   ((both (e 9 0) (e 9 0)).gqueue 0 0).bound == some (1, 0, 0),
   g.slotFree 2 1 && !({ g with arrived := [0] } : Gather).slotFree 1 1, (gather.unitSource Test.group 1).any fun b => b.1 == 1,
   (gather.gqueue 0 0).gather == some g,
   ((both { e 9 0 with met := true } (e 9 0)).gqueue 0 0).entries.head?.any (fun x => x.started && x.met),
   (done.groupQueue? 1 0 0 0) == some (Test.group, 0) && done.collDone Test.group 0 0
     && (done.gqueue 0 0).entries.head?.any fun x => x.op.id == 1 && x.op.op == 8] : List Bool).all id = true := by decide +kernel

/-! ## Links, host port, management: states that meet the hypotheses of every clause -/

/-- UnitOperationsStayInTheirPartition, LinksAndScrub: a flit that passes or fails its check, the next of its direction and one
that no sender sends yet; an unpowered link; a window; a scrub with nothing to correct, and with an upset. -/
theorem test_meets_links : (
  let s := (List.range 8).foldl (fun s k => s.modSlab k fun b => { b with links := b.links.map fun l => { l with up := true } }) Test.up
  let p := s.modPart 1 fun q => { q with flatFrames := modAt q.flatFrames 7 fun _ => [0] }
  let worn := s.modLink 0 7 fun l => { l with fails := [[7], [7]] }
  let next : Flit := default
  [((Test.head Test.run (Test.op 2 1)).queue 0 2).head? == some (Test.op 2 1),
   (Test.pair Test.run (Test.op 1 4) (Test.op 2 0x20)).joined? 0 2 0x20 == some { Test.op 2 0x20 with coupled := true, fired := true },
   s.running && s.talus.armed.isEmpty && s.linkPowered 0 7 && (s.link 0 7).up && decide (7 < (s.slab 0).links.length)
     && !(s.link 0 7).exceeded 0 && !(s.link 0 7).exceeded 1,
   (s.link 0 7).mayCome 0 next && (s.link 0 7).mayCome 1 next && (s.link 0 7).failures 0 next == 0,
   (worn.link 0 7).mayCome 1 next && (worn.link 0 7).failures 1 next == 7,
   !(s.link 0 7).mayCome 0 { next with seq := 1 },
   !s.linkPowered 0 8, decide (s.hub.rest = .awake) && decide (7 < s.slabCount) && (s.slab 7).bad.isEmpty,
   placeInHbm (.flat 1 7 0) && p.placeHere 7 (.flat 1 7 0)] : List Bool).all id = true := by decide +kernel

/-- LinksAndScrub: a flit with its CRC passes its check, and one with a bit of the CRC inverted fails it (R258). -/
theorem test_meets_flit_checks (f : Flit) :
    flitGood { f with crc := crc64 (flitHead f) } = true ∧ flitGood { f with crc := crc64 (flitHead f) ^^^ 1#64 } = false := by
  have e : ∀ c, flitHead { f with crc := c } = flitHead f := fun _ => rfl
  refine ⟨(flitGood_iff _).2 rfl, Bool.eq_false_iff.2 fun h => ?_⟩
  have h := (flitGood_iff _).1 h
  rw [e] at h
  have : (crc64 (flitHead f) ^^^ 1#64) ^^^ crc64 (flitHead f) = 0 := by rw [show (crc64 (flitHead f) ^^^ 1#64) = crc64 (flitHead f) from h]; simp
  rw [BitVec.xor_comm (crc64 (flitHead f)), BitVec.xor_assoc] at this
  simp at this

/-- Test.up with device memory mapped from DPA 0 of partition 1 on. -/
def Test.mapped : State :=
  Test.up.setPort { Test.up.port with decoders := [{ base := 2 ^ 40, size := 2 ^ 40, committed := true, error := false }] }

/-- HostLinkAndDeviceMemory: training, a decoder, a stop, Rest, addresses backed and not, with a frame and without, a line held,
not held and dropped. -/
theorem test_meets_host_memory : (
  let s := Test.mapped
  let dpa := 2 ^ 40
  let inRest := s.setHub { s.hub with rest := .inRest }
  let full := s.modPart 1 fun q => { q with q := { q.q with frames := s.framesUsed 1 0 } }
  [Test.up.canTrain && Test.up.hub.stop.isNone, Test.up.configOpen && !(nth Test.up.port.decoders 15).committed,
   s.cxlMem && s.decodes dpa && s.backed dpa && (s.slab 0).bad.isEmpty && (s.needFlat 1 0 0).isSome && !s.port.dropped.contains (dpa / 64)
     && s.port.snoop.isEmpty,
   full.cxlMem && full.decodes dpa && full.backed dpa && (full.needFlat 1 0 0).isNone && !full.port.dropped.contains (dpa / 64),
   s.decodes (2 ^ 41 - 1) && !s.backed (2 ^ 41 - 1),
   (s.setPort { s.port with snoop := [dpa / 64] }).port.snoop.contains (dpa / 64),
   (s.setPort { s.port with dropped := [dpa / 64] }).port.dropped.contains (dpa / 64),
   decide (inRest.hub.rest = .inRest) && inRest.cxlMem && inRest.decodes dpa,
   (let t := s.stopModule .selftest 0xF 0xF 0xF 0; t.hub.stop.isSome && t.port.cacheMem && t.port.flit256 && t.decodes dpa)]
  : List Bool).all id = true := by decide +kernel

/-- HostLinkAndDeviceMemory: a filter that is full. -/
theorem test_meets_full_filter :
    let s := Test.mapped.setPort { Test.mapped.port with snoop := List.replicate 524288 0 }
    s.cxlMem = true ∧ s.decodes (2 ^ 40) = true ∧ s.backed (2 ^ 40) = true ∧ (s.slab 0).bad = [] ∧ s.hub.rest = .awake ∧
      s.port.snoop.contains (2 ^ 40 / 64) = false ∧ 524288 ≤ s.port.snoop.length := by
  have h : Test.mapped.cxlMem = true ∧ Test.mapped.decodes (2 ^ 40) = true ∧ Test.mapped.backed (2 ^ 40) = true
    ∧ (Test.mapped.slab 0).bad = [] ∧ Test.mapped.hub.rest = .awake := by decide +kernel
  have none' : ∀ n, (List.replicate n 0).contains (2 ^ 40 / 64) = false := fun n => by simp
  refine ⟨h.1, h.2.1, h.2.2.1, h.2.2.2.1, h.2.2.2.2, ?_, ?_⟩
  · exact none' 524288
  · exact (List.length_replicate ..).ge

/-- HostCoherenceAndErrors: an answer with no transfer waiting and with one, on a secure and an insecure stream; refusals of a
command, a transfer, a record and a ring; a stream secure, insecure, and on a stopped module. -/
theorem test_meets_coherence : (
  let s := Test.up.setPort { Test.up.port with snoop := [5], awaiting := [5], ideIo := 1, ideCm := 1 }
  let o := { Test.op 4 1 with ext := (0, 0) }
  let moves : Nat → Nat → State := fun src dst =>
    (Test.begun Test.run o).writeShare 1 0 0 0 (toLe 64 (src + dst * 2 ^ 64 + 512 * 2 ^ 128 + 2 ^ 160))
  let toFlat := moves 1024 (3 * 2 ^ 60)
  let lined := toFlat.setPort { toFlat.port with snoop := [2 ^ 34], awaiting := [2 ^ 34] }
  let ats : State → State := fun s => s.modFn 1 fun g => { g with ats := true }
  let toHost := ats (moves 1024 (5 * 2 ^ 60))
  let stopped := s.stopModule .selftest 0xF 0xF 0xF 0
  [s.running && s.port.awaiting.contains 5 && (s.waitingOn 5).isEmpty && s.talus.armed.isEmpty && s.port.ideCm != 2,
   lined.running && lined.port.awaiting.contains (2 ^ 34) && lined.waitingOn (2 ^ 34) == [(0, o)] && (lined.slab 0).transfer? == some o,
   !Test.up.port.awaiting.contains 5, (s.setPort { s.port with ideCm := 2 }).port.ideCm == 2,
   Test.up.port.up && Test.up.port.cxl && Test.up.port.ideIo != 2 && !Test.up.port.refused.contains 40,
   toHost.running && (toHost.slab 0).transfer? == some o && (toHost.fn 1).ats && toHost.willUseHost 0 o,
   ((ats Test.run).flight? 40).any fun f => ((ats Test.run).fn f.fn).ats && ((ats Test.run).fn f.fn).masters,
   ((Test.up.modFn 0 fun g => { g with ats := true }).fn (ringFn 16)).ats, !(Test.up.fn (ringFn 3)).ats,
   s.port.ideIo == 1 && s.port.ideCm == 1 && s.port.up && Test.up.port.ideIo != 1 && Test.up.port.ideCm != 1,
   !stopped.running && stopped.port.ideIo == 1 && stopped.port.ideCm == 1 && stopped.port.up && stopped.talus.armed.isEmpty]
  : List Bool).all id = true := by decide +kernel

/-- ManagementMessages and SpdmRequests: each state of a transport, and each bound of a staged image. -/
theorem test_meets_management : (
  let x : Transport → Spdm → State := fun t x => Test.up.putSpdm t x
  let neg : Spdm := { Spdm.reset with version := true, caps := true, algs := true }
  let at1 : (Transport → Bool) → Bool := fun p => p .doe && p .mctp
  let alarm := Test.up.emit [16, 1] (unitEvent Test.up .ideFail 0 0xF 0xC 0 0 0) 5 true
  [decide (Test.up.hub.power ≠ .off) && !Test.up.hub.pins.modRst, (Test.up.setHub { Test.up.hub with pins := { Test.up.hub.pins with modRst := true } }).hub.pins.modRst,
   alarm.talus.canAck [16] St.ideFail.code && !Test.up.talus.canAck [16] St.ideFail.code,
   decide (0 + 64 ≤ 4194304) && decide (1048512 + 64 ≤ 1048576) && !decide (1048513 + 64 ≤ 1048576),
   isStartPoint 0x0C01 && isStartPoint 0x0C07 && !isStartPoint 0x0C08,
   at1 fun t => Test.up.spdmUp t && !(Test.up.spdm t).version && !(Test.up.spdm t).caps && !(Test.up.spdm t).algs,
   at1 fun t => let s := x t neg
     s.spdmUp t && (s.spdm t).version && (s.spdm t).caps && (s.spdm t).algs && (s.spdm t).session == 0 && (s.measureBlock 5).isSome
       && (s.spdm t).session != 1 && (s.spdm t).session != 2,
   at1 fun t => let s := x t { neg with session := 1 }; s.spdmUp t && (s.spdm t).session == 1,
   at1 fun t => let s := x t { neg with session := 2, chunks := List.replicate 1 0 }
     s.spdmUp t && (s.spdm t).session == 2 && decide (0 < (s.spdm t).chunks.length)] : List Bool).all id = true := by decide +kernel

/-- LoadsAndCodecFramesEnd: a load; an encode whose commit record is good or not, its last frame and one before it; a decode with
all its frames done, without input, and one whose command is gone. That a picture is found in the input nothing can show:
nothing is known of what the core finds there (log 10). -/
theorem test_meets_loads_and_frames : (
  let s := Test.up.modPlace 1 6 0 0 fun y => { y with hot := false, loading := [40] }
  let enc : Nat → Flight := fun n => { flightOf 1 40 .codecEncode default with phase := .busy, args := toLe 4 3 ++ toLe 220 n }
  let dec : Flight := { flightOf 1 40 .codecDecode default with phase := .busy, waits := [3, 0, 0], args := List.replicate 16 0 ++ toLe 208 1 }
  let coding : Bool → List Byte → Nat → State := fun run rec n =>
    ((Test.coded 0).modSession 3 fun c => { c with running := run, committed := [([], rec)] }).setFlights [enc n]
  let ready : State → (CodecSession → Flight → Bool) → Bool := fun s p => s.running && (s.session? 3).any fun c =>
    (s.codecTurn c).any fun f => p c f
  let at0 : (CodecSession → CodecSession) → List Flight → (CodecSession → Option Flight → Bool) → Bool := fun g l p =>
    let d := ((Test.coded 1).modSession 3 fun c => g { c with running := true }).setFlights l
    d.running && d.talus.armed.isEmpty && (d.session? 3).any fun c => c.running && c.handle == 3 && c.kind != 0 && c.ready.isEmpty
      && p c (d.flights.find? fun g => decide (g.cmd = .codecDecode) && decide (g.phase = .busy) && g.waits.headD 0 == 3 && g.waits.length == 3)
  [s.running && (s.slab 0).bad.isEmpty && s.talus.armed.isEmpty && ((s.part 1).model? 6).any fun m => (m.place? 0 0).any fun y =>
     y.loading == [40] && s.firstLoad 0 40,
   ready (coding false (List.replicate 512 0) 1) fun c _ => !c.running && c.committed.all fun x => commitOk x.2,
   ready (coding false (List.replicate 512 0xFF) 1) fun c _ => c.committed.all fun x => !commitOk x.2,
   ready (coding true (List.replicate 512 0) 1) fun c f => c.running && c.done + 1 == f.arg 4 2,
   ready (coding true (List.replicate 512 0) 256) fun c f => c.running && c.done + 1 != f.arg 4 2,
   at0 (fun c => { c with done := 1 }) [dec] fun c f => f.isSome && decide (frMax c.param ≤ c.done),
   at0 id [dec] fun c f => f.any (fun f => f.arg 16 4 != 0) && decide (c.done < frMax c.param) && decide (c.input.length ≤ c.consumed),
   at0 (fun c => { c with input := [0] }) [dec] fun c f => f.isSome && decide (c.done < frMax c.param) && decide (c.consumed < c.input.length),
   at0 id [] fun _ f => f.isNone] : List Bool).all id = true := by decide +kernel

/-- WindowsAlarmsAndHubStops: windows with and without records merged, drops that are due and not, a lasting alarm and one that
is over, a part of six slabs. -/
theorem test_meets_windows_alarms : (
  let ev := unitEvent Test.up .ideFail 0 0xF 0xC 0 0 0
  let w : Window := { opener := ev, merged := 0, first := none }
  let cls : Nat → ClassState := fun n => { code := .ideFail, form := 0, budget := 0, drops := 1, reasons := 0, windows := [{ w with merged := n }] }
  let ring : Nat → State := fun n => Test.up.modRing 16 fun r => { r with classes := [cls n] }
  let found : Nat → Bool := fun n => ((((ring n).ring 16).classes.flatMap fun x => x.windows.map fun w => (x, w))[0]?).any fun x => x.2.merged == n
  let alarm := Test.up.emit [16] ev (ideKey 0) true
  let lasting := (alarm.setPort { alarm.port with ideIo := 2 })
  let due := Test.up.modRing 0 fun r => { r with isSet := true, log2n := 6, classes := [{ cls 0 with budget := million }] }
  let small := Test.up.setHub { Test.up.hub with fuse := { Test.up.hub.fuse with part := .b618 } }
  [Test.up.running && found 0, found 1, ((ring 0).ring 16).classes[0]? == some (cls 0),
   (alarm.talus.alarms[0]?).any fun a => !a.stop && !a.ended && !alarm.conditionHolds a,
   (lasting.talus.alarms[0]?).any lasting.conditionHolds,
   (let y := (due.ring 0).classOf .ideFail 0
    decide (0 < y.drops) && due.ringOpen 0 && !(due.ring 0).blocked && (due.ring 0).room false && decide (million ≤ y.budget)),
   small.running && small.talus.armed.isEmpty && decide (small.slabCount ≤ 6) && decide (5 < small.slabCount)] : List Bool).all id = true := by decide +kernel

/-- ResetsOfTheHostSide and ModuleResetAndStartUp: each phase and each step of start-up. -/
theorem test_meets_resets : (
  let at0 : Power → Nat → State := fun p n =>
    let s := State.reset.setPower { State.reset.power with vin := 40000 }
    s.setHub { s.hub with power := p, startup := { s.hub.startup with step := n } }
  let still := Test.up.setPort { Test.up.port with vfEnable := false }
  let dark := (at0 .held 0).setHub { (at0 .held 0).hub with pins := { (at0 .held 0).hub.pins with pwrGood := false } }
  let f := { flightOf 15 40 .fetch default with phase := .bme }
  let waiting := Test.up.setFlights [f]
  [decide (Test.up.hub.rest = .awake) && Test.up.configOpen && Test.up.fnExists 15 && Test.up.flights.isEmpty && Test.up.port.vfEnable,
   !still.port.vfEnable && still.configOpen, (Test.up.part 15).session.isNone && decide (15 < Test.up.talus.rings.length),
   decide ((at0 .held 0).hub.power = .held) && (at0 .held 0).hub.pins.pwrGood && decide (40000 ≤ (at0 .held 0).power.vin),
   !dark.hub.pins.pwrGood && decide (dark.hub.power = .held),
   waiting.running && (waiting.flights.filter fun g => g.fn == 15 && decide (g.phase = .bme)) == [f] && (waiting.flight? 40) == some f
     && !(waiting.fn 15).d3hot,
   (at0 .starting 4).linkFails { (default : StepReport) with lanes := List.replicate 71 0 ++ [3] } == some (7 * 16 + 7),
   (at0 .starting 4).linkFails { (default : StepReport) with lanes := List.replicate 71 2 } == none,
   decide ((at0 .off 0).hub.power = .off),
   (List.range 6).all fun n => decide ((at0 .starting n).hub.power = .starting) && (at0 .starting n).hub.stop.isNone
     && (at0 .starting n).talus.startup.isEmpty && (at0 .starting n).hub.startup.step == n] : List Bool).all id = true := by decide +kernel

/-- StepRunsTheFrontCommand, EveryStepKeepsTheInvariant, NoCommandReusesEntropy, NumbersNeverGoBack, RegisterReads. -/
theorem test_meets_whole_machine : (
  let s := { Test.up with pending := [.getState] }
  let inv : State → Bool := fun s => s.fns.length == 16 && s.parts.length == 16 && s.slabs.length == 8 && s.talus.rings.length == 17
    && s.codec.cores.length == 8 && s.power.domains.length == 32 && Memory.wf s.host
  [inv Test.up && inv s, s.pending == [.getState], State.reset.pending.isEmpty, Test.up.configOpen && Test.up.fnExists 15 && Test.up.hub.stop.isNone,
   (match step s with | .next t => decide (t.hub.power = .up) && t.pending.isEmpty | _ => false),
   (match exec .getState Test.up with | .next t => decide (t.hub.power = .up) | _ => false)] : List Bool).all id = true := by decide +kernel

/-! ## Well-formed commands: one ill-formed term for each check -/

theorem test_ill_formed_refused : (
  [.statusGet 16 0, .statusGet 0 256, .orderedStart 16 0, .registerWrite 16 0 [0], .registerWrite 0 0 [],
   .registerWrite 0 0 (List.replicate 65 0), .mm 8, .vLd 8 false, .opEnd 0 8 0, .opEnd 8 0 0, .nop 0 8, .hsTimeout 8 0 0, .hsTimeout 0 16 0,
   .hsTimeout 0 0 0x104, .collectiveMeet 16 0 0, .collectiveMeet 0 256 0, .collectiveMeet 0 0 16, .gatherUnitArrive 0 16 0,
   .collWatchdogExpire 8 0, .quarryLoadEnd 0 0 64 0, .quarryLoadEnd 16 0 0 0, .quarryLoadEnd 0 0 0 8, .ctxSwitchOutEnd 0 256,
   .ctxTeardownEnd 16 0, .flitReceive 0 8 true { (default : Flit) with payload := List.replicate 240 0 }, .flitReceive 0 0 true default,
   .flitReceive 0 0 true { (default : Flit) with seq := 4096, payload := List.replicate 240 0 }, .replayWindowEnd 8 0, .scrubPass 8 true [],
   .scrubPass 0 true [{ place := .flat 16 0 0, symbols := 1 }], .scrubPass 0 true [{ place := .steward 0, symbols := 0 }],
   .scrubPass 0 true [{ place := .share 0 256 0 0, symbols := 1 }], .scrubPass 0 true [{ place := .acc 0 0 0 8 0, symbols := 1 }],
   .scrubPass 0 true [{ place := .freeSpad 8 0, symbols := 1 }], .scrubPass 0 true [{ place := .hot 16 0 0 0 0, symbols := 1 }],
   .scrubPass 0 true [{ place := .page 16 0 0, symbols := 1 }], .scrubPass 0 true [{ place := .cold 0 0 0 8 0, symbols := 1 }],
   .scrubPass 0 true [{ place := .cairn 0 256 0 0, symbols := 1 }], .scrubPass 0 true [{ place := .held 16 0 0 0, symbols := 1 }],
   .scrubPass 0 true [{ place := .codec 0 0 8 0, symbols := 1 }],
   .coalesceWindowEnd 17 0, .stackTempReading 24 0, .stackTempReading 0 256, .junctionTempReading 9 0, .junctionTempReading 0 256,
   .drawLimitReached 65536 0, .drawLimitReached 0 256, .calLoadSample 32 0, .calLoadSample 0 65536, .recalStart 32, .recalEnd 32 true,
   .powerOn 65536 0, .powerOn 0 8, .vinExcursion 65536, .startupStepEnd { (default : StepReport) with loads := [65536] },
   .hostLinkTrained 5 0 false false, .hostLinkTrained 0 6 false false, .hdmDecoderCommit 16 0 0, .hdmRead (2 ^ 44), .hdmWrite (2 ^ 44) [0],
   .hdmWrite 0 [], .hdmWrite 63 [0, 0], .bisnpResponse (2 ^ 38) none, .bisnpResponse 0 (some []), .biTimeout (2 ^ 38),
   .atsTranslationRefused (.transfer 8), .atsTranslationRefused (.ring 17), .mgmtAlarmAck 65536, .injectArm 65536 0, .imageStage 2 0 [],
   .imageStage 0 0 (List.replicate 65 0), .imageSeal 2 0, .challenge .doe 0 [], .getMeasurements .doe 0 [], .vfEnableSet 16]
   |>.map fun (i : Instr) => !i.wf : List Bool).all id = true := by decide

theorem test_well_formed_accepted : (
  [.statusGet 15 255, .registerWrite 15 0 [0], .opEnd 7 7 0, .hsTimeout 15 15 0x103, .hdmRead (2 ^ 44 - 1), .hdmWrite 63 [0],
   .stackTempReading 23 255, .recalEnd 31 true, .vfEnableSet 15, .getState] |>.map fun (i : Instr) => i.wf : List Bool).all id = true := by decide

theorem test_no_word_spells_a_command : decodeTableWord 32 1 = none := by decide

/-! ## Results that the spec states outright, worked by hand -/

/-- R368 to R370: the values at reset; R35: the first sequence number. -/
theorem test_reset_values : ([(State.reset.fn 0).log2n == 8, !(State.reset.fn 0).en, State.reset.hub.seq == 1] : List Bool).all id = true := by
  decide +kernel

/-- R96: K, N and the largest M of the four shapes. -/
theorem test_shapes : [0, 1, 2, 3].map (fun h => (shapeK h, shapeN h)) = [(512, 512), (256, 1024), (1024, 256), (128, 2048)] := by decide

/-- R389: the 41 commands have distinct opcodes. -/
theorem test_opcodes_distinct : Cmd.all.length = 41 ∧ (Cmd.all.map Cmd.code).Nodup := by decide +kernel

/-- 1 + 1 = 2, and 1 - 1 = +0, in FP32. -/
theorem test_fp32_sums : fAdd 0x3F800000 0x3F800000 = (0x40000000, 0) ∧ (fSub 0x3F800000 0x3F800000).1 = 0 := by decide +kernel

/-- R178: +0 is above -0; NUM passes over a NaN. -/
theorem test_maximum : fMax false 0 0x80000000 = 0 ∧ fMax true 0x7FC00000 0x3F800000 = 0x3F800000 := by decide +kernel

/-- R177: V_ABS of -0 is +0; V_NEG changes the sign; BF16 0x3F80 widens to 1. -/
theorem test_sign_operations : fAbs 0x80000000 = 0 ∧ fNeg 0x3F800000 = 0xBF800000 ∧ widen bf16 0x3F80 = 0x3F800000 := by decide +kernel

/-- R111: two_sum keeps what rounding loses: 1 + 2^-24 rounds to 1 with the remainder 2^-24. -/
theorem test_spill_keeps_remainder :
    let p := spillOne 0x3F800000 0 0x33800000
    (p.hi, p.lo) = (0x3F800000, 0x33800000) := by decide +kernel

/-- R373: HEAD moves within what is there and wraps at 2^17. -/
theorem test_head_moves : headAfter 131071 1 1 = 1 ∧ headAfter 131071 1 2 = 131071 ∧ headAfter 0 0 1 = 0 := by decide

/-- R71: two WAIT fields on one token need a count of 2. -/
theorem test_two_waits : Test.live.hasTokens [5, 5] = false ∧
    ({ Test.live with tokens := modAt Test.live.tokens 5 fun _ => 2 } : Live).hasTokens [5, 5] = true := by decide

/-- R293, R498, R496: the readings at which limits begin. -/
theorem test_limits_begin :
    (match exec (.stackTempReading 0 85) Test.up with | .next t => (nth (t.slab 0).hbm 0).level | _ => 9) = 1 ∧
    (match exec (.junctionTempReading 0 100) Test.up with | .next t => nth t.power.limitTherm 0 | _ => false) = true ∧
    (match exec (.drawLimitReached 3200 1) Test.up with | .next t => t.power.episode | _ => false) = true := by decide +kernel

/-- R258: a flit that fails is sent again with those after it, and each is delivered once, in order. -/
theorem test_resend_in_order :
    let l := [(0, false), (1, true), (0, true), (1, true)].foldl
      (fun l (x : Nat × Bool) => HLink.flit l 0 { (default : Flit) with seq := x.1 } x.2) (State.reset.link 0 1)
    (nth l.next 0, nth l.fails 0, l.replays) = (2, [], 2) := by decide +kernel

/-- R259, R488: a flit that injection 0x0303 fails at every send stops the module. -/
theorem test_link_down :
    let s := (List.range 8).foldl (fun s k => s.modSlab k fun b => { b with links := b.links.map fun l => { l with up := true } }) Test.up
    let a : Armed := { fn := 0, point := 0x0303, scope := 3, ctx := 0x10, param := 1, left := none }
    (match exec (.flitReceive 0 1 true default) (s.setTalus { s.talus with armed := [a] }) with
      | .next t => t.hub.stop.map Stop.code | _ => none) = some .linkDown := by decide +kernel

/-- R73: a sixteenth increment faults the context. -/
theorem test_token_over :
    let s := Test.begun (Test.run.modLive 0 40 fun l => { l with tokens := modAt l.tokens 0 fun _ => 15 }) (Test.op 2 (1 + 2 ^ 28))
    (match exec (.opEnd 0 2 0) s with | .next t => (t.ctx? 1 0).map Ctx.st | _ => none) = some .faulted := by decide +kernel

/-- R376: SEQ 100 is taken and the slot accepted; R389: RESULT_DROP releases the result. -/
theorem test_result_drop :
    (match exec (.resultDrop 1 0) (Test.put Test.up 1 .resultDrop [(0, 8, 9)]) with
      | .next t => (t.hub.seq, ((t.fn 1).slot 0).seq, (t.part 1).held.length) | _ => (0, 0, 9)) = (101, 100, 0) := by decide +kernel

/-- R502: a host access in Rest wakes the module. -/
theorem test_rest_wakes :
    (match exec (.wakePin 1000) (Test.up.setHub { Test.up.hub with rest := .inRest }) with | .next t => t.hub.rest | _ => .awake) = .waking := by
  decide +kernel

/-! ## The spec's worked examples -/

/-- R6: what a driver reads on a B824 and on a B618. -/
theorem test_hub_ident : Test.up.hubIdent = 0x1188B124 ∧
    (Test.up.setHub { Test.up.hub with fuse := { Test.up.hub.fuse with part := .b618 } }).hubIdent = 0x1126B118 := by decide +kernel

/-- R100: 3.0e38 and 1.0e38 saturate, and -2.0e38 then gives 1.4028235e38; an infinity does not saturate. -/
theorem test_saturation :
    slotUpdate false 0x7F61B1E6 (valOf 0x7E967699) = (0x7F7FFFFF, flSat) ∧
    slotUpdate false 0x7F7FFFFF (valOf 0xFF167699) = (0x7ED312CC, 0) ∧
    slotUpdate false 0x7F61B1E6 (valOf 0x7F800000) = (0x7F800000, 0) := by decide +kernel

/-- R123: a block of 1,000.0, 3.0 and 0.001 to block-scaled E4M3: scale byte 0x81, codes 0x78, 0x34 and 0x00. -/
theorem test_block_scale :
    (cvtRow 0 5 ([0x447A0000, 0x40400000, 0x3A83126F] ++ List.replicate 29 0)).take 3
      = [(0x8178, 0), (0x8134, 0), (0x8100, 0)] := by decide +kernel

/-- R124 to R126: 448.0, 464.0, 464.03125 and -0.0013 to E4M3 and to E5M2. -/
theorem test_fp8_conversion :
    let row := [0x43E00000, 0x43E80000, 0x43E80400, 0xBAAA64C3]
    (cvtRow 0 3 row).map (fun r => (r.1, r.2 % 16)) = [(0x7E, 0), (0x7E, 0), (0x7F, flOvf), (0x81, 0)] ∧
    cvtRow 0 4 row = [(0x5F, 0), (0x5F, 0), (0x5F, 0), (0x95, 0)] := by decide +kernel

/-- R133 and R134: INT4 weights 7, -8 and -1 with s 0x3D20 and z -1, to E4M3. -/
theorem test_int4_expansion :
    let x : Expand := { ifmt := 1, mode := 0, gtab := 0, lut := 0, rsvd := false }
    let entry := 0x3D20 + 0xFF * 2 ^ 16
    [7, 8, 15].map (fun q => (e4m3.round (x.value entry q).1).1) = [0x2A, 0xA9, 0x00] := by decide +kernel

/-- R136 and R137: 1.2 dithered to BF16 with c = 16 by the words 0x7000 and 0x5000. -/
theorem test_dither :
    (ditherRow 1 16 [0x3F99999A, 0x3F99999A] [0x7000, 0x5000]).map Prod.fst = [0x3F9A0000, 0x3F990000] := by decide +kernel

/-- R181: the records (4, 2, 8) and (4, 6, 2) merge to (8, 4, 42). -/
theorem test_welford_merge :
    merge { cnt := 0x40800000, mean := 0x40000000, m2 := 0x41000000 } { cnt := 0x40800000, mean := 0x40C00000, m2 := 0x40000000 }
      = ({ cnt := 0x41000000, mean := 0x40800000, m2 := 0x42280000 }, 0) := by decide +kernel

/-- R189 and R191: VB_RCP of 2^-130 in both modes, and VB_LOG of -1. -/
theorem test_special_cases :
    special .rcp true 0x00080000 = (0x7F800000, 0) ∧ special .rcp false 0x00080000 = (0x7F800000, flOvf) ∧
    special .log true 0xBF800000 = (nan32, flNan) := by decide +kernel

/-- R121: the bytes of a block-scaled 512 by 512 tile, and of 1,024 streamed rows with K = 512. -/
theorem test_operand_bytes : weightBytes 2 512 512 = 270336 ∧ streamBytes 2 1024 512 = 540672 := by decide +kernel

/-- R331: the shapes of the example of chapter 12. -/
theorem test_classification :
    let g := { Test.prog with ndim := 2, buckets := [[8, 1024], [16, 1024], [16, 4096], [32, 4096]] }
    let k : List Nat → Nat := fun x => match g.classify x with | .bucket b => b | .over => 8 | .zero => 9
    [[12, 1024], [20, 1024], [40, 1024], [0, 4096], [0, 99999]].map k = [1, 3, 8, 9, 9] := by decide +kernel

/-- R351: DPA 0x345_0000_0040 is partition 3, slab 2, address 0x5_0000_0040. -/
theorem test_dpa : (dpaPart 0x34500000040, dpaSlab 0x34500000040, dpaAddr 0x34500000040) = (3, 2, 0x500000040) := by decide

/-- R412: the image of an 8-slot context with 256 MiB on two slabs. -/
theorem test_cairn_length : cairnLen 2 8 (256 * 2 ^ 20) = 570437696 := by decide

/-- R505 and R506: 430 A against a capture load of 64 A falls back, and recalibration to 412 A trusts again. -/
theorem test_calibration :
    let s := Test.up.modDomain 2 fun x => { x with capture := 64 }
    (match exec (.calLoadSample 2 430) s with | .next t => (nth t.power.domains 2).fallback | _ => false) = true ∧
    (match exec (.recalEnd 2 true) (s.modDomain 2 fun x => { x with load := 430, fallback := true, recal := some 412 }) with
      | .next t => ((nth t.power.domains 2).capture, (nth t.power.domains 2).fallback) | _ => (0, true)) = (412, false) := by
  decide +kernel

/-- R535: a low pulse of PWR_GOOD_IN of 15,000 ns is ignored, one of 25,000 ns stops the module. -/
theorem test_power_good :
    (match exec (.pwrGoodInDeassert 15000) Test.up with | .next t => t.hub.stop.isNone | _ => false) = true ∧
    (match exec (.pwrGoodInDeassert 25000) Test.up with | .next t => t.hub.stop.map Stop.code | _ => none) = some .pwrGood := by
  decide +kernel

end Sys2Proof.Machine
end

section
/-! SUPPORT. Proofs/Overview.lean: what the rows of Talus, of the entropy source and of the handshakes do in a module that
works, that a ready command performs at its seal, and that no row but the service-mode switch and the steps of start-up takes a
number back while the module stays up (R35, R36, R191, R375, R388, R451, R477, R478, R481). -/

namespace Sys2Proof.Machine

/-! ### Seals -/

/-- Settles O1: the row is the seal of the slot, and the seal of a ready command performs it. -/
theorem readyCommandPerformsAtItsSeal : Obligations.ReadyCommandPerformsAtItsSeal := by
  unfold Obligations.ReadyCommandPerformsAtItsSeal
  intro c fn k s ready
  rw [exec_row, sealRow_ready s c fn k ready]

/-! ### Windows, drop records and alarms -/

/-- The module works: it is up and not stopped (R483, R523). -/
theorem State.running_iff (s : State) : s.running = true ↔ s.hub.power = .up ∧ s.hub.stop = none := by
  simp [State.running]

/-- The window that a number of COALESCE_WINDOW_END names, with its class (R477). -/
def Ring.window? (g : Ring) (i : Nat) : Option (ClassState × Window) :=
  (g.classes.flatMap fun x => x.windows.map fun w => (x, w))[i]?

/-- A window that merged nothing closes (R477). -/
theorem coalesceWindowEnd_unmerged {s : State} {r i : Nat} {x : ClassState} {w : Window} (run : s.running = true)
    (found : (s.ring r).window? i = some (x, w)) (merged : w.merged = 0) :
    coalesceWindowEnd r i s = s.modRing r fun g => g.setClass { x with windows := x.windows.erase w } := by
  rw [Ring.window?] at found
  simp [coalesceWindowEnd, run, found, merged]

/-- A window that merged events writes their record and opens again (R477). -/
theorem coalesceWindowEnd_merged {s : State} {r i : Nat} {x : ClassState} {w : Window} (run : s.running = true)
    (found : (s.ring r).window? i = some (x, w)) (merged : w.merged ≠ 0) :
    coalesceWindowEnd r i s =
      (s.modRing r fun g => g.setClass { x with windows := modWhere x.windows (fun y => decide (y = w)) fun y =>
        { y with merged := 0, first := none } }).deliver [r] { w.first.getD w.opener with count := w.merged } := by
  rw [Ring.window?] at found
  simp [coalesceWindowEnd, run, found, merged]

/-- The conditions of R478 for the drop record of a class of a ring hold together. -/
def State.dropDue (s : State) (r : Nat) (c : St) (form : Nat) : Prop :=
  0 < ((s.ring r).classOf c form).drops ∧ s.ringOpen r = true ∧ (s.ring r).blocked = false ∧ (s.ring r).room false = true ∧
    ((classInfo c form).exempt = true ∨ million ≤ ((s.ring r).classOf c form).budget)

/-- A drop record that is due is written under the next number, and clears the count (R478). -/
theorem State.flushDrop_due {s : State} {r : Nat} {c : St} {form : Nat} (due : s.dropDue r c form) :
    s.flushDrop r c form =
      let y := (s.ring r).classOf c form
      (s.takeSeq.2.putRecord r { unitEvent s .evtDropped (if r = 16 then 0 else r) 0xF 0xB
        (c.code + form <<< 16 + (y.reasons % 8) <<< 17) y.drops 0 with alarm := false } s.takeSeq.1).modRing r fun g =>
          g.setClass { y with drops := 0, reasons := 0 } := by
  obtain ⟨drops, isOpen, free, room, budget⟩ := due
  simp [State.flushDrop, drops, isOpen, free, room, budget]

/-- A drop record that is not due leaves the module as it was (R478). -/
theorem State.flushDrop_not_due {s : State} {r : Nat} {c : St} {form : Nat} (due : ¬ s.dropDue r c form) :
    s.flushDrop r c form = s := by
  unfold State.flushDrop
  dsimp only
  rw [if_neg]
  simpa [State.dropDue, and_assoc] using due

/-- EVT_DROPPED_RECORD is the drop record of the class that it names (R478). -/
theorem evtDroppedRecord_flushDrop {s : State} {r c : Nat} {x : ClassState} (run : s.running = true)
    (found : (s.ring r).classes[c]? = some x) : evtDroppedRecord r c s = s.flushDrop r x.code x.form := by
  simp [evtDroppedRecord, run, found]

/-- A lasting condition that holds has no end to report (R481). -/
theorem alarmConditionEnd_holds {s : State} {i : Nat} {a : Alarm} (found : s.talus.alarms[i]? = some a)
    (holds : s.conditionHolds a = true) : alarmConditionEnd i s = s := by
  simp [alarmConditionEnd, found, holds]

/-- The event that reports the end of an alarm's condition, with the time of the end (R481). -/
def State.clearEvent (s : State) (a : Alarm) : Event :=
  { a.ev with clear := true, time := s.timer a.ev.src a.ev.unit }

/-- A lasting condition that has ended: its alarms end, and the views that held it get the CLEAR record (R481). -/
theorem alarmConditionEnd_gone {s : State} {i : Nat} {a : Alarm} (run : s.running = true)
    (found : s.talus.alarms[i]? = some a) (stop : a.stop = false) (ended : a.ended = false)
    (gone : s.conditionHolds a = false) :
    alarmConditionEnd i s = (s.setTalus { s.talus with
        alarms := (modWhere s.talus.alarms (fun b => decide (b.code = a.code) && b.key == a.key) fun b =>
          { b with ended := true }).filter fun b => !(b.acked && b.ended) }).deliver
        ((s.talus.alarms.filter fun b => (decide (b.code = a.code) && b.key == a.key) && !b.ended).map fun b => b.view)
        (s.clearEvent a) := by
  simp [alarmConditionEnd, run, found, stop, ended, gone, State.clearEvent, unitEvent]

/-! ### The two stops of the hub -/

/-- A failure of the entropy source stops a module that works (R451). -/
theorem entropyHealthFail_stops {s : State} (run : s.running = true) (armed : s.talus.armed = []) :
    entropyHealthFail s =
      (s.setGeode { s.geode with entOk := false }).stopModule .selftest 0xF 0xE 0xE 0xFFFFFFFF := by
  obtain ⟨up, stop⟩ := s.running_iff.mp run
  simp [entropyHealthFail, State.opportunity_unarmed armed, up, stop]

/-- A module that works is past step 0 of start-up. -/
theorem State.pastStep0_of_running {s : State} (run : s.running = true) : s.pastStep0 = true := by
  obtain ⟨up, _⟩ := s.running_iff.mp run
  simp [State.pastStep0, up]

/-- A handshake of the hub or of a slab of the part that is not acknowledged stops a module that works (R36). -/
theorem hsTimeout_stops {s : State} {src : Nat} (run : s.running = true) (armed : s.talus.armed = [])
    (there : 8 ≤ src ∨ src < s.slabCount) (initiator d1 : Nat) :
    hsTimeout src initiator d1 s = s.stopModule .hsTimeout src 0xB initiator d1 := by
  obtain ⟨_, stop⟩ := s.running_iff.mp run
  have absent : ¬ (src < 8 ∧ s.slabCount ≤ src) := by omega
  simp [hsTimeout, State.pastStep0_of_running run, State.opportunity_unarmed armed, stop, absent]

/-- A slab that the part does not have has no handshakes (R1, R36). -/
theorem hsTimeout_absent {s : State} {src : Nat} (low : src < 8) (absent : s.slabCount ≤ src) (initiator d1 : Nat) :
    hsTimeout src initiator d1 s = s := by
  simp [hsTimeout, low, absent]

/-- Settles O50, clause by clause from what each of the five rows does. -/
theorem windowsAlarmsAndHubStops : Obligations.WindowsAlarmsAndHubStops := by
  unfold Obligations.WindowsAlarmsAndHubStops
  intro s run
  refine ⟨fun r i x w found => ⟨fun merged => ?_, fun merged => ?_⟩,
    fun r c x found => ⟨fun due => ?_, fun due => ?_⟩,
    fun i a found stop ended => ⟨fun gone => ?_, fun holds => ?_⟩,
    fun armed => ⟨?_, fun src u d1 there => ?_, fun src u d1 low absent => ?_⟩⟩
  · exact congrArg Host.Outcome.next (coalesceWindowEnd_unmerged run found merged)
  · exact congrArg Host.Outcome.next (coalesceWindowEnd_merged run found merged)
  · exact congrArg Host.Outcome.next ((evtDroppedRecord_flushDrop run found).trans (State.flushDrop_due due))
  · exact congrArg Host.Outcome.next ((evtDroppedRecord_flushDrop run found).trans (State.flushDrop_not_due due))
  · exact ⟨s.clearEvent a, rfl, rfl, rfl, congrArg Host.Outcome.next (alarmConditionEnd_gone run found stop ended gone)⟩
  · exact congrArg Host.Outcome.next (alarmConditionEnd_holds found holds)
  · exact congrArg Host.Outcome.next (entropyHealthFail_stops run armed)
  · exact congrArg Host.Outcome.next (hsTimeout_stops run armed there u d1)
  · exact congrArg Host.Outcome.next (hsTimeout_absent low absent u d1)

/-! ### Numbers -/

/-- What holds of the way to the state that a row answers with holds of the way to its next state. -/
theorem Alive.ofNext {s t u : State} (h : Alive s u) (e : Host.Outcome.next (φ := Fault) (ρ := Refusal) u = .next t) :
    Alive s t := by
  cases e; exact h

/-- ... calmly in particular. -/
theorem Calm.ofNext {s t u : State} (h : Calm s u) (e : Host.Outcome.next (φ := Fault) (ρ := Refusal) u = .next t) :
    Alive s t := h.alive.ofNext e

/-- The row of a unit operation is calm if the operation's work is. -/
theorem fireRow_calm_of_act {s : State} {u op slab : Nat} {act : State → Nat → OpE → State}
    (h : ∀ {r t : State}, Calm r t → ∀ i o, Calm r (act t i o)) : Calm s (fireRow u op act slab s) :=
  fireRow_calm (.refl s) u op act slab fun _ i o k => h k i o

/-- ... and so is the row of the consumer of a pair. -/
theorem partnerRow_calm_of_act {s : State} {u op slab : Nat} {act : State → Nat → OpE → State}
    (h : ∀ {r t : State}, Calm r t → ∀ i o, Calm r (act t i o)) : Calm s (partnerRow u op act slab s) :=
  partnerRow_calm (.refl s) u op act slab fun _ i o k => h k i o

/-- Every row but the service-mode switch and the steps of start-up is calm if the module is up at its end: one case a
row, by what Laws/ says of its meaning. -/
theorem exec_alive {c : Instr} {s t : State} (hm : c ≠ .serviceModeSwitch) (hu : ∀ r, c ≠ .startupStepEnd r)
    (e : exec c s = .next t) : Alive s t := by
  cases c with
  | statusGet | serviceEnter | restEnter | partCreate | partDestroy | partSet | ctxCreate | ctxDestroy
  | ctxSave | ctxRestore | modelLoad | modelDrop | modelPin | modelUnpin | quarryStat | regionCreate
  | regionDestroy | regionMap | regionUnmap | progLoad | runPassage | fetch | resultDrop | groupCreate
  | groupDestroy | copy | fill | codecOpen | codecClose | codecEncode | codecDecode | attest | sessionOpen
  | sessionClose | signerAdd | signerRemove | debugUnlock | ringSet | alarmAck | inject | injectClear =>
    exact (sealRow_alive (.refl s) ..).ofNext e
  | serviceModeSwitch => exact absurd rfl hm
  | restEntryEnd => exact (restEntryEnd_calm (.refl s)).ofNext e
  | restWakeEnd => exact (wakeEnd_alive (.refl s)).ofNext e
  | sealUnknownOpcode => exact (sealUnknown_alive (.refl s) ..).ofNext e
  | orderedStart => exact (orderedStart_alive (.refl s) ..).ofNext e
  | commandCompletion => exact (commandCompletion_calm (.refl s) ..).ofNext e
  | mbxCqCfgWrite => exact (mbxCqCfgWrite_calm (.refl s) ..).ofNext e
  | mbxCqHeadWrite => exact (mbxCqHeadWrite_calm (.refl s) ..).ofNext e
  | talHeadWrite => exact (talHeadWrite_calm (.refl s) ..).ofNext e
  | pwrWakeWrite => exact (pwrWakeWrite_calm (.refl s) ..).ofNext e
  | geoSvnCommitWrite => exact (geoSvnCommitWrite_calm (.refl s) ..).ofNext e
  | registerWrite => exact (registerWrite_alive (.refl s) ..).ofNext e
  | passageEnqueue => exact (passageEnqueue_calm (.refl s) ..).ofNext e
  | passageSelect => exact (passageSelect_calm (.refl s) ..).ofNext e
  | lineIssue => exact (lineIssue_calm (.refl s) ..).ofNext e
  | opEnd => exact (opEnd_calm (.refl s) ..).ofNext e
  | passageEnd => exact (passageEnd_calm (.refl s) ..).ofNext e
  | passageStall => exact (passageStall_calm (.refl s) ..).ofNext e
  | hsTimeout => exact (hsTimeout_calm (.refl s) ..).ofNext e
  | nop => exact (nop_calm (.refl s) ..).ofNext e
  | mm => exact (fireRow_calm_of_act mmAct_calm).ofNext e
  | mmList => exact (fireRow_calm_of_act mmListAct_calm).ofNext e
  | mmListEntryRead => exact (mmListEntryRead_calm (.refl s) ..).ofNext e
  | mmChain => exact (partnerRow_calm_of_act mmChainAct_calm).ofNext e
  | mmArrive => exact (fireRow_calm_of_act mmArriveAct_calm).ofNext e
  | accClear => exact (fireRow_calm_of_act accClearAct_calm).ofNext e
  | accSpill => exact (fireRow_calm_of_act accSpillAct_calm).ofNext e
  | accResume => exact (fireRow_calm_of_act accResumeAct_calm).ofNext e
  | accDrain | accGate => exact (firePair_calm (.refl s) ..).ofNext e
  | accSatclr => exact (fireRow_calm_of_act accSatclrAct_calm).ofNext e
  | vAdd => exact (fireRow_calm_of_act vAddAct_calm).ofNext e
  | vSub => exact (fireRow_calm_of_act vSubAct_calm).ofNext e
  | vMul => exact (fireRow_calm_of_act vMulAct_calm).ofNext e
  | vFma => exact (fireRow_calm_of_act vFmaAct_calm).ofNext e
  | vMax => exact (fireRow_calm_of_act vMaxAct_calm).ofNext e
  | vMin => exact (fireRow_calm_of_act vMinAct_calm).ofNext e
  | vAbs => exact (fireRow_calm_of_act vAbsAct_calm).ofNext e
  | vNeg => exact (fireRow_calm_of_act vNegAct_calm).ofNext e
  | vScale => exact (fireRow_calm_of_act vScaleAct_calm).ofNext e
  | vAddi => exact (fireRow_calm_of_act vAddiAct_calm).ofNext e
  | vCvt => exact (fireRow_calm_of_act vCvtAct_calm).ofNext e
  | vDither => exact (fireRow_calm_of_act vDitherAct_calm).ofNext e
  | vGadd => exact (fireRow_calm_of_act vGaddAct_calm).ofNext e
  | vRsum => exact (fireRow_calm_of_act vRsumAct_calm).ofNext e
  | vRmax => exact (fireRow_calm_of_act vRmaxAct_calm).ofNext e
  | vRwel => exact (fireRow_calm_of_act vRwelAct_calm).ofNext e
  | vArgmax => exact (fireRow_calm_of_act vArgmaxAct_calm).ofNext e
  | vEpi => exact (partnerRow_calm_of_act vEpiAct_calm).ofNext e
  | vOsm => exact (partnerRow_calm_of_act vOsmAct_calm).ofNext e
  | vDwconv => exact (fireRow_calm_of_act vDwconvAct_calm).ofNext e
  | vGconv => exact (fireRow_calm_of_act vGconvAct_calm).ofNext e
  | vLd => exact (fireRow_calm_of_act vLdAct_calm).ofNext e
  | vSt => exact (fireRow_calm_of_act vStAct_calm).ofNext e
  | vbExp => exact (fireRow_calm_of_act vbExpAct_calm).ofNext e
  | vbLog => exact (fireRow_calm_of_act vbLogAct_calm).ofNext e
  | vbRsqrt => exact (fireRow_calm_of_act vbRsqrtAct_calm).ofNext e
  | vbRcp => exact (fireRow_calm_of_act vbRcpAct_calm).ofNext e
  | vbSigmoid => exact (fireRow_calm_of_act vbSigmoidAct_calm).ofNext e
  | vbTanh => exact (fireRow_calm_of_act vbTanhAct_calm).ofNext e
  | vbGelu => exact (fireRow_calm_of_act vbGeluAct_calm).ofNext e
  | vbSilu => exact (fireRow_calm_of_act vbSiluAct_calm).ofNext e
  | vbSin => exact (fireRow_calm_of_act vbSinAct_calm).ofNext e
  | vbCos => exact (fireRow_calm_of_act vbCosAct_calm).ofNext e
  | vbCompress => exact (fireRow_calm_of_act vbCompressAct_calm).ofNext e
  | vbExpand => exact (fireRow_calm_of_act vbExpandAct_calm).ofNext e
  | vbPermute => exact (fireRow_calm_of_act vbPermuteAct_calm).ofNext e
  | vbGumbel => exact (fireRow_calm_of_act vbGumbelAct_calm).ofNext e
  | vbCrop => exact (fireRow_calm_of_act vbCropAct_calm).ofNext e
  | xfRun => exact (xfRun_calm (.refl s) ..).ofNext e
  | xfPaged => exact (fireRow_calm_of_act xfPagedAct_calm).ofNext e
  | cAllredSum | cAllredMax | cAllredWelf | cRedscat | cBcast | cAll2all | cAllgather | cGatherArrive
  | cBarrier =>
    exact (fireColl_calm (.refl s) ..).ofNext e
  | collectiveMeet => exact (collectiveMeet_calm (.refl s) ..).ofNext e
  | gatherUnitArrive => exact (gatherUnitArrive_calm (.refl s) ..).ofNext e
  | collWatchdogExpire => exact (collWatchdogExpire_calm (.refl s) ..).ofNext e
  | flDraw => exact (fireRow_calm_of_act flDrawAct_calm).ofNext e
  | loopBegin => exact (loopBegin_calm (.refl s) ..).ofNext e
  | loopEnd => exact (loopEnd_calm (.refl s) ..).ofNext e
  | loopr => exact (loopr_calm (.refl s) ..).ofNext e
  | twait => exact (twait_calm (.refl s) ..).ofNext e
  | fence => exact (fence_calm (.refl s) ..).ofNext e
  | quarryLoadEnd => exact (quarryLoadEnd_calm (.refl s) ..).ofNext e
  | ctxSwitchOutEnd => exact (ctxSwitchOutEnd_calm (.refl s) ..).ofNext e
  | ctxSwitchInEnd => exact (ctxSwitchInEnd_calm (.refl s) ..).ofNext e
  | ctxTeardownEnd => exact (ctxTeardownEnd_calm (.refl s) ..).ofNext e
  | encodeFrameStart => exact (encodeFrameStart_calm (.refl s) ..).ofNext e
  | encodeFrameEnd => exact (encodeFrameEnd_calm (.refl s) ..).ofNext e
  | decodeFrameEnd => exact (decodeFrameEnd_calm (.refl s) ..).ofNext e
  | decodeBudgetExpire => exact (decodeBudgetExpire_calm (.refl s) ..).ofNext e
  | flitReceive => exact (flitReceive_calm (.refl s) ..).ofNext e
  | replayWindowEnd => exact (replayWindowEnd_calm (.refl s) ..).ofNext e
  | scrubPass => exact (scrubPass_calm (.refl s) ..).ofNext e
  | coalesceWindowEnd => exact (coalesceWindowEnd_calm (.refl s) ..).ofNext e
  | evtDroppedRecord => exact (evtDroppedRecord_calm (.refl s) ..).ofNext e
  | alarmConditionEnd => exact (alarmConditionEnd_calm (.refl s) ..).ofNext e
  | stackTempReading => exact (stackTempReading_calm (.refl s) ..).ofNext e
  | junctionTempReading => exact (junctionTempReading_calm (.refl s) ..).ofNext e
  | drawLimitReached => exact (drawLimitReached_calm (.refl s) ..).ofNext e
  | powerLimitEpisodeEnd => exact (powerLimitEpisodeEnd_calm (.refl s) ..).ofNext e
  | calLoadSample => exact (calLoadSample_calm (.refl s) ..).ofNext e
  | recalStart => exact (recalStart_calm (.refl s) ..).ofNext e
  | recalEnd => exact (recalEnd_calm (.refl s) ..).ofNext e
  | vinExcursion => exact (vinExcursion_calm (.refl s) ..).ofNext e
  | vinDebounceExpire => exact (vinDebounceExpire_calm (.refl s)).ofNext e
  | pwrGoodInDeassert => exact (pwrGoodInDeassert_calm (.refl s) ..).ofNext e
  | supplyShutdown => exact (supplyShutdown_calm (.refl s)).ofNext e
  | wakePin => exact (wakePin_calm (.refl s) ..).ofNext e
  | powerOn => exact (powerOn_alive (.refl s) ..).ofNext e
  | modRstAssert => exact (modRstAssert_alive (.refl s) ..).ofNext e
  | modRstRelease => exact (modRstRelease_calm (.refl s)).ofNext e
  | startupStepEnd => exact absurd rfl (hu _)
  | startupTimeout => exact (startupTimeout_calm (.refl s)).ofNext e
  | perstAssert => exact (perstAssert_calm (.refl s) ..).ofNext e
  | perstRelease => exact (perstRelease_calm (.refl s)).ofNext e
  | functionLevelReset => exact (functionLevelReset_calm (.refl s) ..).ofNext e
  | vfEnableClear => exact (vfEnableClear_calm (.refl s)).ofNext e
  | busMasterEnableWrite => exact (busMasterEnableWrite_alive (.refl s) ..).ofNext e
  | hostLinkTrained => exact (hostLinkTrained_calm (.refl s) ..).ofNext e
  | hdmDecoderCommit => exact (hdmDecoderCommit_calm (.refl s) ..).ofNext e
  | hdmRead => exact (hdmRead_calm (.refl s) ..).ofNext e
  | hdmWrite => exact (hdmWrite_calm (.refl s) ..).ofNext e
  | bisnpResponse => exact (bisnpResponse_calm (.refl s) ..).ofNext e
  | biTimeout => exact (biTimeout_calm (.refl s) ..).ofNext e
  | hostSnoop => exact (hostSnoop_calm (.refl s) ..).ofNext e
  | atsTranslationRefused => exact (atsTranslationRefused_calm (.refl s) ..).ofNext e
  | unsupportedRequest => exact (unsupportedRequest_calm (.refl s) ..).ofNext e
  | ideIntegrityFail => exact (ideIntegrityFail_calm (.refl s) ..).ofNext e
  | getState => exact (getState_calm (.refl s)).ofNext e
  | getThermal => exact (getThermal_calm (.refl s)).ofNext e
  | mgmtAlarmAck => exact (mgmtAlarmAck_calm (.refl s) ..).ofNext e
  | injectArm => exact (injectArm_calm (.refl s) ..).ofNext e
  | imageStage => exact (imageStage_calm (.refl s) ..).ofNext e
  | imageSeal => exact (imageSeal_calm (.refl s) ..).ofNext e
  | imageDiscard => exact (imageDiscard_calm (.refl s)).ofNext e
  | getVersion => exact (getVersion_calm (.refl s) ..).ofNext e
  | getCapabilities => exact (getCapabilities_calm (.refl s) ..).ofNext e
  | negotiateAlgorithms => exact (negotiateAlgorithms_calm (.refl s) ..).ofNext e
  | getDigests => exact (getDigests_calm (.refl s) ..).ofNext e
  | getCertificate => exact (getCertificate_calm (.refl s) ..).ofNext e
  | challenge => exact (challenge_calm (.refl s) ..).ofNext e
  | getMeasurements => exact (getMeasurements_calm (.refl s) ..).ofNext e
  | keyExchange => exact (keyExchange_calm (.refl s) ..).ofNext e
  | finish => exact (finish_calm (.refl s) ..).ofNext e
  | heartbeat => exact (heartbeat_calm (.refl s) ..).ofNext e
  | keyUpdate => exact (keyUpdate_calm (.refl s) ..).ofNext e
  | endSession => exact (endSession_calm (.refl s) ..).ofNext e
  | chunkGet => exact (chunkGet_calm (.refl s) ..).ofNext e
  | vendorDefinedRequest => exact (vendorDefinedRequest_calm (.refl s) ..).ofNext e
  | entropyHealthFail => exact (entropyHealthFail_calm (.refl s)).ofNext e
  | vfEnableSet => exact (vfEnableSet_calm (.refl s) ..).ofNext e

/-- Settles O58: if the module is up at the end, the row was calm, and a calm row keeps the service mode and takes back no
number. -/
theorem numbersNeverGoBack : Obligations.NumbersNeverGoBack := by
  unfold Obligations.NumbersNeverGoBack
  intro c s t hm hu e up
  have calm : Calm s t := (exec_alive hm hu e).calm up
  exact ⟨calm.service, calm.seq, calm.handles, calm.up up⟩

end Sys2Proof.Machine
end

section
/-! SUPPORT. Proofs/SlabPrograms.lean: passages enter a slab and are selected, lines issue, operations of the control unit fire,
operations and passages end (R52, R67 to R83, R332, R544, R545). -/

namespace Sys2Proof.Machine

/-- Changing the slabs keeps what the changed slab has as long as the change keeps it. -/
theorem State.slab_modSlab_keeps {α : Type} (p : Slab → α) (s : State) (i j : Nat) (f : Slab → Slab)
    (keeps : ∀ b, p (f b) = p b) : p ((s.modSlab i f).slab j) = p (s.slab j) := by
  by_cases same : i = j
  · subst same
    by_cases there : i < s.slabs.length
    · rw [s.slab_modSlab_self there, keeps]
    · simp only [State.slab, State.modSlab, State.setSlabs_slabs, nth, modAt]
      rw [List.modify_eq_self (by omega)]
  · rw [s.slab_modSlab_of_ne same]

/-! ### Entering and selection (R79, R80, R332) -/

/-- The first passage held for a slab enters its queue when it may (R79). -/
theorem passageEnqueue_first {s : State} {slab : Nat} {f : Flight} (run : s.running = true)
    (first : leastBy Flight.seq (s.flights.filter fun g => decide (g.phase = .busy) && g.run.any fun r =>
      r.slabs.contains slab && !r.queued.contains slab) = some f) (room : s.canQueue f.seq slab = true) :
    passageEnqueue slab s = s.enqueue f.seq slab := by
  simp only [passageEnqueue, first, run, room, Bool.and_self, if_true]

/-- The shape record goes to the program's region of kind 3 on the slab, if it has one (R332). -/
def State.putShape (s : State) (slab : Nat) (f : Flight) (r : RunInfo) (c : Ctx) (g : Program) : State :=
  match g.region? 3 (c.slabs.idxOf slab) with
  | some (a, _) => s.writeShare f.fn c.num slab a (shapeRecord r)
  | none => s

@[simp] theorem State.putShape_talus (s : State) (slab : Nat) (f : Flight) (r : RunInfo) (c : Ctx) (g : Program) :
    (s.putShape slab f r c g).talus = s.talus := by
  unfold State.putShape; split <;> rfl

/-- With nothing armed at a point, a detector of the point changes nothing (R485). -/
theorem State.opportunity_elsewhere {s : State} {point : Nat} (unarmed : ∀ a ∈ s.talus.armed, a.point ≠ point)
    (p : Armed → Bool) : s.opportunity point p = (none, s) :=
  s.opportunity_none point p (List.all_eq_true.mpr fun a h => by simp [unarmed a h])

/-- Without point 0x0501 armed the selection raises no flags (R488). -/
theorem State.flagsInjected_elsewhere {s : State} (unarmed : ∀ a ∈ s.talus.armed, a.point ≠ 0x0501) (f : Flight)
    (ctx img : Nat) : s.flagsInjected f ctx img = s := by
  simp only [State.flagsInjected, State.opportunity_elsewhere unarmed, ite_self]

/-- The passage at the head of a slab's queue, with its command, its run, its context and its program. -/
structure State.AtHead (s : State) (slab q : Nat) (rest : List Nat) (f : Flight) (r : RunInfo) (c : Ctx) (g : Program) :
    Prop where
  queue : (s.slab slab).passq = q :: rest
  flight : s.flight? q = some f
  run : f.run = some r
  ctx : s.ctx? f.fn r.ctx = some c
  prog : c.prog = some g

/-- A passage that may be selected becomes live, with its shape record written (R80, R332). -/
theorem passageSelect_selects {s : State} {slab q : Nat} {rest : List Nat} {f : Flight} {r : RunInfo} {c : Ctx} {g : Program}
    (head : s.AtHead slab q rest f r c g) (work : s.running = true) (may : s.selectable slab f r c g = true)
    (unarmed : ∀ a ∈ s.talus.armed, a.point ≠ 0x0501) :
    passageSelect slab s =
      let img := c.slabs.idxOf slab
      let l := Live.fresh f r img (nth (nth g.table (r.bucket * g.npass + r.passage)).lines img) (!s.hub.service)
      (s.modSlab slab fun b => { b with passq := rest, live := b.live ++ [l] }).putShape slab f r c g := by
  obtain ⟨queue, flight, hrun, ctx, prog⟩ := head
  simp only [passageSelect, queue, flight, hrun, ctx, prog, work, may]
  exact State.flagsInjected_elsewhere (s := State.putShape ..) (by simpa using unarmed) ..

/-- A passage that may not be selected stays at the head of its queue (R80). -/
theorem passageSelect_waits {s : State} {slab q : Nat} {rest : List Nat} {f : Flight} {r : RunInfo} {c : Ctx} {g : Program}
    (head : s.AtHead slab q rest f r c g) (may : s.selectable slab f r c g = false) : passageSelect slab s = s := by
  obtain ⟨queue, flight, hrun, ctx, prog⟩ := head
  simp [passageSelect, queue, flight, hrun, ctx, prog, may]

/-- Settles O24: the first held passage enters; the one at the head is selected, or stays. -/
theorem passagesEnterTheSlab : Obligations.PassagesEnterTheSlab := by
  unfold Obligations.PassagesEnterTheSlab
  intro slab s work
  refine ⟨fun f first room => ?_, fun q rest f r c g queue flight hrun ctx prog => ?_⟩
  · exact congrArg Host.Outcome.next (passageEnqueue_first work first room)
  · have head : s.AtHead slab q rest f r c g := ⟨queue, flight, hrun, ctx, prog⟩
    refine ⟨fun may unarmed => ?_, fun may => ?_⟩
    · exact congrArg Host.Outcome.next (passageSelect_selects head work may unarmed)
    · exact congrArg Host.Outcome.next (passageSelect_waits head may)

/-! ### Issue (R52, R544, R545) -/

/-- A queue of the line's units is full, or a list of its context is open while it names array or accumulator slots (R52,
R544). -/
def State.lineWaits (s : State) (slab : Nat) (l : Live) (ln : Line) (us : List Nat) : Bool :=
  let b := s.slab slab
  us.any (fun u => 16 ≤ (nth b.queues u).length) ||
    (us.any (fun u => u < 2 && slotOp u (lineSlot ln u) != 0) && b.ops.any fun p => p.part == l.part && p.ctx == l.ctx && b.listOpen p)

/-- The slots of a context on a slab. -/
def Ctx.accSlots (c : Ctx) (slab : Nat) : List AccSlot := ((c.onSlab? slab).map CtxSlab.slots).getD []

/-- What a planned step of issue does. -/
def State.follow (s : State) (slab : Nat) (l : Live) (c : Ctx) (g : Program) (ln : Line) : Plan → State
  | .slots us left => s.issue slab l c g ln us left
  | .skip =>
    let body := bodyEnd (s.textFrom l g slab) 0
    s.modLive slab l.seq fun l =>
      { l with pc := l.pc + (if body.2 then 0 else body.1), allIssued := body.2, looprCount := none }
  | .loopr =>
    if 16 ≤ (s.queue slab 7).length then s else
    let k := (s.slab slab).nextId
    (s.modSlab slab fun b => { b.enqueueOps [opOf l ln 7 k k (0, 0)] with nextId := k + 1 }).modLive slab l.seq fun l =>
      { l with looprWait := k }

/-- A read of one region of the share that meets nothing draws one free value. -/
theorem State.eccShare_one_clean {s : State} {slab : Nat} (clean : s.clean slab) (p c q a : Nat) {n : Nat} (bytes : n ≠ 0) :
    s.eccShare p c q slab [(a, n)] = (nextFree s 1, none) := by
  simp only [State.eccShare, bytes, if_false, State.readSpad_clean clean]

/-- LINE_ISSUE reads the line at the head of issue, where no word of it is damaged, and follows its plan. -/
theorem lineIssue_follows {s : State} {slab : Nat} {l : Live} {c : Ctx} {g : Program} (work : s.running = true)
    (clean : s.clean slab) (now : (s.slab slab).live.find? (fun l => !l.allIssued) = some l) (free : l.looprWait = 0)
    (ctx : s.ctx? l.part l.ctx = some c) (prog : c.prog = some g) :
    let ln := leNat (Memory.read (s.share l.part l.ctx slab) (l.lineAddr g) 64)
    lineIssue slab s = (nextFree s 1).follow slab l c g ln (l.plan ln) := by
  intro ln
  simp only [lineIssue, now, work, free, ctx, prog, State.eccShare_one_clean clean _ _ _ _ (by decide : 64 ≠ 0)]
  cases plan : l.plan ln <;> simp [ln, State.follow]

/-- The line's operations enter their queues with the next identities, its slots' record is brought up to date, and issue goes
on behind it (R52, R60). -/
def State.enter (s : State) (slab : Nat) (l : Live) (c : Ctx) (g : Program) (ln : Line) (us : List Nat) (left : Option Nat) : State :=
  let i : Issue := { line := ln, units := us }
  let k := (s.slab slab).nextId
  let os := us.zipIdx.map fun x => opOf l ln x.1 (k + x.2) k (i.extent (c.accSlots slab))
  ((s.modSlab slab fun x => { x.enqueueOps os with nextId := x.nextId + us.length + 1 }).modCtx l.part l.ctx fun c =>
    c.modSlab slab fun d => { d with slots := i.effect g d.slots }).modLive slab l.seq fun l => l.advance ln left

/-- A line waits, faults its context by its first check that fails, or enters the queues (R52, R544). -/
theorem State.issue_eq (s : State) (slab : Nat) (l : Live) (c : Ctx) (g : Program) (ln : Line) (us : List Nat) (left : Option Nat) :
    s.issue slab l c g ln us left =
      if s.lineWaits slab l ln us then s else
      match s.issueFails l.part c g l.seq slab { line := ln, units := us } (c.accSlots slab) with
      | some (u, code) => s.contextFault l.part l.ctx (lineFault code slab (opOf l ln u 0 0 (0, 0)) 0x7)
      | none => s.enter slab l c g ln us left := rfl

/-- Settles O25, plan by plan: the read of the line gives the plan, and the plan's step is followed. -/
theorem linesIssueInOrder : Obligations.LinesIssueInOrder := by
  unfold Obligations.LinesIssueInOrder
  intro slab s l c g work clean now free ctx prog ln t b slots
  have step {p : Plan} (plan : l.plan ln = p) : exec (.lineIssue slab) s = .next (t.follow slab l c g ln p) :=
    plan ▸ congrArg Host.Outcome.next (lineIssue_follows work clean now free ctx prog)
  refine ⟨fun us left plan => ⟨fun waits => ?_, fun waits passes => ?_, fun u code waits fails => ?_⟩, fun plan room => ?_,
    fun plan => ?_⟩
  · have held : t.lineWaits slab l ln us = true := waits
    rw [step plan, State.follow, State.issue_eq, if_pos held]
  · have room : t.lineWaits slab l ln us = false := waits
    have good : t.issueFails l.part c g l.seq slab { line := ln, units := us } (c.accSlots slab) = none := passes
    simp only [step plan, State.follow, State.issue_eq, room, good]
    rfl
  · have room : t.lineWaits slab l ln us = false := waits
    have bad : t.issueFails l.part c g l.seq slab { line := ln, units := us } (c.accSlots slab) = some (u, code) := fails
    simp only [step plan, State.follow, State.issue_eq, room, bad]
    rfl
  · exact (step plan).trans (congrArg Host.Outcome.next (if_neg (Nat.not_le.mpr room)))
  · exact step plan

/-! ### Unit rows that wait (R52, R66, R71) -/

/-- The row changes nothing while no operation of its opcode can fire at the head of its unit's queue. -/
def FiresOrWaits (s : State) (slab : Nat) (r : Instr × Nat × Nat) : Prop :=
  s.firing slab r.2.1 r.2.2 = none → exec r.1 s = .next s

/-- A unit row does so, whatever its operation does when it fires. -/
theorem firesOrWaits_of_fireRow {s : State} {slab u op : Nat} {i : Instr} {act : State → Nat → OpE → State}
    (row : exec i s = .next (fireRow u op act slab s)) : FiresOrWaits s slab (i, u, op) :=
  fun waits => row.trans (congrArg Host.Outcome.next (fireRow_waits waits act))

/-- A FENCE that cannot fire waits, and so does one with an earlier operation of its context under way. -/
theorem fence_waits {s : State} {slab : Nat} (waits : s.firing slab 7 5 = none) : fence slab s = s := by
  unfold fence
  split
  · rfl
  · simp only [fireRow_waits waits, ite_self]

/-- Settles O27: each row is a unit row, or a row of a coupled consumer, and both wait; only FENCE has a wait of its own. -/
theorem unitOperationsWait : Obligations.UnitOperationsWait := by
  unfold Obligations.UnitOperationsWait
  intro slab s
  constructor
  · iterate 51 refine List.forall_mem_cons.mpr ⟨firesOrWaits_of_fireRow rfl, ?_⟩
    exact List.forall_mem_singleton.mpr fun waits => congrArg Host.Outcome.next (fence_waits waits)
  · iterate 3 refine List.forall_mem_cons.mpr ⟨fun waits => congrArg Host.Outcome.next (partnerRow_waits waits _), ?_⟩
    exact List.forall_mem_nil _

/-! ### The control unit (R55, R67 to R69) -/

/-- A passage under number 1 whose count register holds `n`. -/
def twinLive (n : Nat) : Live := { (default : Live) with seq := 1, count := n }

/-- A LOOPR of number 1 with limit 0 and no tokens to wait for. -/
def twinLoopr : OpE := { (default : OpE) with unit := 7, seq := 1, bits := 3 }

/-- A running module with two passages under one number on slab 0, and a LOOPR of that number at the head of its queue. -/
def twins : State :=
  (State.reset.setHub { State.reset.hub with power := .up }).modSlab 0 fun b =>
    { b with live := [twinLive 0, twinLive 1], queues := modAt b.queues 7 fun _ => [twinLoopr] }

/-- The pass counts of the passages on slab 0. -/
def State.passCounts (s : State) : List (Option Nat) := (s.slab 0).live.map Live.looprCount

/-- The LOOPR can fire. -/
theorem twins_fires : twins.firing 0 7 3 = some twinLoopr := by decide +kernel

/-- The row gives both passages the count of the first, which the register that it reads holds (R69). -/
theorem passCounts_loopr_twins : (loopr 0 twins).passCounts = [some 0, some 0] := by decide +kernel

/-- Refutes O26: its LOOPR clause gives every passage of a number that passage's own count, where R69 has LOOPR read one count
register; they differ in a state with two passages of one number, which the statement does not exclude. -/
theorem not_controlOperations : ¬ Obligations.ControlOperations := by
  unfold Obligations.ControlOperations
  intro h
  obtain ⟨-, -, -, -, counts, -⟩ := h 0 twins twinLoopr
  have within := (counts (twinLive 0) twins_fires (by decide +kernel) (by decide +kernel)).1 (by decide +kernel)
  have same := congrArg State.passCounts (Host.Outcome.next.inj within)
  rw [show (loopr 0 twins).passCounts = _ from passCounts_loopr_twins] at same
  exact absurd same (by decide +kernel)

/-! ### Ends of operations (R72, R73, R170, R278) -/

/-- The started operation that OP_END names is one of the unit. -/
theorem unit_of_started {l : List OpE} {unit idx : Nat} {o : OpE} (started : (l.filter fun o => o.unit == unit)[idx]? = some o) :
    o.unit = unit := by
  simpa using (List.mem_filter.mp (List.mem_of_getElem? started)).2

/-- An operation that has done its work leaves the started ones, counts as a read where it is an MM_ARRIVE, and emits its
token. -/
theorem opEnd_ends {s : State} {slab unit idx : Nat} {o : OpE} (work : s.running = true)
    (started : ((s.slab slab).started.filter fun o => o.unit == unit)[idx]? = some o) (elsewhere : unit ≠ 5 ∨ o.op = 0)
    (done : (s.slab slab).canEnd o = true) :
    opEnd slab unit idx s = ((s.retire slab o).arriveEnded slab o).emitToken slab o := by
  obtain rfl := unit_of_started started
  have here : (o.unit = 5 && o.op != 0) = false := by rcases elsewhere with h | h <;> simp [h]
  simp only [opEnd, started, work, here, done]
  rfl

/-- An ended MM_ARRIVE counts as a read of its unit in the queue of its group, if it has one (R278). -/
theorem State.arriveEnded_eq (s : State) (slab : Nat) (o : OpE) :
    s.arriveEnded slab o =
      match (if o.unit = 0 ∧ o.op = 4 then s.groupQueue? o.part o.ctx (arrGroup o.bits.toNat) slab else none) with
      | some (_, q) => s.modQueue slab q fun k => { k with gather := k.gather.map fun t => t.addRead (arrChunk o.bits.toNat) }
      | none => s := by
  by_cases arrive : o.unit = 0 ∧ o.op = 4
  · cases queue : s.groupQueue? o.part o.ctx (arrGroup o.bits.toNat) slab <;> simp [State.arriveEnded, arrive, queue]
  · simp [State.arriveEnded, arrive]

/-- Settles O28: the operation retires, and the three kinds of emission are those of its token. -/
theorem operationsEndWithATokenEach : Obligations.OperationsEndWithATokenEach := by
  unfold Obligations.OperationsEndWithATokenEach
  intro slab unit idx s o work started elsewhere done b c d
  obtain rfl := unit_of_started started
  have retired : s.retire slab o = c := by simp [State.retire, c, b]
  have arrived : (s.retire slab o).arriveEnded slab o = d := by rw [retired]; exact State.arriveEnded_eq c slab o
  have ended : exec (.opEnd slab o.unit idx) s = .next (d.emitToken slab o) :=
    congrArg Host.Outcome.next ((opEnd_ends work started elsewhere done).trans (by rw [arrived]))
  refine ⟨fun silent => ?_, fun t emits => ⟨fun room => ?_, fun full => ?_⟩⟩
  · simp only [ended, State.emitToken, silent]
  · simp only [ended, State.emitToken, emits, room]
    rfl
  · simp only [ended, State.emitToken, emits, full]
    rfl

/-! ### Ends of passages (R75, R78, R83, R157, R392) -/

/-- A slot of the passage's context on the slab is still gated (R157). -/
def State.gatedOn (s : State) (slab : Nat) (l : Live) : Bool :=
  ((s.ctx? l.part l.ctx).bind fun c => c.onSlab? slab).any fun d => d.slots.any fun a => a.gated

/-- What the end of a passage depends on: it works, all its lines have issued and all its operations ended, and no injection
withholds it. -/
structure State.PassageDone (s : State) (slab q : Nat) (l : Live) : Prop where
  live : s.live? slab q = some l
  work : s.running = true
  issued : l.allIssued = true
  ended : (s.slab slab).ops.any (fun o => o.seq == q) = false
  free : s.endWithheld l = false

/-- With a token left its context faults, and what it has written is not defined (R75). -/
theorem passageEnd_tokenLeft {s : State} {slab q : Nat} {l : Live} (done : s.PassageDone slab q l) (left : ∃ t ∈ l.tokens, t ≠ 0) :
    passageEnd slab q s = (s.spoil l).contextFault l.part l.ctx (passageFault .tokenLeft slab l false) := by
  obtain ⟨live, work, issued, ended, free⟩ := done
  have remains : (l.tokens.any fun t => t != 0) = true := by simpa using left
  simp [passageEnd, live, work, issued, ended, free, remains]

/-- With every token spent and a slot still gated its context faults (R157). -/
theorem passageEnd_gated {s : State} {slab q : Nat} {l : Live} (done : s.PassageDone slab q l) (spent : ∀ t ∈ l.tokens, t = 0)
    (gated : s.gatedOn slab l = true) :
    passageEnd slab q s = s.contextFault l.part l.ctx (passageFault .gateOrder slab l false) := by
  obtain ⟨live, work, issued, ended, free⟩ := done
  have nothing : (l.tokens.any fun t => t != 0) = false := by simpa using spent
  rw [State.gatedOn] at gated
  simp [passageEnd, live, work, issued, ended, free, nothing, gated]

/-- With neither it ends on the slab (R78). -/
theorem passageEnd_clean {s : State} {slab q : Nat} {l : Live} (done : s.PassageDone slab q l) (spent : ∀ t ∈ l.tokens, t = 0)
    (gated : s.gatedOn slab l = false) : passageEnd slab q s = s.passageEnded slab l := by
  obtain ⟨live, work, issued, ended, free⟩ := done
  have nothing : (l.tokens.any fun t => t != 0) = false := by simpa using spent
  rw [State.gatedOn] at gated
  simp [passageEnd, live, work, issued, ended, free, nothing, gated]

/-- A passage with lines to issue or operations to end stays (R78). -/
theorem passageEnd_waits {s : State} {slab q : Nat} {l : Live} (live : s.live? slab q = some l)
    (busy : l.allIssued = false ∨ (s.slab slab).ops.any (fun o => o.seq == q) = true) : passageEnd slab q s = s := by
  rcases busy with h | h <;> simp [passageEnd, live, h]

/-- The passage has left the slab, which its run notes (R78). -/
def State.leaveSlab (s : State) (slab : Nat) (l : Live) : State :=
  (s.modSlab slab fun b =>
    { b with live := b.live.filter fun x => x.seq != l.seq, owner := if b.owner = some l.seq then none else b.owner }).modFlight
      l.seq fun f => { f with run := f.run.map fun r =>
        { r with ended := r.ended ++ [slab], wrote := l.wrote.filter (fun w => w.kind != 4) ++ r.wrote } }

/-- The run finishes with the end of its passage on the last slab (R78, R392). -/
theorem State.passageEnded_eq {s : State} {slab : Nat} {l : Live} {f : Flight} {r : RunInfo}
    (flight : (s.leaveSlab slab l).flight? l.seq = some f) (run : f.run = some r) :
    s.passageEnded slab l =
      if r.slabs.all fun k => r.ended.contains k then ((s.leaveSlab slab l).landAll l.seq).finishRun f r
      else s.leaveSlab slab l := by
  unfold State.leaveSlab at flight ⊢
  simp only [State.passageEnded, flight, run]

/-- The watchdog of a passage that it runs for faults the context (R83). -/
theorem passageStall_faults {s : State} {slab q : Nat} {l : Live} (live : s.live? slab q = some l) (work : s.running = true)
    (watched : (s.slab slab).watched q = true) (unarmed : ∀ a ∈ s.talus.armed, a.point ≠ 0x0401) :
    passageStall slab q s = s.contextFault l.part l.ctx (passageFault .passageStall slab l false) := by
  simp [passageStall, live, work, watched, State.opportunity_elsewhere unarmed]

/-- The watchdog does not run while an earlier passage is on the slab or a collective waits for other members (R83). -/
theorem passageStall_waits {s : State} {slab q : Nat} (watched : (s.slab slab).watched q = false) :
    passageStall slab q s = s := by
  unfold passageStall
  split <;> simp [watched]

/-- Settles O29: a passage that is done ends cleanly or faults, any other stays, and the watchdog's two cases. -/
theorem passagesEnd : Obligations.PassagesEnd := by
  unfold Obligations.PassagesEnd
  intro slab q s l live work
  refine ⟨fun issued ended free => ?_, fun busy => ?_, fun watched unarmed => ?_, fun watched => ?_⟩
  · have done : s.PassageDone slab q l := ⟨live, work, issued, ended, free⟩
    intro gated
    refine ⟨fun spent shut => ?_, fun left => ?_, fun spent shut => ?_⟩
    · intro t f r flight run
      have left := (passageEnd_clean done spent shut).trans (State.passageEnded_eq flight run)
      exact ⟨fun last => congrArg Host.Outcome.next (left.trans (if_pos last)),
        fun more => congrArg Host.Outcome.next (left.trans (if_neg (Bool.eq_false_iff.mp more)))⟩
    · exact congrArg Host.Outcome.next (passageEnd_tokenLeft done left)
    · exact congrArg Host.Outcome.next (passageEnd_gated done spent shut)
  · exact congrArg Host.Outcome.next (passageEnd_waits live busy)
  · exact congrArg Host.Outcome.next (passageStall_faults live work watched unarmed)
  · exact congrArg Host.Outcome.next (passageStall_waits watched)

end Sys2Proof.Machine
end

section
/-! SUPPORT. Proofs/Runs.lean: completions and held commands, RUN_PASSAGE, FETCH and RESULT_DROP (R79, R331 to R335, R340, R347,
R379 to R387, R409, R500). -/

namespace Sys2Proof.Machine

/-! ### Held passages and completions (R79, R340, R347, R379 to R384, R500) -/

/-! A status block brought up to date is the same command (R394). -/

@[simp] theorem State.outsNow_fn (s : State) (f : Flight) : (s.outsNow f).fn = f.fn := by
  unfold State.outsNow; split <;> rfl
@[simp] theorem State.outsNow_cmd (s : State) (f : Flight) : (s.outsNow f).cmd = f.cmd := by
  unfold State.outsNow; split <;> rfl
@[simp] theorem State.outsNow_seq (s : State) (f : Flight) : (s.outsNow f).seq = f.seq := by
  unfold State.outsNow; split <;> rfl
@[simp] theorem State.outsNow_irq (s : State) (f : Flight) : (s.outsNow f).irq = f.irq := by
  unfold State.outsNow; split <;> rfl
@[simp] theorem State.outsNow_vector (s : State) (f : Flight) : (s.outsNow f).vector = f.vector := by
  unfold State.outsNow; split <;> rfl
@[simp] theorem State.outsNow_status (s : State) (f : Flight) : (s.outsNow f).status = f.status := by
  unfold State.outsNow; split <;> rfl

/-- A command that waits for nothing of its own has its outcome, or none (R381). -/
theorem State.settle_of_not_busy {f : Flight} (idle : f.phase ≠ .busy) (s : State) : s.settle f = s := if_pos idle

/-- A command with its outcome completes. -/
theorem State.completeSeq_done {s : State} {fn q : Nat} {f : Flight} (flight : s.flight? q = some f) (own : f.fn = fn)
    (done : f.phase = .done) (refused : Bool) : s.completeSeq fn q refused = s.complete f refused := by
  simp [State.completeSeq, flight, own, State.settle_of_not_busy (by simp [done] : f.phase ≠ .busy), done]

/-- A command that has not started stays. -/
theorem State.completeSeq_unstarted {s : State} {fn q : Nat} {f : Flight} (flight : s.flight? q = some f) (own : f.fn = fn)
    (held : f.phase = .ordered ∨ f.phase = .bme) (refused : Bool) : s.completeSeq fn q refused = s := by
  have idle : f.phase ≠ .busy ∧ f.phase ≠ .done := by rcases held with h | h <;> simp [h]
  simp [State.completeSeq, flight, own, State.settle_of_not_busy idle.1, idle.2]

/-- The results of a command, each with its epoch word (R384). -/
def State.writeOuts (s : State) (f : Flight) : State := (s.outsNow f).outs.foldl (fun t o => t.writeOut (s.outsNow f) o) s

/-- A record whose translation nothing refuses goes to the next entry of the area (R381). -/
theorem State.putCompletion_written {s t : State} {f : Flight} (sent : s.atsInjected f.fn = (false, t)) :
    s.putCompletion f false = t.stewardWrite f.fn (s.fn f.fn).nextRecord.1 (t.record f (s.fn f.fn).nextRecord.2) := by
  simp [State.putCompletion, sent]

/-- A completion whose results and record reach host memory: results, then the record, then its count and interrupt (R381,
R384). -/
theorem State.complete_written {s s1 t : State} {f : Flight} (reach : s.resultFails f = (s1, none))
    (sent : (s1.writeOuts f).atsInjected f.fn = (false, t)) :
    s.complete f =
      let g := s1.outsNow f
      let e := ((s1.writeOuts f).fn f.fn).nextRecord
      ((t.stewardWrite f.fn e.1 (t.record g e.2)).recordEnd g).afterRecord g := by
  have results : s.results f = (s1.writeOuts f, s1.outsNow f) := by simp only [State.results, reach, State.writeOuts]
  simp only [State.complete, results, State.putCompletion_written (f := s1.outsNow f) (by simpa using sent), State.outsNow_fn]

/-- A REST_ENTER that succeeded takes the module towards Rest (R500). -/
theorem State.afterRecord_eq (s : State) (f : Flight) :
    s.afterRecord f = if f.cmd = .restEnter ∧ f.status = .ok then s.setHub { s.hub with rest := .entering } else s := by
  simp [State.afterRecord]

/-- COMMAND_COMPLETION goes ahead in a module that works, for a function that may send requests (R340, R347, R381) ... -/
theorem commandCompletion_open {s : State} {fn : Nat} (work : s.running = true) (may : (s.fn fn).masters = true) (q : Nat) :
    commandCompletion fn q s = s.completeSeq fn q false := by
  simp [commandCompletion, work, may]

/-- ... and only then. -/
theorem commandCompletion_shut {s : State} {fn : Nat} (off : s.running = false ∨ (s.fn fn).masters = false) (q : Nat) :
    commandCompletion fn q s = s := by
  rcases off with h | h <;> simp [commandCompletion, h]

/-- ORDERED_START tries a held command of the function again (R382). -/
theorem orderedStart_tries {s : State} {fn q : Nat} {f : Flight} (flight : s.flight? q = some f) (own : f.fn = fn)
    (held : f.phase = .ordered) (work : s.running = true) (awake : s.hub.rest = .awake) :
    orderedStart fn q s = s.tryStart f := by
  simp [orderedStart, flight, own, held, work, awake]

/-- Settles O17: a done command completes with its results and its record, one without an outcome stays, and a held one is
tried again. -/
theorem completionsAndHeldCommands : Obligations.CompletionsAndHeldCommands := by
  unfold Obligations.CompletionsAndHeldCommands
  refine ⟨fun fn q s f work may flight own => ⟨fun done s1 reach => ?_, fun held => ?_⟩, fun fn q s off => ?_,
    fun fn q s f flight own held work awake => ?_⟩
  · intro g s2 s3 sent x n s4 s5 s6
    have number : f.seq = q := by simpa using List.find?_some flight
    subst own number
    have outs : s1.writeOuts f = s2 := by simp [State.writeOuts, State.writeOut, s2, g]
    have ends : (s3.stewardWrite f.fn x.nextRecord.1 (s3.record g x.nextRecord.2)).recordEnd g = s6 := by
      simp only [State.recordEnd, g, State.outsNow_fn, State.outsNow_irq, State.outsNow_vector, State.outsNow_seq]
      rfl
    refine congrArg Host.Outcome.next ?_
    rw [commandCompletion_open work may, State.completeSeq_done flight rfl done, State.complete_written reach (outs ▸ sent), outs]
    simp only [show (s1.outsNow f) = g from rfl, show s2.fn f.fn = x from rfl, ends]
    simp [State.afterRecord_eq, g]
  · exact congrArg Host.Outcome.next ((commandCompletion_open work may q).trans (State.completeSeq_unstarted flight own held false))
  · exact congrArg Host.Outcome.next (commandCompletion_shut off q)
  · exact congrArg Host.Outcome.next (orderedStart_tries flight own held work awake)

/-! ### RUN_PASSAGE, FETCH and RESULT_DROP (R79, R331, R333, R387, R389, R409) -/

/-- The checks of a RUN_PASSAGE before its shape is classified all pass: `a` is the state after its output entries were read
(R331, R389, R391, R392). -/
structure State.RunChecked (s a : State) (f : Flight) (outs : List OutEntry) (c : Ctx) (g : Program) : Prop where
  count : f.arg 3 1 ≤ 16
  entries : (s.modCtx f.fn (f.arg 0 2) fun x => { x with lastUse := f.seq }).outEntries f = (a, .ok outs)
  ctx : a.needCtx f.fn (f.arg 0 2) = .ok c
  regions : ∀ h ∈ f.handles 32 16, h ≠ 0 → ((a.part f.fn).region? h).isSome = true
  models : ∀ h ∈ f.handles 96 8, h ≠ 0 → a.holds f.fn h = true
  prog : c.prog = some g
  slabs : ∀ o ∈ outs, o.slab < c.slabs.length
  passage : f.arg 2 1 < g.npass

/-- The run of a shape of a class (R331). -/
def State.runClass (s : State) (f : Flight) (c : Ctx) (g : Program) (outs : List OutEntry) : ShapeClass → State
  | .over => s.failCmd f .shapeOver
  | .zero => s.zeroRun f c g outs
  | .bucket b =>
    if !c.groupsOk g then s.failCmd f .groupUnbound
    else if !s.windowsOk f.fn c g (f.handles 96 8) then s.failCmd f .modelWindow
    else if s.heldFull f.fn (outs.filter fun o => o.host == 0).length then s.failCmd f .heldFull
    else s.launch f c g b outs

/-- A checked run goes on by the class of its shape (R331). -/
theorem runPassage_checked {s a : State} {f : Flight} {outs : List OutEntry} {c : Ctx} {g : Program}
    (checked : s.RunChecked a f outs c g) : runPassage s f = a.runClass f c g outs (g.classify (f.handles 4 4)) := by
  obtain ⟨count, entries, ctx, regions, models, prog, slabs, passage⟩ := checked
  have handles : ((((f.handles 32 16).filter fun h => h != 0).any fun h => ((a.part f.fn).region? h).isNone) ||
      ((f.handles 96 8).filter fun h => h != 0).any fun h => !a.holds f.fn h) = false := by
    simp only [Bool.or_eq_false_iff, List.any_eq_false, List.mem_filter, bne_iff_ne]
    exact ⟨fun h m => by simpa [← Option.isSome_iff_ne_none] using regions h m.1 m.2, fun h m => by simp [models h m.1 m.2]⟩
  have inside : (outs.any fun o => decide (c.slabs.length ≤ o.slab)) = false := by
    simpa using slabs
  simp only [runPassage, Nat.not_lt.mpr count, if_false, entries, ctx, handles, prog, inside, Nat.not_le.mpr passage]
  cases g.classify (f.handles 4 4) <;> rfl

/-- A zero-shape run whose entries fit writes them and nothing else (R333). -/
theorem State.zeroRun_writes {s t : State} {f : Flight} {c : Ctx} {g : Program} {outs : List OutEntry}
    (fit : ∀ e ∈ g.idents.filter (fun e => e.passage == f.arg 2 1), s.identFits f.fn c outs e = true)
    (writes : (g.idents.filter fun e => e.passage == f.arg 2 1).foldl (fun o e => o.bind fun s => s.writeIdent f.fn c e) (some s) =
      some t) :
    s.zeroRun f c g outs =
      (t.setFree (t.free + 1)).okCmd f 0 (t.identOuts f (g.idents.filter fun e => e.passage == f.arg 2 1) outs) := by
  have bad : ((g.idents.filter fun e => e.passage == f.arg 2 1).any fun e => !s.identFits f.fn c outs e) = false := by
    simpa only [List.any_eq_false, Bool.not_eq_true', Bool.not_eq_false] using fit
  simp only [State.zeroRun, bad, writes]
  rfl

/-- What a launched run has in flight (R79, R332). -/
def Flight.runInfo (f : Flight) (c : Ctx) (g : Program) (b : Nat) (outs : List OutEntry) : RunInfo :=
  { ctx := c.num, passage := f.arg 2 1, bucket := b, w := (nth g.table (b * g.npass + f.arg 2 1)).w
    shape := (List.range 4).map fun j => if j < g.ndim then f.arg (4 + 4 * j) 4 else 0
    step := f.arg 20 4, seed := f.arg 24 8, regions := f.handles 32 16, models := f.handles 96 8, outs := outs
    slabs := c.slabs, queued := [], ended := [], wrote := [] }

/-- A run whose loads and whose switch-in start is in flight, and queued where there is room (R79, R307, R409). -/
theorem State.launch_queues {s s1 s2 : State} {f : Flight} {c : Ctx} {g : Program} {b : Nat} {outs : List OutEntry}
    (loads : s.startLoads f.fn f.seq (s.bound f.fn g.binds (f.handles 96 8) c.slabs) = .ok s1)
    (switch : (if c.st = .out ∧ c.switching = .none ∨ c.switching = .goingOut then s1.switchFor f.fn f.seq c else some s1) =
      some s2) :
    s.launch f c g b outs =
      c.slabs.foldl (fun s k => if s.canQueue f.seq k then s.enqueue f.seq k else s)
        ((s2.touch f.fn f.seq (s.bound f.fn g.binds (f.handles 96 8) c.slabs)).modFlight f.seq fun x =>
          { x with phase := .busy, value := b, run := some (f.runInfo c g b outs) }) := by
  have switched : (if decide (c.st = .out && c.switching = .none) || decide (c.switching = .goingOut) then
      s1.switchFor f.fn f.seq c else some s1) = some s2 := by simpa using switch
  simp only [State.launch, loads, switched]
  rfl

/-- FETCH of a result that is good and fits returns it and releases it (R387). -/
theorem fetch_returns {s t : State} {f : Flight} {x : Held} (buffer : bufOk (f.arg 8 8) (f.arg 16 4) = true)
    (held : (s.part f.fn).held? (f.arg 0 8) = some x) (free : s.claimed f x = false) (fits : x.bytes.length ≤ f.arg 16 4)
    (good : s.readHbm x.slab f.fn (heldPlace f.fn (f.arg 0 8)) none = (t, none)) :
    fetch s f = ((t.release f.fn (f.arg 0 8)).okCmd f x.bytes.length
      [{ addr := f.arg 8 8, len := f.arg 16 4, bytes := x.bytes, index := 1, epoch := true }]).modFlight f.seq fun g =>
        { g with waits := [x.slab] } := by
  simp [fetch, buffer, held, free, Nat.not_lt.mpr fits, good]

/-- RESULT_DROP releases a held result that no earlier command takes (R387). -/
theorem resultDrop_releases {s : State} {f : Flight} {x : Held} (held : (s.part f.fn).held? (f.arg 0 8) = some x)
    (free : s.claimed f x = false) : resultDrop s f = (s.release f.fn (f.arg 0 8)).okCmd f := by
  simp [resultDrop, held, free]

/-- The row of a ready command performs it. -/
theorem exec_ready {s : State} {c : Cmd} {fn k : Nat} {t : State} (ready : s.ready c fn k = true)
    (performs : (s.accepting c fn k).perform (s.sealed c fn k) = t) : exec (c.row fn k) s = .next t := by
  rw [readyCommandPerformsAtItsSeal c fn k s ready, performs]

/-- Settles O10: a ready command performs at its seal; a checked run goes on by its class. -/
theorem runAndHeldResultCommands : Obligations.RunAndHeldResultCommands := by
  unfold Obligations.RunAndHeldResultCommands
  intro fn k s
  refine ⟨fun ready => ?_, fun ready => ?_, fun ready => ?_⟩
  · intro f q a0 models regions a outs c g count entries ctx hregions hmodels prog slabs passage
    have checked : (s.accepting .runPassage fn k).RunChecked a f outs c g :=
      ⟨count, entries, ctx, hregions, hmodels, prog, slabs, passage⟩
    have row {t : State} (run : a.runClass f c g outs (g.classify (f.handles 4 4)) = t) :
        exec (.runPassage fn k) s = .next t := exec_ready ready ((runPassage_checked checked).trans run)
    refine ⟨fun large => ?_, fun zero => ?_, fun b bucket groups windows room => ?_⟩
    · exact row (by rw [large]; rfl)
    · intro es fit t writes
      exact row (by rw [zero]; exact State.zeroRun_writes fit writes)
    · intro need s1 s2 loads switch r
      refine row ?_
      have launched := State.launch_queues (b := b) (outs := outs) (f := f) loads switch
      have room' : a.heldFull f.fn (outs.filter fun o => o.host == 0).length = false := room
      have windows' : a.windowsOk f.fn c g (f.handles 96 8) = true := windows
      rw [bucket]
      simp only [State.runClass, groups, windows', room', launched]
      rfl
  · intro a f x t buffer held free fits good
    have returns := fetch_returns (s := a) (f := f) buffer held free fits good
    exact exec_ready (c := .fetch) ready returns
  · intro a f x held free
    exact exec_ready ready (resultDrop_releases held free)

end Sys2Proof.Machine
end

section
/-! SUPPORT. Proofs/PairsAndTransfers.lean: coupled pairs and their consumers, the descriptors of a transfer and its units
(R52, R62, R63, R71, R74, R76, R149, R155, R159 to R161, R215, R347, R354, R426). -/

namespace Sys2Proof.Machine

/-! ### Coupled pairs (R52, R76, R149, R155, R159 to R161) -/

/-- ACC_DRAIN or ACC_GATE at the head of the accumulator's queue, with its partner at the head of its own. -/
structure State.PairHeads (s : State) (slab : Nat) (o q : OpE) : Prop where
  head : (s.queue slab 1).head? = some o
  coupled : o.coupled = true
  partner : s.partner? slab o = some q

/-- A pair whose tokens are there and whose units are free leaves its queues (R52, R76) ... -/
theorem firePair_fires {s : State} {slab : Nat} {o q : OpE} (pair : s.PairHeads slab o q)
    (free : (s.canFire slab o (o.waits ++ q.waits) && (s.slab slab).unitFree q) = true) :
    firePair o.op slab s = (s.modSlab slab fun b => (b.begin o).begin { q with fired := true }).modLive slab o.seq fun l =>
      l.takeTokens (o.waits ++ q.waits) := by
  obtain ⟨head, coupled, partner⟩ := pair
  simp only [firePair, head, coupled, partner, free]
  simp

/-- ... and any other pair waits. -/
theorem firePair_waits {s : State} {slab : Nat} {o q : OpE} (pair : s.PairHeads slab o q)
    (busy : (s.canFire slab o (o.waits ++ q.waits) && (s.slab slab).unitFree q) = false) : firePair o.op slab s = s := by
  obtain ⟨head, coupled, partner⟩ := pair
  simp only [firePair, head, coupled, partner, busy]
  simp

/-- The data of a pair moves without a word becoming damaged. -/
theorem State.clean_join {s : State} {slab : Nat} (clean : s.clean slab) (o : OpE) : (s.join slab o).clean slab := by
  have kept : ((s.join slab o).slab slab).bad = (s.slab slab).bad := State.slab_modSlab_keeps Slab.bad s slab slab _ fun _ => rfl
  exact ⟨kept.trans clean.1, clean.2⟩

/-- On a slab without a damaged word a consumer gets the values of its pair's slot, as far as its extent (R149). -/
theorem State.drained_clean {s : State} {slab : Nat} {o q : OpE} (clean : s.clean slab) (drain : s.drainOf slab o = some q)
    (reads : List Area) (k : State → List Word → State) :
    ∃ n, s.drained slab o reads k =
      k (nextFree s n) (Memory.read (s.slot o.part o.ctx slab (accSlot q.bits.toNat)).vals 0 (o.ext.1 * o.ext.2)) := by
  obtain ⟨n, read⟩ := State.withShare_clean clean o (rangesOf reads) fun s =>
    k s (Memory.read (s.slot o.part o.ctx slab (accSlot q.bits.toNat)).vals 0 (o.ext.1 * o.ext.2))
  refine ⟨n, ?_⟩
  simp only [State.drained, drain, State.withAcc_clean clean]
  exact read

/-- The consumer of a pair: its descriptor, and the values that it takes. -/
structure State.Consumes (s : State) (slab : Nat) (o q : OpE) (d : Option Fuse) (vals : List Word) : Prop where
  clean : s.clean slab
  drain : s.drainOf slab o = some q
  desc : ((s.progOf o).bind fun g => fuseAt g 2 o.bits.toNat) = d
  vals : Memory.read (s.slot o.part o.ctx slab (accSlot q.bits.toNat)).vals 0 (o.ext.1 * o.ext.2) = vals

/-- V_EPI writes an output unless its descriptor is of kind STAT (R149, R159). -/
theorem vEpiAct_epilogue {s : State} {slab : Nat} {o q : OpE} {d : Option Fuse} {vals : List Word}
    (takes : s.Consumes slab o q d vals) (kind : (d.any fun f => f.kind == 3) = false) :
    ∃ n, vEpiAct s slab o = (nextFree s n).epilogue slab o d vals := by
  obtain ⟨clean, drain, rfl, rfl⟩ := takes
  simp only [vEpiAct]
  obtain ⟨n, taken⟩ := State.drained_clean clean drain _ _
  refine ⟨n, taken.trans ?_⟩
  cases desc : (s.progOf o).bind fun g => fuseAt g 2 o.bits.toNat with
  | none => rfl
  | some f => exact if_neg (by simpa [desc] using kind)

/-- Under a STAT descriptor it takes the tile into every row's record (R155). -/
theorem vEpiAct_stat {s : State} {slab : Nat} {o q : OpE} {f : Fuse} {vals : List Word}
    (takes : s.Consumes slab o q (some f) vals) (kind : f.kind = 3) :
    ∃ n, vEpiAct s slab o = (nextFree s n).statPass slab o f vals := by
  obtain ⟨clean, drain, desc, rfl⟩ := takes
  simp only [vEpiAct, desc]
  obtain ⟨n, taken⟩ := State.drained_clean clean drain _ _
  exact ⟨n, taken.trans (if_pos kind)⟩

/-- V_OSM makes scores or outputs, as its descriptor says (R160, R161). -/
theorem vOsmAct_takes {s : State} {slab : Nat} {o q : OpE} {f : Fuse} {vals : List Word}
    (takes : s.Consumes slab o q (some f) vals) :
    ∃ n, vOsmAct s slab o = if f.kind = 6 then (nextFree s n).osmScore slab o f vals else (nextFree s n).osmOut slab o f vals := by
  obtain ⟨clean, drain, desc, rfl⟩ := takes
  simp only [vOsmAct, desc]
  exact State.drained_clean clean drain _ _

/-- Settles O33: the pair fires or waits, and then its consumer's row moves the drained values. -/
theorem coupledPairs : Obligations.CoupledPairs := by
  unfold Obligations.CoupledPairs
  intro slab s o q
  refine ⟨fun head coupled partner => ?_, ?_⟩
  · have pair : s.PairHeads slab o q := ⟨head, coupled, partner⟩
    refine List.forall_mem_cons.mpr ⟨fun op => ?_, List.forall_mem_singleton.mpr fun op => ?_⟩
    all_goals
      intro ws free
      have row : firePair o.op slab s = firePair _ slab s := congrArg (fun n => firePair n slab s) op
      exact ⟨fun fires => congrArg Host.Outcome.next (row.symm.trans (firePair_fires pair fires)),
        fun waits => congrArg Host.Outcome.next (row.symm.trans (firePair_waits pair waits))⟩
  · intro b d vals clean drain
    have takes : b.Consumes slab o q d vals := ⟨State.clean_join clean o, drain, rfl, rfl⟩
    have moves {u op : Nat} (joins : s.joining slab u op = some o) (act : State → Nat → OpE → State) :
        partnerRow u op act slab s = act b slab o := partnerRow_joining joins act
    refine ⟨fun joins => ⟨fun kind => ?_, fun f desc kind => ?_⟩, fun joins f desc => ?_⟩
    · obtain ⟨n, acts⟩ := vEpiAct_epilogue takes kind
      exact ⟨n, congrArg Host.Outcome.next ((moves joins vEpiAct).trans acts)⟩
    · obtain ⟨n, acts⟩ := vEpiAct_stat (desc ▸ takes) kind
      exact ⟨n, congrArg Host.Outcome.next ((moves joins vEpiAct).trans acts)⟩
    · obtain ⟨n, acts⟩ := vOsmAct_takes (desc ▸ takes)
      have row := (moves joins vOsmAct).trans acts
      exact ⟨fun score => ⟨n, congrArg Host.Outcome.next (row.trans (if_pos score))⟩,
        fun output => ⟨n, congrArg Host.Outcome.next (row.trans (if_neg output))⟩⟩

/-! ### Descriptors of a transfer (R62, R63, R71, R347, R354, R426) -/

/-- A descriptor is read from the share before its checks; the read draws one free value where no word is damaged. -/
theorem State.runDesc_checks {s : State} {slab : Nat} (clean : s.clean slab) (o : OpE) (i : Nat) :
    s.runDesc slab o i =
      let d := s.xfDescAt slab o i
      match s.descFails slab o d with
      | some code => ((nextFree s 1).contextFault o.part o.ctx (lineFault code slab o o.unit i), .faulted)
      | none =>
        if (d.usesHost && !(s.fn o.part).masters) || s.sinkWaits o d then (nextFree s 1, .waits) else
        match s.descLines slab o d with
        | [] => (nextFree s 1).moveDesc slab o i d
        | ls => ((nextFree s 1).setPort (s.port.backInvalidate ls), .waits) := by
  simp only [State.runDesc, State.eccShare_one_clean clean _ _ _ _ (by decide : 64 ≠ 0)]
  rfl

/-- A descriptor that fails a check faults with the check's code and its own number (R63). -/
theorem State.runDesc_fails {s : State} {slab : Nat} (clean : s.clean slab) {o : OpE} {i : Nat} {code : St}
    (fails : s.descFails slab o (s.xfDescAt slab o i) = some code) :
    s.runDesc slab o i = ((nextFree s 1).contextFault o.part o.ctx (lineFault code slab o o.unit i), .faulted) := by
  simp only [State.runDesc_checks clean, fails]

/-- One that needs Bus Master Enable or a free input buffer waits (R347, R426). -/
theorem State.runDesc_waits {s : State} {slab : Nat} (clean : s.clean slab) {o : OpE} {i : Nat}
    (passes : s.descFails slab o (s.xfDescAt slab o i) = none)
    (waits : ((s.xfDescAt slab o i).usesHost && !(s.fn o.part).masters || s.sinkWaits o (s.xfDescAt slab o i)) = true) :
    s.runDesc slab o i = (nextFree s 1, .waits) := by
  simp only [State.runDesc_checks clean, passes, waits, if_true]

/-- One that reaches lines the host holds asks for them back (R354). -/
theorem State.runDesc_asks {s : State} {slab : Nat} (clean : s.clean slab) {o : OpE} {i : Nat}
    (passes : s.descFails slab o (s.xfDescAt slab o i) = none)
    (ready : ((s.xfDescAt slab o i).usesHost && !(s.fn o.part).masters || s.sinkWaits o (s.xfDescAt slab o i)) = false)
    (lines : s.descLines slab o (s.xfDescAt slab o i) ≠ []) :
    s.runDesc slab o i =
      ((nextFree s 1).setPort (s.port.backInvalidate (s.descLines slab o (s.xfDescAt slab o i))), .waits) := by
  obtain ⟨a, t, cons⟩ := List.exists_cons_of_ne_nil lines
  simp only [State.runDesc_checks clean, passes, ready, cons, Bool.false_eq_true, if_false]

/-- Any other moves its units. -/
theorem State.runDesc_goes {s : State} {slab : Nat} (clean : s.clean slab) {o : OpE} {i : Nat}
    (passes : s.descFails slab o (s.xfDescAt slab o i) = none)
    (ready : ((s.xfDescAt slab o i).usesHost && !(s.fn o.part).masters || s.sinkWaits o (s.xfDescAt slab o i)) = false)
    (lines : s.descLines slab o (s.xfDescAt slab o i) = []) :
    s.runDesc slab o i = (nextFree s 1).moveDesc slab o i (s.xfDescAt slab o i) := by
  simp only [State.runDesc_checks clean, passes, ready, lines, Bool.false_eq_true, if_false]

/-- With no transfer under way the row is that of the operation at the head of its queue (R71). -/
theorem xfRun_idle {s : State} {slab : Nat} (idle : (s.slab slab).transfer? = none) :
    xfRun slab s = fireRow 4 1 (fun s slab o => (s.runDescs slab o (fun _ => false) o.descsLeft).1) slab s := by
  simp only [xfRun, idle]

/-- A descriptor whose host stream is not insecure moves its units, where no injection refuses a translation (R359, R363). -/
theorem State.moveDesc_moves {s : State} {slab : Nat} (clean : s.clean slab) (o : OpE) (i : Nat) {d : XfDesc}
    (secure : d.usesHost = false ∨ s.port.ideIo ≠ 2) :
    s.moveDesc slab o i d = ((s.xfUnits slab o i d d.units).1,
      if (s.xfUnits slab o i d d.units).2 then .ended else .faulted) := by
  have open' : (d.usesHost && decide (s.port.ideIo = 2)) = false := by rcases secure with h | h <;> simp [h]
  have good : (if d.usesHost then s.atsInjected o.part else (false, s)) = (false, s) := by
    simp [State.atsInjected, State.opportunity_unarmed clean.2]
  simp only [State.moveDesc, open', good]
  rcases s.xfUnits slab o i d d.units with ⟨t, _ | _⟩ <;> rfl

/-! ### Units of a transfer (R62, R74, R215) -/

/-- The 512 bytes of a unit's source: what this slab's transfers have sent there, the share, host memory, or the pattern of a
fill. -/
def State.unitBytes (s : State) (slab : Nat) (o : OpE) (d : XfDesc) (r k : Nat) : List Byte :=
  let a := d.src.byte r k
  if d.sspace = 0 then (s.sentTo slab o slab a).getD (s.readShare o.part o.ctx o.seq slab a 512)
  else if d.sspace = 5 then s.readHost o.part a 512 else (List.replicate 64 (toLe 8 d.pattern)).flatten

/-- Outside a session host memory moves as it is (log 53). -/
theorem State.hostBytes_open {s : State} {p : Nat} (isOpen : (s.part p).session = none) (bs : List Byte) :
    s.hostBytes p bs = (s, bs) := by
  simp [State.hostBytes, isOpen]

/-- A side in SPACE 0 is in the slab's own share, one in SPACE 5 or 6 in no share and no flat memory (R62). -/
theorem XfDesc.src_slab_own {d : XfDesc} (own : d.sspace = 0) (slab : Nat) : d.src.slab slab = slab := by
  simp [XfSide.slab, XfDesc.src, own]

theorem XfDesc.dst_slab_own {d : XfDesc} (own : d.dspace = 0) (slab : Nat) : d.dst.slab slab = slab := by
  simp [XfSide.slab, XfDesc.dst, own]

/-- A read of a source that no session hides gives the source's bytes. -/
theorem State.xfRead_plain {s : State} {slab : Nat} (clean : s.clean slab) (o : OpE) (i : Nat) {d : XfDesc} (r k : Nat)
    (plain : d.sspace = 0 ∨ d.sspace = 6 ∨ (d.sspace = 5 ∧ (s.part o.part).session = none)) :
    ∃ n, s.xfRead slab o i d r k = (nextFree s n, some (s.unitBytes slab o d r k)) := by
  rcases plain with own | fill | ⟨host, isOpen⟩
  · have space : d.src.space = 0 := own
    cases sent : s.sentTo slab o slab (d.src.byte r k) with
    | some bs => exact ⟨0, by simp [State.xfRead, State.unitBytes, isShareSpace, space, own, XfDesc.src_slab_own own, sent, nextFree]; rfl⟩
    | none =>
      refine ⟨1, ?_⟩
      simp [State.xfRead, State.unitBytes, isShareSpace, space, own, XfDesc.src_slab_own own, sent,
        State.eccShare_one_clean clean]
      rfl
  · have space : d.src.space = 6 := fill
    exact ⟨0, by simp [State.xfRead, State.unitBytes, isShareSpace, isFlatSpace, space, fill, nextFree]; rfl⟩
  · have space : d.src.space = 5 := host
    exact ⟨0, by simp [State.xfRead, State.unitBytes, isShareSpace, isFlatSpace, space, host, State.hostBytes_open isOpen, nextFree]; rfl⟩

/-- Under a session a read of host memory gives free bytes (log 53). -/
theorem State.xfRead_session {s : State} (slab : Nat) {o : OpE} (i : Nat) {d : XfDesc} (r k : Nat) (host : d.sspace = 5)
    (hidden : (s.part o.part).session ≠ none) :
    s.xfRead slab o i d r k = (nextFree s 1, some (freeBytes s.free 512)) := by
  have space : d.src.space = 5 := host
  have isSome : (s.part o.part).session.isSome = true := Option.isSome_iff_ne_none.mpr hidden
  simp [State.xfRead, isShareSpace, isFlatSpace, space, State.hostBytes, isSome, State.draw, nextFree, State.readHost, Memory.read]

/-- A write to the slab's own share is seen there (R62, R215). -/
theorem State.xfWrite_own (s : State) (slab : Nat) (o : OpE) (i : Nat) {d : XfDesc} (r k : Nat) (bs : List Byte)
    (own : d.dspace = 0) : s.xfWrite slab o i d r k bs = (s.opWrite slab o (d.dst.byte r k) bs, true) := by
  have space : d.dst.space = 0 := own
  simp [State.xfWrite, isShareSpace, space, XfDesc.dst_slab_own own]

/-- A write to another slab's share waits there (R74). -/
theorem State.xfWrite_other (s : State) {slab : Nat} (o : OpE) (i : Nat) {d : XfDesc} (r k : Nat) (bs : List Byte)
    (share : d.dspace = 2) (other : d.dst.slab slab ≠ slab) :
    s.xfWrite slab o i d r k bs =
      ((s.sendTo slab o (d.dst.slab slab) (d.dst.byte r k) bs).noteWrite slab o 4 (d.dst.slab slab) (d.dst.byte r k) 512, true) := by
  have space : d.dst.space = 2 := share
  simp [State.xfWrite, isShareSpace, space, other]

/-- A write to host memory outside a session lies there. -/
theorem State.xfWrite_host {s : State} (slab : Nat) {o : OpE} (i : Nat) {d : XfDesc} (r k : Nat) (bs : List Byte)
    (host : d.dspace = 5) (isOpen : (s.part o.part).session = none) :
    s.xfWrite slab o i d r k bs =
      ((s.writeHost o.part (d.dst.byte r k) bs).noteWrite slab o 2 0 (d.dst.byte r k) 512, true) := by
  have space : d.dst.space = 5 := host
  simp [State.xfWrite, isShareSpace, isFlatSpace, space, State.hostBytes_open isOpen]

/-- A unit that is read and written has moved. -/
theorem State.xfUnits_one {s s1 s2 : State} {slab : Nat} {o : OpE} {i r k : Nat} {d : XfDesc} {bs : List Byte}
    (read : s.xfRead slab o i d r k = (s1, some bs)) (write : s1.xfWrite slab o i d r k bs = (s2, true)) :
    s.xfUnits slab o i d [(r, k)] = (s2, true) := by
  simp only [State.xfUnits, read, write]

/-- Settles O39: the row starts or goes on, a descriptor is checked in the order of R63, and a unit moves from its source to its
destination. -/
theorem transfersMoveTheirUnits : Obligations.TransfersMoveTheirUnits := by
  unfold Obligations.TransfersMoveTheirUnits
  refine ⟨fun slab s o => ⟨fun fires idle => ?_, fun busy op work => ?_, fun busy op => ?_, fun clean i => ?_⟩,
    fun slab s o i r k d clean => ?_⟩
  · exact congrArg Host.Outcome.next ((xfRun_idle idle).trans (fireRow_firing fires _))
  · exact congrArg Host.Outcome.next (by simp [xfRun, busy, op, work])
  · exact congrArg Host.Outcome.next (by simp [xfRun, busy, op])
  · refine ⟨fun code fails => ⟨1, State.runDesc_fails clean fails⟩,
      fun passes waits => ⟨1, State.runDesc_waits clean passes waits⟩,
      fun passes ready => ⟨fun lines => ⟨1, State.runDesc_asks clean passes ready lines⟩, fun lines secure => ⟨1, ?_⟩⟩⟩
    rw [State.runDesc_goes clean passes ready lines, State.moveDesc_moves (State.clean_nextFree clean 1) o i secure]
    rcases (nextFree s 1).xfUnits slab o i _ _ with ⟨t, _ | _⟩ <;> rfl
  · intro source target bytes one isOpen
    refine ⟨fun plain own => ?_, fun plain share other => ?_, fun plain host session => ?_, fun host own session => ?_⟩
    · obtain ⟨n, read⟩ := State.xfRead_plain clean o i r k plain
      exact ⟨n, State.xfUnits_one read (State.xfWrite_own _ slab o i r k _ own)⟩
    · obtain ⟨n, read⟩ := State.xfRead_plain clean o i r k plain
      exact ⟨n, State.xfUnits_one read (State.xfWrite_other _ o i r k _ share other)⟩
    · obtain ⟨n, read⟩ := State.xfRead_plain clean o i r k (plain.imp_right (Or.imp_right fun h => ⟨h, session⟩))
      exact ⟨n, State.xfUnits_one read (State.xfWrite_host slab i r k _ host session)⟩
    · exact State.xfUnits_one (State.xfRead_session slab i r k host session) (State.xfWrite_own _ slab o i r k _ own)

end Sys2Proof.Machine
end

section
/-! SUPPORT. Proofs/Telling.lean: what an operation changes by telling its flags and its NaN, and which flags those are (R130, R191,
R193). -/

namespace Sys2Proof.Machine

/-! ### What an operation tells (R130, R193) -/

/-- From s to t an operation of passage q has told its flags and its NaN, and the words that it wrote are no longer damaged: no
partition, no register and no other slab changed, and host memory only under diagnostic mode (R191, R193). -/
structure Tells (slab q : Nat) (s t : State) : Prop where
  parts : t.parts = s.parts
  port : t.port = s.port
  codec : t.codec = s.codec
  geode : t.geode = s.geode
  others : ∀ k, k ≠ slab → t.slab k = s.slab k
  regs : (t.slab slab).regs = (s.slab slab).regs
  diag : t.diagOf slab q = s.diagOf slab q
  host : s.diagOf slab q = false → t.host = s.host

theorem Tells.refl (slab q : Nat) (s : State) : Tells slab q s s := ⟨rfl, rfl, rfl, rfl, fun _ _ => rfl, rfl, rfl, fun _ => rfl⟩

theorem Tells.trans {slab q : Nat} {r s t : State} (h : Tells slab q r s) (k : Tells slab q s t) : Tells slab q r t :=
  ⟨k.parts.trans h.parts, k.port.trans h.port, k.codec.trans h.codec, k.geode.trans h.geode,
    fun i e => (k.others i e).trans (h.others i e), k.regs.trans h.regs, k.diag.trans h.diag,
    fun d => (k.host (h.diag.trans d)).trans (h.host d)⟩

/-- A change of the slab that keeps its passages and registers. -/
theorem State.modSlab_tells (s : State) (slab q : Nat) {f : Slab → Slab} (live : ∀ b, (f b).live = b.live)
    (regs : ∀ b, (f b).regs = b.regs) : Tells slab q s (s.modSlab slab f) where
  parts := rfl
  port := rfl
  codec := rfl
  geode := rfl
  others _ k := s.slab_modSlab_of_ne k.symm f
  regs := State.slab_modSlab_keeps Slab.regs s slab slab f regs
  diag := by simp only [State.diagOf, State.live?, State.slab_modSlab_keeps Slab.live s slab slab f live]
  host _ := rfl

theorem State.overwrite_tells (s : State) (slab q : Nat) (hit : Place → Bool) : Tells slab q s (s.overwrite slab hit) :=
  s.modSlab_tells slab q (fun _ => rfl) fun _ => rfl

theorem State.raiseFlags_tells (s : State) (slab q : Nat) (o : OpE) (fl : Nat) : Tells slab q s (s.raiseFlags o fl) := by
  unfold State.raiseFlags
  split
  · exact Tells.refl slab q s
  · exact ⟨rfl, rfl, rfl, rfl, fun _ _ => rfl, rfl, rfl, fun _ => rfl⟩

/-- Without diagnostic mode no NaN is reported. -/
theorem State.reportNan_service {s : State} {slab : Nat} {o : OpE} (service : s.diagOf slab o.seq = false) (unit : Nat) (m : Marks)
    (inj : Bool) : s.reportNan slab o unit m inj = s := by
  simp [State.reportNan, service]

theorem State.reportNan_told (s : State) (slab : Nat) (o : OpE) (unit : Nat) (m : Marks) (inj : Bool) :
    Told s (s.reportNan slab o unit m inj) := by
  unfold State.reportNan
  split
  · exact Told.refl s
  · unfold State.nanEvent
    exact State.emit_told (Told.refl s) ..

theorem State.reportNan_tells (s : State) (slab : Nat) (o : OpE) (unit : Nat) (m : Marks) (inj : Bool) :
    Tells slab o.seq s (s.reportNan slab o unit m inj) :=
  have told := s.reportNan_told slab o unit m inj
  { parts := told.parts
    port := told.port
    codec := told.codec
    geode := told.geode
    others := fun k _ => congrArg (nth · k) told.slabs
    regs := congrArg (fun l => (nth l slab).regs) told.slabs
    diag := by simp only [State.diagOf, State.live?, State.slab, told.slabs]
    host := fun service => by rw [State.reportNan_service service] }

theorem State.mark_tells (s : State) (slab : Nat) (o : OpE) (unit : Nat) (m : Marks) (inj : Bool) :
    Tells slab o.seq s (s.mark slab o unit m inj) :=
  (s.raiseFlags_tells slab o.seq o m.flags).trans (State.reportNan_tells ..)

/-- An entry of a list keeps its NaN with those of the operation, whose last entry reports them (R193). -/
theorem State.tellEntry_tells (s : State) (slab : Nat) (o : OpE) (m : Marks) (inj : Bool) :
    Tells slab o.seq s (s.tellEntry slab o m inj) := by
  have recorded (f : Slab → List ListRun) :
      Tells slab o.seq s ((s.raiseFlags o m.flags).modSlab slab fun b => { b with lists := f b }) :=
    (s.raiseFlags_tells slab o.seq o m.flags).trans (State.modSlab_tells _ _ _ (fun _ => rfl) fun _ => rfl)
  unfold State.tellEntry
  dsimp only
  split
  · split
    · exact (recorded _).trans (State.reportNan_tells ..)
    · exact recorded _
  · exact recorded _

theorem State.tell_tells (s : State) (slab : Nat) (o : OpE) (m : Marks) (inj : Bool) :
    Tells slab o.seq s (s.tell slab o m inj) := by
  unfold State.tell
  split
  · exact s.tellEntry_tells slab o m inj
  · exact s.mark_tells slab o 0 m inj

/-! ### The flags of a list of results -/

theorem bitOf_eq_testBit (x i : Nat) : bitOf x i = x.testBit i := by
  rw [bitOf, Nat.testBit_eq_decide_div_mod_eq, Nat.shiftRight_eq_div_pow]
  rfl

@[simp] theorem Marks.add_flags (a b : Marks) : (a.add b).flags = a.flags ||| b.flags := rfl

/-- A flag of an operation is raised by some element (R130). -/
theorem bitOf_marksOf (l : List (Nat × Nat)) (i : Nat) : bitOf (marksOf l).flags i = l.any fun x => bitOf x.2 i := by
  have folded (m : Marks) : bitOf (l.foldl (fun m x => m.add (markAt x.1 x.2)) m).flags i =
      (bitOf m.flags i || l.any fun x => bitOf x.2 i) := by
    induction l generalizing m with
    | nil => simp
    | cons x t ih =>
      rw [List.foldl_cons, ih, List.any_cons, ← Bool.or_assoc]
      simp only [bitOf_eq_testBit, Marks.add_flags, Nat.testBit_or, markAt]
  rw [marksOf, folded, show bitOf Marks.none.flags i = false by simp [Marks.none, bitOf_eq_testBit], Bool.false_or]

/-- ... whatever the places of the elements. -/
theorem bitOf_marksOf_placed {α : Type} (l : List α) (pos : Nat → Nat) (flags : α → Nat) (i : Nat) :
    bitOf (marksOf (l.zipIdx.map fun x => (pos x.2, flags x.1))).flags i = l.any fun x => bitOf (flags x) i := by
  rw [bitOf_marksOf, List.any_map]
  calc l.zipIdx.any (fun x => bitOf (flags x.1) i)
    _ = (l.zipIdx.map Prod.fst).any fun x => bitOf (flags x) i := by rw [List.any_map]; rfl
    _ = l.any fun x => bitOf (flags x) i := by rw [List.zipIdx_map_fst]

end Sys2Proof.Machine
end

section
/-! SUPPORT. Proofs/Products.lean: the products of the array: chunk sums, MM, MM_ARRIVE, MM_CHAIN, MM_LIST and its entries (R97 to
R100, R105, R106, R112, R113, R135, R146, R152, R154, R279, R544). -/

namespace Sys2Proof.Machine

/-! ### Products (R97 to R100) -/

/-- The elements that M rows and a tile leave in a slot, with their flags (R97). -/
def State.products (s : State) (slab : Nat) (o : OpE) (a w : Operand) (t : Target) : List Res :=
  let n := shapeN (arrShape o.bits.toNat)
  (List.range (arrM o.bits.toNat * n)).map fun e =>
    outElement a.cells w.cells (arrShape o.bits.toNat) t.acc (Memory.get (s.slot o.part o.ctx slab t.slot).vals (t.r0 * n + e))
      (e / n) (e % n)

/-- What a slot holds once elements have been written into it (R97, R100). -/
def AccSlot.take (b : AccSlot) (i : Nat) (rs : List Res) : AccSlot :=
  { b with vals := Memory.write b.vals i (rs.map Prod.fst), sat := b.sat || rs.any fun r => bitOf r.2 0 }

theorem State.productInjected_unarmed {s : State} (unarmed : s.talus.armed = []) (slab : Nat) (o : OpE) :
    s.productInjected slab o = (false, s) := by
  simp only [State.productInjected, State.nanInjected, State.opportunity_unarmed unarmed, ite_self]

theorem Memory.getD_read {w : Nat} (m : SMem w) (a : Nat) {n i : Nat} (h : i < n) :
    (Memory.read m a n).toArray.getD i 0 = Memory.get m (a + i) := by
  simp [Memory.read, h]

/-- The elements as a product makes them from the values that it has read. -/
theorem State.products_read (s : State) (slab : Nat) (o : OpE) (a w : Operand) (t : Target) :
    let n := shapeN (arrShape o.bits.toNat)
    let old := (Memory.read (s.slot o.part o.ctx slab t.slot).vals (t.r0 * n) (arrM o.bits.toNat * n)).toArray
    ((List.range (arrM o.bits.toNat * n)).map fun e =>
      outElement a.cells w.cells (arrShape o.bits.toNat) t.acc (old.getD e 0) (e / n) (e % n)) = s.products slab o a w t :=
  List.map_congr_left fun e h => by rw [Memory.getD_read _ _ (List.mem_range.mp h)]

@[simp] theorem withNan_false (rs : List Res) : withNan false rs = rs := rfl

/-- With no injection armed a product leaves its elements in its slot, and tells. -/
theorem State.multiply_unarmed {s : State} (unarmed : s.talus.armed = []) (slab : Nat) (o : OpE) (a w : Operand) (t : Target) :
    ∃ hit m, s.multiply slab o a w t =
      ((s.modSlot o.part o.ctx slab t.slot fun b =>
        b.take (t.r0 * shapeN (arrShape o.bits.toNat)) (s.products slab o a w t)).overwrite slab hit).tell slab o m false := by
  have sat := bitOf_marksOf_placed (s.products slab o a w t)
    (fun i => accPos t.slot (t.r0 * shapeN (arrShape o.bits.toNat) + i)) Prod.snd 0
  refine ⟨inSlot o.part o.ctx slab t.slot (t.r0 * shapeN (arrShape o.bits.toNat)) (arrM o.bits.toNat * shapeN (arrShape o.bits.toNat)),
    (a.marks.add w.marks).add (marksOf ((s.products slab o a w t).zipIdx.map fun r =>
      (accPos t.slot (t.r0 * shapeN (arrShape o.bits.toNat) + r.2), r.1.2))), ?_⟩
  simp only [State.multiply, State.productInjected_unarmed unarmed, State.products_read, withNan_false, AccSlot.take, sat]

/-- Settles O30: a product changes its slot, and tells. -/
theorem chunkSumsGoIntoTheSlot : Obligations.ChunkSumsGoIntoTheSlot := by
  unfold Obligations.ChunkSumsGoIntoTheSlot
  intro s slab o a w t unarmed x n rs r
  obtain ⟨hit, m, product⟩ := State.multiply_unarmed unarmed slab o a w t
  have told := (State.overwrite_tells (s.modSlot o.part o.ctx slab t.slot fun b => b.take (t.r0 * n) rs) slab o.seq hit).trans
    (State.tell_tells _ slab o m false)
  rw [show r = _ from product]
  exact ⟨told.parts, told.host, told.port, told.codec, told.geode, told.others, told.regs⟩

/-! ### Reads of an array operation that meet no damaged word (R135, R290) -/

/-- A draw of free values changes nothing of the share. -/
@[simp] theorem State.opBytes_nextFree (s : State) (k slab : Nat) (o : OpE) (a n : Nat) :
    (nextFree s k).opBytes slab o a n = s.opBytes slab o a n := rfl

theorem nextFree_nextFree (s : State) (m n : Nat) : nextFree (nextFree s m) n = nextFree s (m + n) := by
  simp [nextFree, State.setFree, Nat.add_assoc]

theorem State.clean_modSlab {s : State} {slab : Nat} (clean : s.clean slab) {f : Slab → Slab} (bad : ∀ b, (f b).bad = b.bad) :
    (s.modSlab slab f).clean slab :=
  ⟨(State.slab_modSlab_keeps Slab.bad s slab slab f bad).trans clean.1, clean.2⟩

theorem Slab.begin_bad (b : Slab) (o : OpE) : (b.begin o).bad = b.bad := by
  simp only [Slab.begin, Slab.takeFile]
  split <;> rfl

/-- An operation fires without a word becoming damaged. -/
theorem State.clean_fire {s : State} {slab : Nat} (clean : s.clean slab) (o : OpE) : (s.fire slab o).clean slab :=
  State.clean_modSlab (State.clean_modSlab clean fun b => b.begin_bad o) fun _ => rfl

/-- The expansion header of an operation's weights at byte w is bad (R135). -/
def State.badHeader (s : State) (slab : Nat) (o : OpE) (w : Nat) : Bool :=
  arrWfmt o.bits.toNat == 7 &&
    s.expandFails slab o w (shapeK (arrShape o.bits.toNat)) (shapeN (arrShape o.bits.toNat))

/-- A bad expansion header faults the context before anything is read (R135). -/
theorem State.arrayReads_faults {s : State} {slab : Nat} {o : OpE} {w : Nat} (bad : s.badHeader slab o w = true) (d1 : Nat)
    (areas : List (Nat × Nat)) (t : Target) (k : State → State) :
    s.arrayReads slab o w d1 areas t k = s.opFault slab o .expHeader d1 := if_pos bad

/-- With a good header and no damaged word an array operation goes on with what it reads (R135, R290, R108). -/
theorem State.arrayReads_goes {s : State} {slab : Nat} (clean : s.clean slab) {o : OpE} {w : Nat}
    (good : s.badHeader slab o w = false) (d1 : Nat) (areas : List (Nat × Nat)) (t : Target) (k : State → State) :
    ∃ n, s.arrayReads slab o w d1 areas t k = k (nextFree s n) := by
  have reads : s.arrayReads slab o w d1 areas t k = s.withShare slab o
      (areas ++ s.weightAreas slab o (arrWfmt o.bits.toNat) w (shapeK (arrShape o.bits.toNat)) (shapeN (arrShape o.bits.toNat)))
      fun s => if t.acc then s.withAcc slab o t.slot (t.r0 * shapeN (arrShape o.bits.toNat))
        (arrM o.bits.toNat * shapeN (arrShape o.bits.toNat)) k else k s := if_neg (Bool.not_eq_true _ ▸ good)
  obtain ⟨n, shared⟩ := State.withShare_clean clean o _ _
  refine ⟨n, reads.trans (shared.trans ?_)⟩
  rw [State.withAcc_clean (State.clean_nextFree clean n), ite_self]

/-- The descriptor of an array operation's fused part. -/
def State.fuseOf (s : State) (o : OpE) : Option Fuse := (s.progOf o).bind fun g => fuseAt g 0 o.bits.toNat

theorem State.product_faults {s : State} {slab : Nat} {o : OpE} {w : Nat} (bad : s.badHeader slab o w = true) (a d1 : Nat)
    (t : Target) : s.product slab o a w d1 t = s.opFault slab o .expHeader d1 := State.arrayReads_faults bad ..

/-- The product of the rows at byte a and the weights at byte w goes into the target (R97, R146). -/
theorem State.product_goes {s : State} {slab : Nat} (clean : s.clean slab) {o : OpE} {w : Nat}
    (good : s.badHeader slab o w = false) (a d1 : Nat) (t : Target) :
    ∃ n, s.product slab o a w d1 t =
      (nextFree s n).multiply slab o (s.streamed slab o (s.fuseOf o) a) (s.opWeights slab o w) t :=
  State.arrayReads_goes clean good ..

/-- An MM_CHAIN multiplies the drained slot (R152). -/
theorem mmChainAct_goes {s : State} {slab : Nat} (clean : s.clean slab) {o q : OpE} (drain : s.drainOf slab o = some q)
    (good : s.badHeader slab o (arrW o.bits.toNat * 512) = false) :
    ∃ n, mmChainAct s slab o = (nextFree s n).multiply slab o (s.chained slab o (s.fuseOf o) (accSlot q.bits.toNat))
      (s.opWeights slab o (arrW o.bits.toNat * 512)) { slot := arrSlot o.bits.toNat, acc := arrAcc o.bits.toNat, r0 := 0 } := by
  simp only [mmChainAct, drain, State.withAcc_clean clean]
  exact State.arrayReads_goes clean good ..

/-- An MM_ARRIVE multiplies the rows of its unit in the ring (R154, R279). -/
theorem mmArriveAct_goes {s : State} {slab : Nat} (clean : s.clean slab) {o : OpE} {g : Group} {q : Nat} {t : Gather}
    (group : s.groupQueue? o.part o.ctx (arrGroup o.bits.toNat) slab = some (g, q)) (gather : s.gatherAt? slab q = some t)
    (unit : arrChunk o.bits.toNat < t.total) (good : s.badHeader slab o (arrW o.bits.toNat * 512) = false) :
    ∃ n, mmArriveAct s slab o = (nextFree s n).multiply slab o
      (s.streamed slab o (s.fuseOf o) (g.unitAddr t.chunks (arrChunk o.bits.toNat)))
      (s.opWeights slab o (arrW o.bits.toNat * 512)) { slot := arrSlot o.bits.toNat, acc := arrAcc o.bits.toNat, r0 := 0 } := by
  simp only [mmArriveAct, group, gather, if_neg (Nat.not_le.mpr unit)]
  exact State.product_goes clean good ..

/-- Without its group it faults (R279). -/
theorem mmArriveAct_ungrouped {s : State} {slab : Nat} {o : OpE}
    (group : s.groupQueue? o.part o.ctx (arrGroup o.bits.toNat) slab = none) :
    mmArriveAct s slab o = s.opFault slab o .collDesc := by
  simp only [mmArriveAct, group]

/-! ### Lists (R112, R113, R544) -/

/-- The header of an MM_LIST (R112). -/
def State.listHeader (s : State) (slab : Nat) (o : OpE) : Nat := leNat (s.opBytes slab o (arrA o.bits.toNat * 512) 16)

/-- An MM_LIST whose header is good becomes the list in progress (R113). -/
theorem mmListAct_opens {s : State} {slab : Nat} (clean : s.clean slab) {o : OpE}
    (header : s.readable o.part o.ctx o.seq slab (arrA o.bits.toNat * 512) 16 = true)
    (reserved : fld (s.listHeader slab o) 127 8 = 0)
    (entries : s.readable o.part o.ctx o.seq slab (arrA o.bits.toNat * 512) (16 + 16 * (fld (s.listHeader slab o) 7 0 + 1)) = true) :
    ∃ n, mmListAct s slab o = (nextFree s n).modSlab slab fun b =>
      { b with lists := b.lists ++ [{ id := o.id, total := fld (s.listHeader slab o) 7 0 + 1, read := 0, slots := [], flags := 0,
                                      births := 0, pos := 0, inj := false }] } := by
  rw [State.listHeader] at reserved entries ⊢
  simp only [mmListAct, header]
  obtain ⟨n, read⟩ := State.withShare_clean clean o [(arrA o.bits.toNat * 512, 16)] _
  refine ⟨n, read.trans ?_⟩
  simp [reserved, entries]

/-- One whose header is out of reach faults (R113). -/
theorem mmListAct_unreadable {s : State} {slab : Nat} {o : OpE}
    (header : s.readable o.part o.ctx o.seq slab (arrA o.bits.toNat * 512) 16 = false) :
    mmListAct s slab o = s.opFault slab o .listEntry := by
  simp only [mmListAct, header, Bool.not_false, if_true]

/-- Changing the partitions keeps what the changed partition has as long as the change keeps it. -/
theorem State.part_modPart_keeps {α : Type} (p : Part → α) (s : State) (i j : Nat) (f : Part → Part)
    (keeps : ∀ b, p (f b) = p b) : p ((s.modPart i f).part j) = p (s.part j) := by
  by_cases same : i = j
  · subst same
    by_cases there : i < s.parts.length
    · rw [s.part_modPart_self there, keeps]
    · simp only [State.part, State.modPart, State.setParts_parts, nth, modAt]
      rw [List.modify_eq_self (by omega)]
  · rw [s.part_modPart_of_ne same]

/-- The first element that satisfies a test, after a change of some elements that keeps the test. -/
theorem find?_modWhere {α : Type} (l : List α) (p : α → Bool) {f : α → α} {q : α → Bool} (test : ∀ x, q (f x) = q x) :
    (modWhere l p f).find? q = (l.find? q).map fun x => if p x then f x else x := by
  have tests (x : α) : q (if p x then f x else x) = q x := by split <;> simp only [test]
  simp only [modWhere, List.find?_map, Function.comp_def, tests]

/-- A write of a slot keeps the program of every context. -/
theorem State.progOf_modSlot (s : State) (p c slab i : Nat) (f : AccSlot → AccSlot) (o : OpE) :
    (s.modSlot p c slab i f).progOf o = s.progOf o := by
  refine State.part_modPart_keeps (fun b => (b.ctx? o.ctx).bind Ctx.prog) s p o.part _ fun b => ?_
  refine (congrArg (Option.bind · Ctx.prog) (find?_modWhere b.ctxs _ fun _ => by rfl)).trans ?_
  rw [Option.bind_map]
  refine congrArg _ (funext fun x => ?_)
  exact (apply_ite Ctx.prog ..).trans (ite_self _)

/-- The list in progress on a slab, with its operation, in a module that works (R544). -/
structure State.Lists (s : State) (slab : Nat) (r : ListRun) (o : OpE) : Prop where
  list : (s.slab slab).lists.find? (fun l => decide (l.read < l.total)) = some r
  op : (s.slab slab).started.find? (fun p => p.id == r.id) = some o
  run : s.running = true

/-- The next entry of a list (R112). -/
def State.nextEntry (s : State) (slab : Nat) (o : OpE) (r : ListRun) : ListEntry :=
  listEntryOf (leNat (s.opBytes slab o (arrA o.bits.toNat * 512 + 16 + 16 * r.read) 16))

/-- What the row does with the next entry once it has read it: its checks (R113, R135), and its product. -/
def State.takeEntry (s : State) (slab : Nat) (o : OpE) (r : ListRun) : State :=
  match s.entryFails slab o (s.fuseOf o) (s.nextEntry slab o r) with
  | some code => s.opFault slab o code r.read
  | none =>
    if s.badHeader slab o ((s.nextEntry slab o r).w * 512) then s.opFault slab o .expHeader r.read
    else s.runEntry slab o r (s.nextEntry slab o r)

/-- While an earlier accumulator operation on the entry's slot has not ended, the list waits (R106). -/
theorem mmListEntryRead_waits {s : State} {slab : Nat} {r : ListRun} {o : OpE} (lists : s.Lists slab r o)
    (busy : (s.slab slab).slotFree o (s.nextEntry slab o r).slot = false) : mmListEntryRead slab s = s := by
  obtain ⟨list, op, run⟩ := lists
  rw [State.nextEntry] at busy
  simp only [mmListEntryRead, list, op, run, busy, Bool.not_true, Bool.not_false, Bool.or_true, if_true]

/-- Otherwise the entry is read and taken; the read draws free values where no word is damaged (R544). -/
theorem mmListEntryRead_takes {s : State} {slab : Nat} (clean : s.clean slab) {r : ListRun} {o : OpE} (lists : s.Lists slab r o)
    (free : (s.slab slab).slotFree o (s.nextEntry slab o r).slot = true) :
    ∃ n, mmListEntryRead slab s = (nextFree s n).takeEntry slab o r := by
  obtain ⟨list, op, run⟩ := lists
  rw [State.nextEntry] at free
  simp only [mmListEntryRead, list, op, run, free, Bool.not_true, Bool.or_false, Bool.false_eq_true, if_false]
  exact State.withShare_clean clean o _ fun s => s.takeEntry slab o r

/-- An entry that fails a check faults with its number (R113). -/
theorem State.takeEntry_fails {s : State} {slab : Nat} {r : ListRun} {o : OpE} {code : St}
    (fails : s.entryFails slab o (s.fuseOf o) (s.nextEntry slab o r) = some code) :
    s.takeEntry slab o r = s.opFault slab o code r.read := by
  simp only [State.takeEntry, fails]

/-- So does one with a bad expansion header (R135). -/
theorem State.takeEntry_faults {s : State} {slab : Nat} {r : ListRun} {o : OpE}
    (passes : s.entryFails slab o (s.fuseOf o) (s.nextEntry slab o r) = none)
    (bad : s.badHeader slab o ((s.nextEntry slab o r).w * 512) = true) :
    s.takeEntry slab o r = s.opFault slab o .expHeader r.read := by
  simp only [State.takeEntry, passes, bad, if_true]

/-- Any other runs. -/
theorem State.takeEntry_runs {s : State} {slab : Nat} {r : ListRun} {o : OpE}
    (passes : s.entryFails slab o (s.fuseOf o) (s.nextEntry slab o r) = none)
    (good : s.badHeader slab o ((s.nextEntry slab o r).w * 512) = false) :
    s.takeEntry slab o r = s.runEntry slab o r (s.nextEntry slab o r) := by
  simp only [State.takeEntry, passes, good, Bool.false_eq_true, if_false]

/-- The write of a list entry's product (R112). -/
def OpE.entryWrite (o : OpE) (e : ListEntry) : ArrWrite :=
  { slot := e.slot, acc := e.acc, cols := shapeN (arrShape o.bits.toNat), rows := e.row0 + arrM o.bits.toNat
    chunks := shapeChunks (arrShape o.bits.toNat) }

/-- The state in which a list entry's product runs: its slot's extent and count take the write in, and the list has read one
entry more (R105, R544). -/
def State.entered (s : State) (slab : Nat) (o : OpE) (r : ListRun) (e : ListEntry) : State :=
  (s.modSlot o.part o.ctx slab e.slot fun b => b.after (o.entryWrite e)).modSlab slab fun b =>
    { b with lists := modWhere b.lists (fun l => l.id == r.id) fun l => { l with read := l.read + 1, slots := e.slot :: l.slots } }

theorem State.fuseOf_entered (s : State) (slab : Nat) (o : OpE) (r : ListRun) (e : ListEntry) :
    (s.entered slab o r e).fuseOf o = s.fuseOf o :=
  congrArg (·.bind fun g => fuseAt g 0 o.bits.toNat) (s.progOf_modSlot o.part o.ctx slab e.slot _ o)

/-- An entry's product goes into the entry's slot (R112). -/
theorem State.runEntry_goes {s : State} {slab : Nat} (clean : s.clean slab) {o : OpE} {r : ListRun} {e : ListEntry}
    (good : (s.entered slab o r e).badHeader slab o (e.w * 512) = false) :
    ∃ n, s.runEntry slab o r e = (nextFree (s.entered slab o r e) n).multiply slab o
      ((s.entered slab o r e).streamed slab o (s.fuseOf o) (e.a * 512)) ((s.entered slab o r e).opWeights slab o (e.w * 512))
      { slot := e.slot, acc := e.acc, r0 := e.row0 } := by
  have kept : (s.entered slab o r e).clean slab :=
    State.clean_modSlab (s := s.modSlot o.part o.ctx slab e.slot _) clean fun _ => rfl
  rw [← s.fuseOf_entered slab o r e]
  exact State.product_goes kept good ..

/-- Settles O31: each row's operation fires and multiplies, or faults; a list opens, and its entries wait, fault or run. -/
theorem arrayProducts : Obligations.ArrayProducts := by
  unfold Obligations.ArrayProducts
  refine ⟨fun slab s o clean => ?_, fun slab s o clean => ?_⟩
  · intro x a d w into badHeader
    have fired : a.clean slab := State.clean_fire clean o
    have fires {op : Nat} (fire : s.firing slab 0 op = some o) (act : State → Nat → OpE → State) :
        fireRow 0 op act slab s = act a slab o := fireRow_firing fire act
    refine ⟨fun mm => ⟨fun good => ?_, fun bad => ?_⟩,
      fun arrive => ⟨fun g q t group gather unit good => ?_, fun group => ?_⟩, fun chain => ?_⟩
    · obtain ⟨n, acts⟩ := State.product_goes fired good (arrA x * 512) 0xFFFFFFFF into
      exact ⟨n, congrArg Host.Outcome.next ((fires mm mmAct).trans acts)⟩
    · exact congrArg Host.Outcome.next ((fires mm mmAct).trans (State.product_faults bad (arrA x * 512) 0xFFFFFFFF into))
    · obtain ⟨n, acts⟩ := mmArriveAct_goes fired group gather unit good
      exact ⟨n, congrArg Host.Outcome.next ((fires arrive mmArriveAct).trans acts)⟩
    · exact congrArg Host.Outcome.next ((fires arrive mmArriveAct).trans (mmArriveAct_ungrouped group))
    · intro b q drain good
      obtain ⟨n, acts⟩ := mmChainAct_goes (State.clean_join clean o) drain good
      exact ⟨n, congrArg Host.Outcome.next ((partnerRow_joining chain mmChainAct).trans acts)⟩
  · intro x a h p can
    refine ⟨fun fire => ⟨fun header reserved entries => ?_, fun header => ?_⟩, fun r list op run => ?_⟩
    · obtain ⟨n, acts⟩ := mmListAct_opens (State.clean_fire clean o) header reserved entries
      exact ⟨n, congrArg Host.Outcome.next ((fireRow_firing fire mmListAct).trans acts)⟩
    · exact congrArg Host.Outcome.next ((fireRow_firing fire mmListAct).trans (mmListAct_unreadable header))
    · intro e d k n
      have lists : s.Lists slab r o := ⟨list, op, run⟩
      refine ⟨fun busy => congrArg Host.Outcome.next (mmListEntryRead_waits lists busy), fun free => ?_⟩
      obtain ⟨m, takes⟩ := mmListEntryRead_takes clean lists free
      refine ⟨fun code fails => ⟨m, ?_⟩, fun passes => ⟨fun bad => ⟨m, ?_⟩, fun good => ?_⟩⟩
      · exact congrArg Host.Outcome.next (takes.trans (State.takeEntry_fails fails))
      · exact congrArg Host.Outcome.next (takes.trans (State.takeEntry_faults passes bad))
      · intro w b enters
        obtain ⟨i, runs⟩ := State.runEntry_goes (s := nextFree s m) (r := r) (e := e) clean enters
        refine ⟨m + i, congrArg Host.Outcome.next ((takes.trans (State.takeEntry_runs passes good)).trans (runs.trans ?_))⟩
        rw [← nextFree_nextFree]
        rfl

end Sys2Proof.Machine
end

section
/-! SUPPORT. Proofs/Accumulator.lean: the accumulator unit's own operations: ACC_CLEAR, ACC_SATCLR, ACC_SPILL and ACC_RESUME
(R104, R110, R111). -/

namespace Sys2Proof.Machine

/-! ### The accumulator unit (R104, R110, R111) -/

/-- What a write of the share or of a slot makes of the partitions depends on the partitions alone. -/
theorem State.parts_opWrite {s t : State} (parts : s.parts = t.parts) (slab : Nat) (o : OpE) (a : Nat) (bs : List Byte) :
    (s.opWrite slab o a bs).parts = (t.writeShare o.part o.ctx slab a bs).parts := congrArg (modAt · o.part _) parts

theorem State.parts_rewriteSlot {s t : State} (parts : s.parts = t.parts) (slab : Nat) (o : OpE) (f : AccSlot → AccSlot) :
    (s.rewriteSlot slab o f).parts = (t.modSlot o.part o.ctx slab (accSlot o.bits.toNat) f).parts :=
  congrArg (modAt · o.part _) parts

@[simp] theorem State.opWrite_host (s : State) (slab : Nat) (o : OpE) (a : Nat) (bs : List Byte) :
    (s.opWrite slab o a bs).host = s.host := rfl

@[simp] theorem State.rewriteSlot_host (s : State) (slab : Nat) (o : OpE) (f : AccSlot → AccSlot) :
    (s.rewriteSlot slab o f).host = s.host := rfl

@[simp] theorem State.opWrite_flights (s : State) (slab : Nat) (o : OpE) (a : Nat) (bs : List Byte) :
    (s.opWrite slab o a bs).flights = s.flights := rfl

@[simp] theorem State.rewriteSlot_flights (s : State) (slab : Nat) (o : OpE) (f : AccSlot → AccSlot) :
    (s.rewriteSlot slab o f).flights = s.flights := rfl

/-- A change of a passage keeps its mode as long as it keeps its number and the mode (R191). -/
theorem State.diagOf_modLive (s : State) (slab seq : Nat) {f : Live → Live} (num : ∀ l, (f l).seq = l.seq)
    (diag : ∀ l, (f l).diag = l.diag) (i q : Nat) : (s.modLive slab seq f).diagOf i q = s.diagOf i q := by
  refine State.slab_modSlab_keeps (fun b => (b.live.find? fun l => l.seq == q).any Live.diag) s slab i _ fun b => ?_
  refine (congrArg (Option.any Live.diag) (find?_modWhere b.live _ fun l => by rw [num])).trans ?_
  rw [Option.any_map]
  refine congrArg (Option.any · _) (funext fun l => ?_)
  exact (apply_ite Live.diag _ _ _).trans (by rw [diag, ite_self])

theorem State.diagOf_fire (s : State) (slab : Nat) (o : OpE) (q : Nat) : (s.fire slab o).diagOf slab q = s.diagOf slab q := by
  have begins : (s.modSlab slab fun b => b.begin o).diagOf slab q = s.diagOf slab q := by
    refine State.slab_modSlab_keeps (fun b => (b.live.find? fun l => l.seq == q).any Live.diag) s slab slab _ fun b => ?_
    simp only [Slab.begin, Slab.takeFile]
    split <;> rfl
  exact (State.diagOf_modLive _ slab o.seq (fun _ => by rfl) (fun _ => by rfl) slab q).trans begins

theorem State.diagOf_rewriteSlot (s : State) (slab : Nat) (o : OpE) (f : AccSlot → AccSlot) (q : Nat) :
    (s.rewriteSlot slab o f).diagOf slab q = s.diagOf slab q :=
  (State.overwrite_tells (s.modSlot o.part o.ctx slab (accSlot o.bits.toNat) f) slab q _).diag

theorem State.diagOf_opWrite (s : State) (slab : Nat) (o : OpE) (a : Nat) (bs : List Byte) (q : Nat) :
    (s.opWrite slab o a bs).diagOf slab q = s.diagOf slab q :=
  (State.diagOf_modLive _ slab o.seq (fun _ => by rfl) (fun _ => by rfl) slab q).trans
    (State.overwrite_tells (s.putShare o.part o.ctx slab fun m => Memory.write m a bs) slab q _).diag

/-- The words of one half of a long-sum entry (R110). -/
def State.entryWords (s : State) (slab : Nat) (o : OpE) (a : Nat) : List Word :=
  rowWordsOf (s.opBytes slab o a (2 ^ 21)) slotValues

/-- The pairs of the operation's long-sum entry with its slot added (R111). -/
def State.spilled (s : State) (slab : Nat) (o : OpE) : List Pair :=
  let a := s.entryAddr slab o
  let vs := Memory.read (s.slot o.part o.ctx slab (accSlot o.bits.toNat)).vals 0 slotValues
  ((s.entryWords slab o a).zip ((s.entryWords slab o (a + 2 ^ 21)).zip vs)).map fun x => spillOne x.1 x.2.1 x.2.2

/-- The state in which an ACC_SPILL has written its entry and emptied its slot (R111). -/
def State.spill (s : State) (slab : Nat) (o : OpE) (a : Nat) (ps : List Pair) : State :=
  ((s.opWrite slab o a (wordBytes (ps.map Pair.hi))).opWrite slab o (a + 2 ^ 21) (wordBytes (ps.map Pair.lo))).rewriteSlot slab o
    fun b => { b with vals := [], sat := b.sat || ps.any fun p => bitOf p.flags 0 }

theorem State.diagOf_spill (s : State) (slab : Nat) (o : OpE) (a : Nat) (ps : List Pair) (q : Nat) :
    (s.spill slab o a ps).diagOf slab q = s.diagOf slab q := by
  rw [State.spill, State.diagOf_rewriteSlot, State.diagOf_opWrite, State.diagOf_opWrite]

theorem State.spill_host (s : State) (slab : Nat) (o : OpE) (a : Nat) (ps : List Pair) : (s.spill slab o a ps).host = s.host := by
  simp only [State.spill, State.rewriteSlot_host, State.opWrite_host]

theorem State.parts_spill {s t : State} (parts : s.parts = t.parts) (slab : Nat) (o : OpE) (a : Nat) (ps : List Pair) :
    (s.spill slab o a ps).parts = (((t.writeShare o.part o.ctx slab a (wordBytes (ps.map Pair.hi))).writeShare o.part o.ctx slab
      (a + 2 ^ 21) (wordBytes (ps.map Pair.lo))).modSlot o.part o.ctx slab (accSlot o.bits.toNat) fun b =>
        { b with vals := [], sat := b.sat || ps.any fun p => bitOf p.flags 0 }).parts :=
  State.parts_rewriteSlot (State.parts_opWrite (State.parts_opWrite parts slab o _ _) slab o _ _) slab o _

/-- ACC_SPILL adds the slot into its entry, and tells (R111). -/
theorem accSpillAct_spills {s : State} {slab : Nat} (clean : s.clean slab) (o : OpE) :
    ∃ n m, accSpillAct s slab o = ((nextFree s n).spill slab o (s.entryAddr slab o) (s.spilled slab o)).mark slab o 1 m false := by
  have sat := bitOf_marksOf_placed (s.spilled slab o) (fun i => sharePos (s.entryAddr slab o + 4 * i)) Pair.flags 0
  simp only [accSpillAct, State.withAcc_clean clean]
  obtain ⟨n, read⟩ := State.withShare_clean clean o [(s.entryAddr slab o, 2 ^ 22)] _
  refine ⟨n, marksOf ((s.spilled slab o).zipIdx.map fun p => (sharePos (s.entryAddr slab o + 4 * p.2), p.1.flags)), read.trans ?_⟩
  rw [State.spill, ← sat]
  rfl

/-- ACC_RESUME takes hi into the slot and leaves it +0 (R111). -/
theorem accResumeAct_resumes {s : State} {slab : Nat} (clean : s.clean slab) (o : OpE) :
    ∃ n, accResumeAct s slab o =
      ((nextFree s n).opWrite slab o (s.entryAddr slab o) (wordBytes (List.replicate slotValues 0))).rewriteSlot slab o
        fun b => { b with vals := Memory.cells 0 (s.entryWords slab o (s.entryAddr slab o)) } :=
  State.withShare_clean clean o _ _

/-- Settles O32: each row's operation fires and changes its slot and its long-sum entry. -/
theorem accumulatorOperations : Obligations.AccumulatorOperations := by
  unfold Obligations.AccumulatorOperations
  intro slab s o clean k a e hi lo
  have fired : a.clean slab := State.clean_fire clean o
  have fires {op : Nat} (fire : s.firing slab 1 op = some o) (act : State → Nat → OpE → State) :
      Host.Outcome.next (fireRow 1 op act slab s) = (.next (act a slab o) : Host.Outcome State Fault Refusal) :=
    congrArg Host.Outcome.next (fireRow_firing fire act)
  refine ⟨fun clear => ⟨_, fires clear accClearAct, rfl, rfl, rfl⟩, fun satclr => fires satclr accSatclrAct, fun spill service => ?_,
    fun resume => ?_⟩
  · intro vs ps
    obtain ⟨n, m, acts⟩ := accSpillAct_spills fired o
    rw [show a.spilled slab o = ps from rfl, show a.entryAddr slab o = e from rfl] at acts
    have told := State.mark_tells ((nextFree a n).spill slab o e ps) slab o 1 m false
    have quiet : ((nextFree a n).spill slab o e ps).diagOf slab o.seq = false :=
      (State.diagOf_spill _ slab o e ps o.seq).trans ((State.diagOf_fire s slab o o.seq).trans service)
    refine ⟨_, (fires spill accSpillAct).trans (congrArg Host.Outcome.next acts), ?_, ?_⟩
    · exact (told.host quiet).trans (State.spill_host ..)
    · exact told.parts.trans (State.parts_spill (s := nextFree a n) rfl slab o e ps)
  · obtain ⟨n, acts⟩ := accResumeAct_resumes fired o
    have wrote := State.parts_opWrite (s := nextFree a n) (t := s) rfl slab o e (wordBytes (List.replicate slotValues 0))
    refine ⟨_, (fires resume accResumeAct).trans (congrArg Host.Outcome.next acts), ?_, ?_, State.parts_rewriteSlot wrote slab o _⟩
    · exact (State.rewriteSlot_host ..).trans (State.opWrite_host ..)
    · exact (State.rewriteSlot_flights ..).trans (State.opWrite_flights ..)

end Sys2Proof.Machine
end

section
/-! SUPPORT. Proofs/VectorRows.lean: what a band operation of vector A writes and tells, the element-wise operations, conversions
and dither, the row reductions and the convolutions (R130, R136, R137, R166, R175 to R182, R193 to R197). -/

namespace Sys2Proof.Machine

/-! ### The result of a band operation (R130, R166, R193) -/

theorem marksOf_flags (l : List (Nat × Nat)) : (marksOf l).flags = l.foldl (fun a x => a ||| x.2) 0 :=
  (List.foldl_hom Marks.flags fun _ _ => rfl).symm

/-- The flags of a list of elements, whatever their places. -/
theorem marksOf_placed_flags {α : Type} (l : List α) (pos : Nat → Nat) (flags : α → Nat) :
    (marksOf (l.zipIdx.map fun x => (pos x.2, flags x.1))).flags = l.foldl (fun a x => a ||| flags x) 0 := by
  rw [marksOf_flags, List.foldl_map]
  calc l.zipIdx.foldl (fun a x => a ||| flags x.1) 0
    _ = (l.zipIdx.map Prod.fst).foldl (fun a x => a ||| flags x) 0 := by rw [List.foldl_map]
    _ = l.foldl (fun a x => a ||| flags x) 0 := by rw [List.zipIdx_map_fst]

theorem modWhere_id {α : Type} (l : List α) (p : α → Bool) : modWhere l p (fun x => x) = l := by
  simp [modWhere]

/-- Flags go to the FLAGS of the run; no flag at all leaves them as they are (R130). -/
theorem State.raiseFlags_eq (s : State) (o : OpE) (fl : Nat) :
    s.raiseFlags o fl = s.modFlight o.seq fun f => { f with flags := f.flags ||| fl % 16 } := by
  unfold State.raiseFlags
  split
  · next none =>
    subst none
    simp only [Nat.zero_mod, Nat.or_zero, State.modFlight, modWhere_id]
    rfl
  · rfl

/-- In service mode an operation tells its flags and nothing else (R193). -/
theorem State.mark_service {s : State} {slab : Nat} {o : OpE} (service : s.diagOf slab o.seq = false) (unit : Nat) (m : Marks)
    (inj : Bool) : s.mark slab o unit m inj = s.modFlight o.seq fun f => { f with flags := f.flags ||| m.flags % 16 } := by
  rw [State.mark, State.reportNan_service ((s.raiseFlags_tells slab o.seq o m.flags).diag.trans service), State.raiseFlags_eq]

theorem State.diagOf_putRegs (s : State) (slab g : Nat) (vs : List Word) (i q : Nat) :
    (s.putRegs slab g vs).diagOf i q = s.diagOf i q :=
  State.slab_modSlab_keeps (fun b : Slab => (b.live.find? fun l : Live => l.seq == q).any Live.diag) s slab i _ fun _ => rfl

theorem State.nanInjected_unarmed {s : State} (unarmed : s.talus.armed = []) (o : OpE) : s.nanInjected o = (false, s) := by
  simp only [State.nanInjected, State.opportunity_unarmed unarmed]

/-- With no injection armed, in service mode, a band result goes to its registers and its flags to the run (R130, R166). -/
theorem State.putBand_service {s : State} (unarmed : s.talus.armed = []) {slab : Nat} {o : OpE}
    (service : s.diagOf slab o.seq = false) (g : Nat) (rs : List Res) :
    s.putBand slab o g rs = (s.putRegs slab g (rs.map Prod.fst)).modFlight o.seq fun f =>
      { f with flags := f.flags ||| (rs.foldl (fun a r => a ||| r.2) 0) % 16 } := by
  simp only [State.putBand, State.nanInjected_unarmed unarmed, withNan_false]
  rw [State.mark_service ((s.diagOf_putRegs slab g _ slab o.seq).trans service)]
  simp only [marksOf_placed_flags rs (fun i => regPos (g * 1024 + i)) Prod.snd]

/-! ### Bands and their rows (R166, R167) -/

theorem Slab.getD_band (b : Slab) (g n : Nat) {e : Nat} (inside : e < 1024 * n) : (b.band g n).getD e 0 = b.reg (g * 1024 + e) :=
  Memory.getD_read b.regs (g * 1024) inside

/-- Row r of a band: 32 elements, register by register. -/
def Slab.row (b : Slab) (g r : Nat) : List Word := Memory.read b.regs (g * 1024 + 32 * r) 32

theorem Memory.read_add {w : Nat} (m : SMem w) (a k l : Nat) :
    Memory.read m a (k + l) = Memory.read m a k ++ Memory.read m (a + k) l := by
  simp only [Memory.read, List.range_add, List.map_append, List.map_map, Function.comp_def, Nat.add_assoc]

theorem Memory.length_read {w : Nat} (m : SMem w) (a n : Nat) : (Memory.read m a n).length = n := by simp [Memory.read]

/-- Runs of k cells after one another are the pieces of the whole run. -/
theorem chunksOf_read {w : Nat} (m : SMem w) (k n a : Nat) :
    chunksOf k n (Memory.read m a (k * n)) = (List.range n).map fun i => Memory.read m (a + k * i) k := by
  induction n generalizing a with
  | zero => rfl
  | succ n ih =>
    have first := Memory.length_read m a k
    rw [Nat.mul_succ, Nat.add_comm (k * n), Memory.read_add, chunksOf, List.take_left' first, List.drop_left' first, ih,
      List.range_succ_eq_map, List.map_cons, List.map_map]
    simp only [Function.comp_def, Nat.mul_succ, Nat.mul_zero, Nat.add_zero, Nat.add_assoc, Nat.add_comm k]

theorem bandRows_band (b : Slab) (g n : Nat) : bandRows (b.band g n) n = (List.range (32 * n)).map (b.row g) := by
  rw [bandRows, Slab.band, show 1024 * n = 32 * (32 * n) by omega]
  exact chunksOf_read b.regs 32 (32 * n) (g * 1024)

/-! ### Element-wise operations (R175 to R178) -/

/-- The second operand of element e in the registers (R176). -/
def Slab.second (b : Slab) (x e : Nat) : Word :=
  match fld (vAux x) 1 0 with
  | 0 => b.reg (vSrc2 x * 1024 + e)
  | 1 => widen bf16 (vImm x)
  | 2 => b.reg (vSrc2 x * 1024 + (e / 32 % 32 * 32 + fld (vAux x) 7 3))
  | _ => b.reg (vSrc2 x * 1024 + (e / 1024 * 1024 + e % 32))

theorem fld_lt (x hi lo : Nat) : fld x hi lo < 2 ^ (hi + 1 - lo) := Nat.mod_lt _ (Nat.two_pow_pos _)

/-- Every mode of BMODE takes an element of SRC2's band (R176). -/
theorem secondOperand_band (b : Slab) (x : Nat) {e : Nat} (inside : e < 1024 * vN x) :
    secondOperand x (b.band (vSrc2 x) (vN x)) e = b.second x e := by
  have column : fld (vAux x) 7 3 < 32 := fld_lt _ 7 3
  unfold secondOperand Slab.second
  generalize fld (vAux x) 1 0 = mode
  match mode with
  | 0 => exact b.getD_band _ _ inside
  | 1 => rfl
  | 2 => exact b.getD_band _ _ (by omega)
  | _ + 3 => exact b.getD_band _ _ (by omega)

/-- The elements of the destination of an element-wise operation. -/
def Slab.elementWise (b : Slab) (x : Nat) (f : Word → Word → Word → Res) : List Res :=
  (List.range (1024 * vN x)).map fun e => f (b.reg (vSrc1 x * 1024 + e)) (b.second x e) (b.reg (vDst x * 1024 + e))

theorem State.elementWise_eq (s : State) (slab : Nat) (o : OpE) (f : Word → Word → Word → Res) :
    s.elementWise slab o f = s.putBand slab o (vDst o.bits.toNat) ((s.slab slab).elementWise o.bits.toNat f) := by
  refine congrArg (s.putBand slab o _) (List.map_congr_left fun e mem => ?_)
  have inside := List.mem_range.mp mem
  rw [Slab.getD_band _ _ _ inside, Slab.getD_band _ _ _ inside, secondOperand_band _ _ inside]

/-- A unit row whose operation can fire goes where its operation goes. -/
theorem next_fireRow {s t : State} {slab u op : Nat} {o : OpE} {act : State → Nat → OpE → State}
    (acts : act (s.fire slab o) slab o = t) (fire : s.firing slab u op = some o) :
    Host.Outcome.next (fireRow u op act slab s) = (.next t : Host.Outcome State Fault Refusal) :=
  congrArg Host.Outcome.next ((fireRow_firing fire act).trans acts)

/-- Settles O34: a band result in service mode, and each row as its operation of the elements. -/
theorem elementWiseOperations : Obligations.ElementWiseOperations := by
  unfold Obligations.ElementWiseOperations
  refine ⟨fun s slab o g rs unarmed service => State.putBand_service unarmed service g rs, ?_⟩
  intro slab s o x a reg num second
  have row {op : Nat} {act : State → Nat → OpE → State} (f : Word → Word → Word → Res)
      (acts : act a slab o = a.elementWise slab o f) (fire : s.firing slab 2 op = some o) :
      Host.Outcome.next (fireRow 2 op act slab s) =
        (.next (a.putBand slab o (vDst x) ((a.slab slab).elementWise x f)) : Host.Outcome State Fault Refusal) :=
    next_fireRow (acts.trans (a.elementWise_eq slab o f)) fire
  simp only [List.forall_mem_cons, List.not_mem_nil, IsEmpty.forall_iff, implies_true, and_true]
  exact ⟨row (act := vAddAct) (fun v w _ => fAdd v w) rfl, row (act := vSubAct) (fun v w _ => fSub v w) rfl,
    row (act := vMulAct) (fun v w _ => fMul v w) rfl, row (act := vFmaAct) (fun v w d => fFma v w d) rfl,
    row (act := vMaxAct) (fun v w _ => (fMax num v w, 0)) rfl, row (act := vMinAct) (fun v w _ => (fMin num v w, 0)) rfl,
    row (act := vAbsAct) (fun v _ _ => (fAbs v, 0)) rfl, row (act := vNegAct) (fun v _ _ => (fNeg v, 0)) rfl,
    row (act := vScaleAct) (fun v _ _ => fScale v (signedOf 16 (vImm x))) rfl,
    row (act := vAddiAct) (fun v _ _ => fAdd v (widen bf16 (vImm x))) rfl, row (act := vGaddAct) (fun v w _ => fAdd v w) rfl⟩

/-! ### Conversion and dither (R136, R137, R179) -/

theorem vCvtAct_eq (s : State) (slab : Nat) (o : OpE) :
    let x := o.bits.toNat
    vCvtAct s slab o = s.putBand slab o (vDst x) ((List.range (32 * vN x)).flatMap fun r =>
      cvtRow (fld (vAux x) 2 0) (vFmt x) ((s.slab slab).row (vSrc1 x) r)) := by
  simp only [vCvtAct, bandRows_band, List.flatMap_map]

theorem vDitherAct_eq (s : State) (slab : Nat) (o : OpE) :
    let x := o.bits.toNat
    vDitherAct s slab o = s.putBand slab o (vDst x) ((List.range (32 * vN x)).flatMap fun r =>
      ditherRow (vFmt x) (fld (vAux x) 4 0) ((s.slab slab).row (vSrc1 x) r) ((s.slab slab).row (vSrc2 x) r)) := by
  simp only [vDitherAct, bandRows_band, List.zip_map', List.flatMap_map]

/-! ### Row reductions (R180 to R182) -/

/-- Row i of a band as 32-column tiles, one per register (R167). -/
def Slab.tiles (b : Slab) (g n i : Nat) : List (List Word) := (List.range n).map fun t => b.row g (32 * t + i)

/-- The first three elements of row i of a register, which hold its accumulated results (R180). -/
def Slab.held (b : Slab) (g i : Nat) : List Word := Memory.read b.regs (g * 1024 + 32 * i) 3

/-- The results of a row in its first columns, and +0 beside them (R180). -/
def padRow (rs : List Res) : List Res := rs ++ List.replicate (32 - rs.length) (0, 0)

theorem Slab.tiles_band (b : Slab) (g n : Nat) {i : Nat} (row : i < 32) :
    ((List.range n).map fun t => (List.range 32).map fun j => (b.band g n).getD (1024 * t + 32 * i + j) 0) = b.tiles g n i := by
  refine List.map_congr_left fun t tile => ?_
  rw [Slab.row, Memory.read]
  refine List.map_congr_left fun j column => ?_
  have tile := List.mem_range.mp tile
  have column := List.mem_range.mp column
  rw [b.getD_band g n (by omega)]
  exact congrArg b.reg (by omega)

theorem Slab.held_band (b : Slab) (g : Nat) {i : Nat} (row : i < 32) :
    ((List.range 3).map fun j => (b.band g 1).getD (32 * i + j) 0) = b.held g i := by
  rw [Slab.held, Memory.read]
  refine List.map_congr_left fun j column => ?_
  have column := List.mem_range.mp column
  rw [b.getD_band g 1 (by omega), ← Nat.add_assoc, Slab.reg]

/-- A reduction works on each of the 32 rows by itself (R180). -/
theorem State.reduceRows_eq (s : State) (slab : Nat) (o : OpE) (f : List (List Word) → List Word → List Res) :
    s.reduceRows slab o f = s.putBand slab o (vDst o.bits.toNat) ((List.range 32).flatMap fun i =>
      padRow (f ((s.slab slab).tiles (vSrc1 o.bits.toNat) (vN o.bits.toNat) i) ((s.slab slab).held (vDst o.bits.toNat) i))) := by
  refine congrArg (s.putBand slab o _) (List.flatMap_congr fun i mem => ?_)
  have row := List.mem_range.mp mem
  rw [Slab.tiles_band _ _ _ row, Slab.held_band _ _ row]
  rfl

/-! ### Convolution (R194 to R197) -/

/-- A tap's weight lies in SRC2's one register, and its source in SRC1's band with its halo (R194). -/
def tapInside (n : Nat) (t : Nat × Nat × Nat) : Prop := t.1 < 32 ∧ t.2.1 < 32 * n ∧ t.2.2 < 32

/-- The output elements of a convolution (R194). -/
def Slab.convolve (b : Slab) (x : Nat) (acc : Bool) (taps : Nat → Nat → List (Nat × Nat × Nat)) : List Res :=
  (List.range (1024 * vN x)).map fun e =>
    fmaChain (if acc then b.reg (vDst x * 1024 + e) else 0) ((taps (e / 32) (e % 32)).map fun t =>
      (b.reg (vSrc2 x * 1024 + (t.1 * 32 + e % 32)), b.reg (vSrc1 x * 1024 + (t.2.1 * 32 + t.2.2))))

theorem State.convolve_eq (s : State) (slab : Nat) (o : OpE) (acc : Bool) (halo : Nat)
    (taps : Nat → Nat → List (Nat × Nat × Nat))
    (inside : ∀ p < 32 * vN o.bits.toNat, ∀ j < 32, ∀ t ∈ taps p j, tapInside (vN o.bits.toNat + halo) t) :
    s.convolve slab o acc halo taps = s.putBand slab o (vDst o.bits.toNat) ((s.slab slab).convolve o.bits.toNat acc taps) := by
  refine congrArg (s.putBand slab o _) (List.map_congr_left fun e mem => ?_)
  have element := List.mem_range.mp mem
  have pairs : ∀ t ∈ taps (e / 32) (e % 32),
      (((s.slab slab).band (vSrc2 o.bits.toNat) 1).getD (t.1 * 32 + e % 32) 0,
        ((s.slab slab).band (vSrc1 o.bits.toNat) (vN o.bits.toNat + halo)).getD (t.2.1 * 32 + t.2.2) 0) =
      ((s.slab slab).reg (vSrc2 o.bits.toNat * 1024 + (t.1 * 32 + e % 32)),
        (s.slab slab).reg (vSrc1 o.bits.toNat * 1024 + (t.2.1 * 32 + t.2.2))) := fun t tap => by
    obtain ⟨weight, position, channel⟩ := inside _ (by omega) _ (by omega) t tap
    rw [Slab.getD_band _ _ _ (by omega), Slab.getD_band _ _ _ (by omega)]
  rw [Slab.getD_band _ _ _ element, List.map_congr_left pairs]

/-- The positions that T taps reach from a band of n registers, with one register of halo when T exceeds 1 (R194). -/
theorem halo_reaches {n p u taps : Nat} (position : p < 32 * n) (tap : u < taps) (few : taps < 32) :
    p + u < 32 * (n + if 1 < taps then 1 else 0) := by
  split <;> omega

/-- The taps of V_DWCONV at output position p, channel j (R195). -/
def depthTaps (taps p j : Nat) : List (Nat × Nat × Nat) := (List.range taps).map fun u => (u, p + u, j)

/-- The taps of V_GCONV, position by position and within it channel by channel of j's group of g (R196). -/
def groupTaps (g taps p j : Nat) : List (Nat × Nat × Nat) :=
  (List.range taps).flatMap fun u => (List.range g).map fun r => (u * g + r, p + u, g * (j / g) + r)

theorem depthTaps_inside {n taps p j : Nat} {t : Nat × Nat × Nat} (few : taps < 32) (position : p < 32 * n) (channel : j < 32)
    (listed : t ∈ depthTaps taps p j) : tapInside (n + if 1 < taps then 1 else 0) t := by
  obtain ⟨u, mem, rfl⟩ := List.mem_map.mp listed
  have tap := List.mem_range.mp mem
  exact ⟨tap.trans few, halo_reaches position tap few, channel⟩

/-- Place r of block i lies below the end of k whole blocks of g. -/
theorem block_place_lt {g i k r : Nat} (block : i < k) (place : r < g) : i * g + r < k * g :=
  calc i * g + r
    _ < i * g + g := Nat.add_lt_add_left place _
    _ = (i + 1) * g := (Nat.succ_mul i g).symm
    _ ≤ k * g := Nat.mul_le_mul_right g block

theorem groupTaps_inside {g n taps p j : Nat} {t : Nat × Nat × Nat} (divides : g ∣ 32) (few : taps * g < 32)
    (position : p < 32 * n) (channel : j < 32) (listed : t ∈ groupTaps g taps p j) : tapInside (n + if 1 < taps then 1 else 0) t := by
  obtain ⟨u, mem, inGroup⟩ := List.mem_flatMap.mp listed
  obtain ⟨r, place, rfl⟩ := List.mem_map.mp inGroup
  have tap := List.mem_range.mp mem
  have place := List.mem_range.mp place
  have group : j / g < 32 / g := Nat.div_lt_div_of_lt_of_dvd divides channel
  refine ⟨(block_place_lt tap place).trans few, halo_reaches position tap ?_, ?_⟩
  · exact (Nat.le_mul_of_pos_right taps (Nat.zero_lt_of_lt place)).trans_lt few
  · calc g * (j / g) + r
      _ = j / g * g + r := by rw [Nat.mul_comm]
      _ < 32 / g * g := block_place_lt group place
      _ = 32 := Nat.div_mul_cancel divides

/-- The channels of a group are 2, 4, 8 or 16, which divide the 32 columns (R196). -/
theorem gconvG_dvd (x : Nat) : gconvG x ∣ 32 := by
  have code : fld (vAux x) 6 5 < 4 := fld_lt _ 6 5
  exact Nat.pow_dvd_pow 2 (show 1 + fld (vAux x) 6 5 ≤ 5 by omega)

theorem vDwconvAct_eq (s : State) (slab : Nat) (o : OpE) :
    let x := o.bits.toNat
    vDwconvAct s slab o = s.putBand slab o (vDst x)
      ((s.slab slab).convolve x (bitOf (vAux x) 5) (depthTaps (fld (vAux x) 4 0))) :=
  State.convolve_eq s slab o _ _ (depthTaps _) fun _ position _ channel _ => depthTaps_inside (fld_lt _ 4 0) position channel

theorem vGconvAct_eq (s : State) (slab : Nat) (o : OpE) :
    let x := o.bits.toNat
    vGconvAct s slab o = s.putBand slab o (vDst x)
      ((s.slab slab).convolve x (bitOf (vAux x) 7) (groupTaps (gconvG x) (fld (vAux x) 4 0 / gconvG x))) :=
  State.convolve_eq s slab o _ _ (groupTaps _ _) fun _ position _ channel _ =>
    groupTaps_inside (gconvG_dvd _) ((Nat.div_mul_le_self _ _).trans_lt (fld_lt _ 4 0)) position channel

/-- Settles O35: each row as its operation of the rows, the tiles or the taps. -/
theorem rowOperations : Obligations.RowOperations := by
  unfold Obligations.RowOperations
  intro slab s o x a n reg row tiles old acc reduce conv
  exact ⟨next_fireRow (vCvtAct_eq a slab o), next_fireRow (vDitherAct_eq a slab o),
    next_fireRow (act := vRsumAct) (a.reduceRows_eq slab o _), next_fireRow (act := vRmaxAct) (a.reduceRows_eq slab o _),
    next_fireRow (act := vRwelAct) (a.reduceRows_eq slab o _), next_fireRow (act := vArgmaxAct) (a.reduceRows_eq slab o _),
    next_fireRow (vDwconvAct_eq a slab o), next_fireRow (vGconvAct_eq a slab o)⟩

end Sys2Proof.Machine
end

section
/-! SUPPORT. Proofs/LoadsAndStores.lean: the bytes of a share as an operation reads them, and the bands that V_LD and V_ST move
(R121, R171 to R173). -/

namespace Sys2Proof.Machine

/-! ### Bytes and elements of a share (R300) -/

/-- One byte of the share address space, as an operation reads it. -/
def State.opByte (s : State) (slab : Nat) (o : OpE) (a : Nat) : Byte := (s.opBytes slab o a 1).getD 0 0

/-- A read of the share is the reads of its bytes, whether it ends below P or reaches into the windows. -/
theorem State.opBytes_eq_map (s : State) (slab : Nat) (o : OpE) (a n : Nat) :
    s.opBytes slab o a n = (List.range n).map fun i => s.opByte slab o (a + i) := by
  simp only [State.opByte, State.opBytes, State.readShare, Memory.read, List.range_one, List.map_cons, List.map_nil, Nat.add_zero]
  split
  · next own =>
    refine List.map_congr_left fun i mem => ?_
    have inside := List.mem_range.mp mem
    rw [if_pos (by omega)]
    rfl
  · refine List.map_congr_left fun i _ => ?_
    split
    · rw [ite_self]; rfl
    · next above => rw [if_neg (by omega)]; rfl

/-- Element e of a run of w-byte elements is the number in its own w bytes. -/
theorem State.elements_opBytes (s : State) (slab : Nat) (o : OpE) (a w : Nat) {n e : Nat} (inside : e < n) :
    (elements (s.opBytes slab o a (n * w)) w n).getD e 0 = leNat (s.opBytes slab o (a + e * w) w) := by
  have bytes : (List.range w).map (fun i => (s.opBytes slab o a (n * w)).toArray.getD (w * e + i) 0) =
      s.opBytes slab o (a + e * w) w := by
    rw [s.opBytes_eq_map slab o (a + e * w) w, s.opBytes_eq_map slab o a (n * w)]
    refine List.map_congr_left fun i mem => ?_
    have byte : w * e + i < n * w := Nat.mul_comm w e ▸ block_place_lt inside (List.mem_range.mp mem)
    rw [Nat.mul_comm w e] at byte ⊢
    simp [byte, Nat.add_assoc]
  simp [elements, inside, ← bytes]

/-- Entry i of a list tabulated by f. -/
theorem nth_map_range {α : Type} [Inhabited α] (f : Nat → α) {n i : Nat} (inside : i < n) :
    nth ((List.range n).map f) i = f i := by
  simp [nth, inside]

/-! ### V_LD (R171 to R173) -/

/-- The share address of band element e, in the order of the registers: row i and column c lie at offset i P + c w (R171). -/
def bandByte (x e : Nat) : Nat :=
  mAddr x * 64 + e / 32 % 32 * bandPitch x + (32 * (e / 1024) + e % 32) * fmtBytes (mFmt x)

/-- The encoding of band element e (R172). -/
def State.loadCode (s : State) (slab : Nat) (o : OpE) (e : Nat) : Nat :=
  leNat (s.opBytes slab o (bandByte o.bits.toNat e) (fmtBytes (mFmt o.bits.toNat)))

/-- The scale byte of row i, block t, which all 32 elements of that row of its register share (R173). -/
def State.loadScale (s : State) (slab : Nat) (o : OpE) (e : Nat) : Nat :=
  let x := o.bits.toNat
  let n := mCnt x + 1
  leNat (s.opBytes slab o (scaleAddr (mAddr x * 64) (1024 * n) + (e / 32 % 32 * n + e / 1024)) 1)

/-- V_LD puts the encodings into the registers, with their scale bytes beside them where the format has them (R172, R173). -/
theorem vLdAct_loads {s : State} {slab : Nat} (clean : s.clean slab) (o : OpE) :
    ∃ m, vLdAct s slab o = (nextFree s m).putRegs slab (mReg o.bits.toNat)
      ((List.range (1024 * (mCnt o.bits.toNat + 1))).map fun e =>
        BitVec.ofNat 32 (s.loadCode slab o e + 256 * if isBlock (mFmt o.bits.toNat) then s.loadScale slab o e else 0)) := by
  obtain ⟨m, read⟩ := State.withShare_clean clean o _ _
  refine ⟨m, read.trans (congrArg ((nextFree s m).putRegs slab _) ?_)⟩
  rw [bandElems, List.map_map]
  refine List.map_congr_left fun e mem => ?_
  have inside := List.mem_range.mp mem
  have row : e / 32 % 32 < 32 := Nat.mod_lt _ (by decide)
  have column : 32 * (e / 1024) + e % 32 < 32 * (mCnt o.bits.toNat + 1) := by omega
  have place := block_place_lt row (Nat.div_lt_of_lt_mul inside)
  have scale := s.elements_opBytes slab o (scaleAddr (mAddr o.bits.toNat * 64) (1024 * (mCnt o.bits.toNat + 1))) 1 place
  simp only [Function.comp_apply, State.opBytes_nextFree, nth_map_range _ row, s.elements_opBytes slab o _ _ column]
  split
  · rw [Nat.mul_one, Nat.mul_one] at scale
    rw [scale]
    rfl
  · rfl

/-! ### V_ST (R171 to R173) -/

/-- Element (i, c) of the band that V_ST writes, by R167's band view. -/
def Slab.storeVal (b : Slab) (x i c : Nat) : Nat := (b.reg (mReg x * 1024 + (c / 32 * 1024 + i * 32 + c % 32))).toNat

theorem Slab.storeVal_eq (b : Slab) (x : Nat) {i c : Nat} (row : i < 32) (column : c < 32 * (mCnt x + 1)) :
    ((b.band (mReg x) (mCnt x + 1)).getD (c / 32 * 1024 + i * 32 + c % 32) 0).toNat = b.storeVal x i c := by
  rw [b.getD_band _ _ (by omega), Slab.storeVal]

/-- The rows of a band in the share, each the low bytes of its elements (R172). -/
def State.storeRows (s : State) (slab : Nat) (o : OpE) : State :=
  let x := o.bits.toNat
  (List.range 32).foldl (fun t i => t.opWrite slab o (mAddr x * 64 + i * bandPitch x)
    ((List.range (32 * (mCnt x + 1))).flatMap fun c => toLe (fmtBytes (mFmt x)) ((s.slab slab).storeVal x i c))) s

/-- The scale bytes of a band: bits 15 to 8 of element (i, 0) of each register (R173). -/
def Slab.storeScales (b : Slab) (x : Nat) : List Byte :=
  let n := mCnt x + 1
  (List.range (32 * n)).map fun k => BitVec.ofNat 8 (b.storeVal x (k / n) (32 * (k % n)) / 256)

theorem State.storeRows_eq (s : State) (slab : Nat) (o : OpE) :
    (List.range 32).foldl (fun t i => t.opWrite slab o (mAddr o.bits.toNat * 64 + i * bandPitch o.bits.toNat)
      ((List.range (32 * (mCnt o.bits.toNat + 1))).flatMap fun c => toLe (fmtBytes (mFmt o.bits.toNat))
        (((s.slab slab).band (mReg o.bits.toNat) (mCnt o.bits.toNat + 1)).getD (c / 32 * 1024 + i * 32 + c % 32) 0).toNat)) s =
      s.storeRows slab o := by
  rw [State.storeRows]
  refine List.foldl_ext _ _ _ fun t i row => congrArg (t.opWrite slab o _) (List.flatMap_congr fun c column => ?_)
  rw [Slab.storeVal_eq _ _ (List.mem_range.mp row) (List.mem_range.mp column)]

theorem Slab.storeScales_eq (b : Slab) (x : Nat) :
    ((List.range (32 * (mCnt x + 1))).map fun k => BitVec.ofNat 8 (((b.band (mReg x) (mCnt x + 1)).getD
      (32 * (k % (mCnt x + 1)) / 32 * 1024 + k / (mCnt x + 1) * 32 + 32 * (k % (mCnt x + 1)) % 32) 0).toNat / 256)) =
      b.storeScales x := by
  refine List.map_congr_left fun k mem => ?_
  have row : k / (mCnt x + 1) < 32 := Nat.div_lt_of_lt_mul (Nat.mul_comm 32 _ ▸ List.mem_range.mp mem)
  have block : k % (mCnt x + 1) < mCnt x + 1 := Nat.mod_lt _ (Nat.succ_pos _)
  rw [Slab.storeVal_eq _ _ row (by omega)]

/-- V_ST writes its rows, and then its scale bytes where the format has them. -/
theorem vStAct_stores (s : State) (slab : Nat) (o : OpE) :
    vStAct s slab o = if isBlock (mFmt o.bits.toNat) then
        (s.storeRows slab o).opWrite slab o (scaleAddr (mAddr o.bits.toNat * 64) (1024 * (mCnt o.bits.toNat + 1)))
          ((s.slab slab).storeScales o.bits.toNat)
      else s.storeRows slab o := by
  simp only [vStAct, State.storeRows_eq, Slab.storeScales_eq]

/-- Settles O36: a load puts what it reads into registers, and a store writes its rows and then its scale bytes. -/
theorem loadsAndStores : Obligations.LoadsAndStores := by
  unfold Obligations.LoadsAndStores
  intro slab pipeB s o clean x a n w base pitch mem at'
  have stores := vStAct_stores a slab o
  refine ⟨fun fire => ?_, fun fire => ⟨fun plain => ?_, fun block => ?_⟩⟩
  · obtain ⟨m, loads⟩ := vLdAct_loads (State.clean_fire clean o) o
    refine ⟨fun plain => ⟨m, next_fireRow ?_ fire⟩, fun block => ⟨m, next_fireRow ?_ fire⟩⟩
    · rw [loads, plain]
      rfl
    · rw [loads, block]
      rfl
  · exact next_fireRow (stores.trans (if_neg (Bool.not_eq_true _ ▸ plain))) fire
  · exact next_fireRow (stores.trans (if_pos block)) fire

end Sys2Proof.Machine
end

section
/-! SUPPORT. Proofs/VectorB.lean: the operations of vector B on registers: special functions, Gumbel noise, compress, expand and
permute (R170, R184 to R192, R201, R249). -/

namespace Sys2Proof.Machine

/-- The elements of n registers from register g, in order. -/
theorem Slab.band_toList (b : Slab) (g n : Nat) :
    (b.band g n).toList = (List.range (1024 * n)).map fun e => b.reg (g * 1024 + e) := List.toList_toArray

theorem Slab.getD_band_toList (b : Slab) (g n : Nat) {e : Nat} (inside : e < 1024 * n) :
    (b.band g n).toList.getD e 0 = b.reg (g * 1024 + e) := by
  simp [b.band_toList, inside]

/-! ### Active elements (R184) -/

/-- The positions of the active elements of n registers from register g, in order (R184). -/
def Slab.active (b : Slab) (g n : Nat) : List Nat :=
  (List.range (1024 * n)).filter fun e => maskActive (b.reg (g * 1024 + e))

theorem zipIdx_map_range {α : Type} (f : Nat → α) (n : Nat) :
    ((List.range n).map f).zipIdx = (List.range n).map fun i => (f i, i) :=
  List.ext_getElem (by simp) fun i _ _ => by simp

theorem activeAt_band (b : Slab) (g n : Nat) : activeAt (b.band g n).toList = b.active g n := by
  rw [activeAt, Slab.band_toList, zipIdx_map_range, List.filter_map, List.map_map]
  exact List.map_id _

theorem Slab.lt_of_mem_active {b : Slab} {g n e : Nat} (active : e ∈ b.active g n) : e < 1024 * n :=
  List.mem_range.mp (List.mem_of_mem_filter active)

theorem Slab.contains_active (b : Slab) (g : Nat) {n e : Nat} (inside : e < 1024 * n) :
    (b.active g n).contains e = maskActive (b.reg (g * 1024 + e)) := by
  simp [Slab.active, inside]

/-- The members of a filtered range that lie below e are as many as the filter has below e. -/
theorem length_filter_below (p : Nat → Bool) {e n : Nat} (inside : e ≤ n) :
    (((List.range n).filter p).filter fun d => decide (d < e)).length = Nat.count (fun d => p d) e := by
  obtain ⟨k, rfl⟩ := Nat.exists_eq_add_of_le inside
  have below : ((List.range e).filter p).filter (fun d => decide (d < e)) = (List.range e).filter p :=
    List.filter_eq_self.mpr fun d mem => decide_eq_true (List.mem_range.mp (List.mem_of_mem_filter mem))
  have above : (((List.range k).map (e + ·)).filter p).filter (fun d => decide (d < e)) = [] :=
    List.filter_eq_nil_iff.mpr fun d mem => by
      obtain ⟨i, -, rfl⟩ := List.mem_map.mp (List.mem_of_mem_filter mem)
      simp
  rw [List.range_add, List.filter_append, List.filter_append, below, above, List.append_nil, Nat.count,
    List.countP_eq_length_filter]
  simp

theorem Slab.length_active_below (b : Slab) (g : Nat) {n e : Nat} (inside : e < 1024 * n) :
    ((b.active g n).filter fun d => decide (d < e)).length = Nat.count (fun d => maskActive (b.reg (g * 1024 + d))) e :=
  length_filter_below _ inside.le

/-! ### Special functions and Gumbel noise (R188 to R192, R249) -/

/-- An operation of each element of the source band alone. -/
theorem State.mapBand_eq (s : State) (slab : Nat) (o : OpE) (f : Word → Res) :
    let x := o.bits.toNat
    s.mapBand slab o f = s.putBand slab o (vDst x)
      (((List.range (1024 * vN x)).map fun e => (s.slab slab).reg (vSrc1 x * 1024 + e)).map f) := by
  simp only [State.mapBand, Slab.band_toList]

/-! ### Compress (R170, R185) -/

/-- What compress moves: the active elements, or their indices from IMM × 1024 (R185). -/
def Slab.compressed (b : Slab) (x : Nat) : List Word :=
  (b.active (vSrc2 x) (vN x)).map fun e =>
    if bitOf (vAux x) 0 then BitVec.ofNat 32 (e + vImm x * 1024) else b.reg (vSrc1 x * 1024 + e)

theorem vbCompressAct_eq (s : State) (slab : Nat) (o : OpE) :
    let x := o.bits.toNat
    let vs := (s.slab slab).compressed x
    vbCompressAct s slab o = (s.putRegs slab (vDst x) (vs ++ List.replicate (1024 * vN x - vs.length) 0)).modStarted slab o.id
      fun p => { p with ext := (((s.slab slab).active (vSrc2 x) (vN x)).length, 0) } := by
  intro x vs
  have moved : (((s.slab slab).active (vSrc2 x) (vN x)).map fun e => if bitOf (vAux x) 0 then BitVec.ofNat 32 (e + vImm x * 1024)
      else ((s.slab slab).band (vSrc1 x) (vN x)).getD e 0) = vs := by
    refine List.map_congr_left fun e active => ?_
    rw [Slab.getD_band _ _ _ (Slab.lt_of_mem_active active)]
  simp only [vbCompressAct, activeAt_band]
  rw [moved]

/-! ### Expand (R186) -/

/-- At an active position the next source element is taken, and at any other one none (R186). -/
theorem expandBand_cons (keep : Bool) (m d : Word) (t : List (Word × Word)) (src : List Word) :
    expandBand keep ((m, d) :: t) src =
      if maskActive m then src.getD 0 0 :: expandBand keep t src.tail else (if keep then d else 0) :: expandBand keep t src := by
  cases src <;> rfl

/-- The source element of an active position has as many before it as there are active positions before (R186). -/
theorem expandBand_eq (keep : Bool) (mask old : Nat → Word) (n : Nat) (src : List Word) :
    expandBand keep ((List.range n).map fun e => (mask e, old e)) src = (List.range n).map fun e =>
      if maskActive (mask e) then src.getD (Nat.count (fun d => maskActive (mask d)) e) 0 else if keep then old e else 0 := by
  induction n generalizing mask old src with
  | zero => rfl
  | succ n ih =>
    rw [List.range_succ_eq_map, List.map_cons, List.map_map, expandBand_cons]
    have rest := ih (fun e => mask (e + 1)) fun e => old (e + 1)
    simp only [List.map_cons, List.map_map, Function.comp_def, Nat.succ_eq_add_one, Nat.count_zero, Nat.count_succ', rest]
    split
    · simp
    · simp

theorem vbExpandAct_eq (s : State) (slab : Nat) (o : OpE) :
    let x := o.bits.toNat
    let b := s.slab slab
    let active := b.active (vSrc2 x) (vN x)
    vbExpandAct s slab o = s.putRegs slab (vDst x) ((List.range (1024 * vN x)).map fun e =>
      if active.contains e then b.reg (vSrc1 x * 1024 + (active.filter fun d => decide (d < e)).length)
      else if bitOf (vAux x) 0 then b.reg (vDst x * 1024 + e) else 0) := by
  intro x b active
  have pairs : (b.band (vSrc2 x) (vN x)).toList.zip (b.band (vDst x) (vN x)).toList =
      (List.range (1024 * vN x)).map fun e => (b.reg (vSrc2 x * 1024 + e), b.reg (vDst x * 1024 + e)) := by
    rw [b.band_toList, b.band_toList, List.zip_map']
  simp only [vbExpandAct]
  rw [pairs, expandBand_eq]
  refine congrArg (s.putRegs slab _) (List.map_congr_left fun e mem => ?_)
  have inside := List.mem_range.mp mem
  have taken : Nat.count (fun d => maskActive (b.reg (vSrc2 x * 1024 + d))) e < 1024 * vN x := (Nat.count_le ..).trans_lt inside
  rw [b.contains_active _ inside, b.length_active_below _ inside, b.getD_band_toList _ _ taken]

/-! ### Permute (R201) -/

/-- Each register of a band transposed (R201). -/
theorem vbPermuteAct_eq (s : State) (slab : Nat) (o : OpE) :
    let x := o.bits.toNat
    vbPermuteAct s slab o = s.putRegs slab (vDst x) ((List.range (1024 * vN x)).map fun e =>
      (s.slab slab).reg (vSrc1 x * 1024 + (1024 * (e / 1024) + 32 * (e % 32) + e / 32 % 32))) := by
  intro x
  simp only [vbPermuteAct, bandElems, List.map_map]
  refine congrArg (s.putRegs slab _) (List.map_congr_left fun e mem => ?_)
  have inside := List.mem_range.mp mem
  simp only [Function.comp_apply]
  rw [Slab.getD_band _ _ _ (by omega)]

/-- Settles O37: the special functions and Gumbel noise map the band, and compress, expand and permute move its elements. -/
theorem vectorBOperations : Obligations.VectorBOperations := by
  unfold Obligations.VectorBOperations
  intro slab s o x a n reg band active
  have row {op : Nat} {act : State → Nat → OpE → State} (f : SFn) (acts : act a slab o = a.specialBand slab o f)
      (fire : s.firing slab 3 op = some o) : Host.Outcome.next (fireRow 3 op act slab s) = (.next (a.putBand slab o (vDst x)
        ((band (vSrc1 x)).map (special f (!a.diagOf slab o.seq)))) : Host.Outcome State Fault Refusal) :=
    next_fireRow (acts.trans (a.mapBand_eq slab o _)) fire
  refine ⟨?_, next_fireRow (act := vbGumbelAct) (a.mapBand_eq slab o _), next_fireRow (vbCompressAct_eq a slab o),
    next_fireRow (vbExpandAct_eq a slab o), next_fireRow (vbPermuteAct_eq a slab o)⟩
  simp only [List.forall_mem_cons, List.not_mem_nil, IsEmpty.forall_iff, implies_true, and_true]
  exact ⟨row (act := vbExpAct) .exp rfl, row (act := vbLogAct) .log rfl, row (act := vbRsqrtAct) .rsqrt rfl,
    row (act := vbRcpAct) .rcp rfl, row (act := vbSigmoidAct) .sigmoid rfl, row (act := vbTanhAct) .tanh rfl,
    row (act := vbGeluAct) .gelu rfl, row (act := vbSiluAct) .silu rfl, row (act := vbSinAct) .sin rfl,
    row (act := vbCosAct) .cos rfl⟩

end Sys2Proof.Machine
end

section
/-! SUPPORT. Proofs/RestAndService.lean: the filters of the sideband inputs, entry into Rest and wake, and the switch to service
mode (R191, R377, R487, R500, R502, R503, R526, R535). -/

namespace Sys2Proof.Machine

/-! ### Filters of the sideband inputs (R535) -/

/-- A pulse of at most the first width of its filter is ignored (R535). -/
theorem State.passes_ignored (s : State) {pin ns : Nat} (short : ns ≤ (filterWidths pin).1) : s.passes pin ns = (false, s) :=
  if_pos short

/-- A pulse of at least the second width is acted on (R535). -/
theorem State.passes_acted (s : State) {pin ns : Nat} (gap : (filterWidths pin).1 < (filterWidths pin).2)
    (long : (filterWidths pin).2 ≤ ns) : s.passes pin ns = (true, s) :=
  (if_neg (gap.trans_le long).not_ge).trans (if_pos long)

/-! ### Rest (R500 to R503) -/

/-- At the end of entry the module is in Rest, and no recalibration goes on (R500, R503). -/
theorem restEntryEnd_entering {s : State} (run : s.running = true) (entering : s.hub.rest = .entering) :
    restEntryEnd s = (s.setHub { s.hub with rest := .inRest }).setPower
      { s.power with domains := s.power.domains.map fun x => { x with recal := none } } := by
  simp only [restEntryEnd, run, entering, decide_true, Bool.and_self, if_true]

/-- A pulse on WAKE# that passes its filter is a wake request (R502). -/
theorem wakePin_acted {s : State} (run : s.running = true) {ns : Nat} (long : 1000 ≤ ns) : wakePin ns s = s.wake := by
  simp only [wakePin, s.passes_acted (pin := 3) (by decide) long, run, if_true]

/-- ... and one that does not leaves the module as it was (R535). -/
theorem wakePin_ignored (s : State) {ns : Nat} (short : ns ≤ 800) : wakePin ns s = s := by
  simp only [wakePin, s.passes_ignored (pin := 3) short]

theorem State.wake_inRest {s : State} (rest : s.hub.rest = .inRest) : s.wake = s.setHub { s.hub with rest := .waking } := by
  simp only [State.wake, rest, decide_true, Bool.true_or, if_true]

/-- The slots of a function that wait are taken in the order of their numbers. -/
def State.takeOwned (s : State) (i : Nat) : State :=
  let own := ((s.fn i).slots.filter fun b => decide (b.state = .owned)).map Slot.idx
  (sortBy id own).foldl (fun s k => s.take i k) s

/-- At the end of the wake the waiting slots are taken, function by function (R377, R502). -/
theorem restWakeEnd_waking {s : State} (run : s.running = true) (waking : s.hub.rest = .waking) :
    restWakeEnd s = (List.range 16).foldl State.takeOwned (s.setHub { s.hub with rest := .awake }) := by
  simp only [restWakeEnd, run, waking, decide_true, Bool.and_self, if_true]
  rfl

/-- ... and then the host's requests are served (R502). -/
theorem wakeEnd_waking {s : State} (run : s.running = true) (waking : s.hub.rest = .waking) :
    wakeEnd s = (restWakeEnd s).serveHost := by
  simp only [wakeEnd, run, waking, decide_true, Bool.and_self, if_true]

/-! ### Service mode (R191, R487, R526) -/

/-- The SERVICE_ENTER whose wait has not ended. -/
def State.entersService (s : State) (f : Flight) : Prop :=
  s.flights.find? (fun f => decide (f.cmd = .serviceEnter) && decide (f.phase = .busy)) = some f

theorem State.earlierDone_iff (s : State) (q : Nat) : s.earlierDone q = true ↔ ∀ g ∈ s.flights, q ≤ g.seq := by
  simp [State.earlierDone]

/-- Once every earlier command has completed, service mode begins and SERVICE_ENTER completes (R526). -/
theorem serviceModeSwitch_begins {s : State} {f : Flight} (run : s.running = true) (enters : s.entersService f)
    (earlier : ∀ g ∈ s.flights, f.seq ≤ g.seq) :
    serviceModeSwitch s = ((s.setHub { s.hub with service := true }).setTalus
      { s.talus with armed := s.talus.armed.filter fun a => a.point == 0x0501 }).okCmd f := by
  rw [State.entersService] at enters
  simp [serviceModeSwitch, enters, run, (s.earlierDone_iff f.seq).mpr earlier]

/-- Before that the mode stays (R526). -/
theorem serviceModeSwitch_waits {s : State} {f : Flight} (enters : s.entersService f)
    (earlier : ∃ g ∈ s.flights, g.seq < f.seq) : serviceModeSwitch s = s := by
  obtain ⟨g, mem, before⟩ := earlier
  have pending : s.earlierDone f.seq = false :=
    Bool.eq_false_iff.mpr fun done => before.not_ge ((s.earlierDone_iff f.seq).mp done g mem)
  rw [State.entersService] at enters
  simp [serviceModeSwitch, enters, pending]

/-- Settles O23: each row in the state that its rule names. -/
theorem restAndServiceTransitions : Obligations.RestAndServiceTransitions := by
  unfold Obligations.RestAndServiceTransitions
  intro s run
  refine ⟨fun entering => ?_, fun ns long rest => ?_, fun ns short => ?_, fun waking => ?_, fun f enters earlier => ?_,
    fun f enters earlier => ?_⟩
  · exact congrArg Host.Outcome.next (restEntryEnd_entering run entering)
  · exact congrArg Host.Outcome.next ((wakePin_acted run long).trans (State.wake_inRest rest))
  · exact congrArg Host.Outcome.next (wakePin_ignored s short)
  · intro taken
    have taking : restWakeEnd s = taken := restWakeEnd_waking run waking
    clear_value taken
    subst taking
    exact congrArg Host.Outcome.next (wakeEnd_waking run waking)
  · exact congrArg Host.Outcome.next (serviceModeSwitch_begins run enters earlier)
  · exact congrArg Host.Outcome.next (serviceModeSwitch_waits enters earlier)

end Sys2Proof.Machine
end

section
/-! SUPPORT. Proofs/LatentMemory.lean: the commands of the regions, and XF_PAGED, which moves rows through a region's page table
(R202 to R212). -/

namespace Sys2Proof.Machine

/-! ### Regions are made, mapped, unmapped and destroyed (R202, R205 to R207, R209) -/

/-- Acceptance selects no passage: the command that it puts in flight has no run (R376). -/
theorem State.accepting_selected (s : State) (c : Cmd) (fn k slab : Nat) :
    (s.accepting c fn k).selected slab = s.selected slab := by
  have unrun : (s.sealed c fn k).run = none := rfl
  have slabs : (s.accepting c fn k).slab slab = s.slab slab := rfl
  simp [State.selected, slabs, unrun]

/-- The region that REGION_CREATE makes has no page and no byte (R202). -/
def Region.blank (handle size home : Nat) : Region :=
  { handle := handle, size := size, home := home, pages := [], lingering := [], bytes := [] }

/-- REGION_CREATE of a good size on a home slab of the partition adds a blank region under the next handle (R202). -/
theorem regionCreate_adds {s : State} {f : Flight} (aligned : f.arg 0 8 % 2 ^ 21 = 0) (nonempty : 1 ≤ f.arg 0 8)
    (small : f.arg 0 8 ≤ 2 ^ 36) (home : f.arg 8 1 < 8) (own : bitOf (s.part f.fn).q.mask (f.arg 8 1) = true)
    (room : (s.part f.fn).regions.length < 4096) :
    regionCreate s f = ((s.setNextHandle (s.nextHandle + 1)).modPart f.fn fun q =>
      { q with regions := q.regions ++ [Region.blank s.nextHandle (f.arg 0 8) (f.arg 8 1)] }).okCmd f s.nextHandle := by
  have inRange : (decide (f.arg 0 8 % 2 ^ 21 ≠ 0) || decide (f.arg 0 8 = 0) || decide (2 ^ 36 < f.arg 0 8) ||
      decide (8 ≤ f.arg 8 1) || !bitOf (s.part f.fn).q.mask (f.arg 8 1)) = false := by
    simp only [aligned, own, Nat.not_lt.mpr small, Nat.not_le.mpr home, Nat.ne_of_gt nonempty]
    rfl
  simp only [regionCreate, inRange, Nat.not_le.mpr room, Bool.false_eq_true, if_false]
  rfl

/-- The bytes of a page that REGION_MAP maps (R205). -/
def mapUnit (big : Bool) : Nat := if big then 2 ^ 21 else 2 ^ 16

/-- A region with n more pages from an offset on (R205). -/
def Region.mapped (r : Region) (ofs n : Nat) (big ro : Bool) : Region :=
  { r with pages := r.pages ++ (List.range n).map fun i =>
      { num := ofs / 2 ^ 16 + i * (mapUnit big / 2 ^ 16), big := big, ro := ro } }

/-- REGION_MAP of a free range inside the region and the quota adds its pages, and their bytes read +0 (R205, R206, R286). -/
theorem regionMap_adds {s : State} {f : Flight} {r : Region} {big : Bool} (size : bitOf (f.arg 4 1) 0 = big)
    (found : (s.part f.fn).region? (f.arg 0 4) = some r) (aligned : f.arg 8 8 % mapUnit big = 0) (nonempty : 1 ≤ f.arg 16 4)
    (inside : f.arg 8 8 + f.arg 16 4 * mapUnit big ≤ r.size)
    (free : ((List.range (f.arg 16 4 * (mapUnit big / 2 ^ 16))).all fun i => (r.entry? (f.arg 8 8 / 2 ^ 16 + i)).isNone) = true)
    (quota : (r.mapped (f.arg 8 8) (f.arg 16 4) big (bitOf (f.arg 4 1) 1)).frames ≤ s.framesFree f.fn r.home + r.frames) :
    regionMap s f = ((s.modRegion f.fn r.handle fun _ =>
      { r.mapped (f.arg 8 8) (f.arg 16 4) big (bitOf (f.arg 4 1) 1) with
        bytes := Memory.clear r.bytes (f.arg 8 8) (f.arg 16 4 * mapUnit big) }).dropBad
      (inPages f.fn r.handle (f.arg 8 8) (f.arg 16 4 * mapUnit big))).okCmd f := by
  subst size
  have inRange : (decide (f.arg 8 8 % mapUnit (bitOf (f.arg 4 1) 0) ≠ 0) || decide (f.arg 16 4 = 0) ||
      decide (r.size < f.arg 8 8 + f.arg 16 4 * mapUnit (bitOf (f.arg 4 1) 0))) = false := by
    simp only [aligned, Nat.not_lt.mpr inside, Nat.ne_of_gt nonempty]
    rfl
  have unmapped : ((List.range (f.arg 16 4 * (mapUnit (bitOf (f.arg 4 1) 0) / 2 ^ 16))).any fun i =>
      (r.entry? (f.arg 8 8 / 2 ^ 16 + i)).isSome) = false := by
    simpa only [List.all_eq_true, List.any_eq_false, Option.isNone_iff_eq_none, Option.not_isSome_iff_eq_none] using free
  simp only [regionMap, found]
  exact (if_neg (Bool.eq_false_iff.mp inRange)).trans <|
    (if_neg (Bool.eq_false_iff.mp unmapped)).trans (if_neg (Nat.not_lt.mpr quota))

/-- A range unmaps no 2 MiB page in part (R206). -/
def Region.Whole (r : Region) (ofs len : Nat) : Prop :=
  ∀ g ∈ r.pages, g.big = true → overlaps (g.num * 2 ^ 16) (2 ^ 21) ofs len = true →
    ofs ≤ g.num * 2 ^ 16 ∧ g.num * 2 ^ 16 + 2 ^ 21 ≤ ofs + len

/-- REGION_UNMAP takes the pages of a range out at once, and waits for the passages selected on the home slab (R206, R209). -/
theorem regionUnmap_takes {s : State} {f : Flight} {r : Region} {w : List Nat}
    (found : (s.part f.fn).region? (f.arg 0 4) = some r) (start : f.arg 8 8 % 2 ^ 16 = 0) (len : f.arg 16 8 % 2 ^ 16 = 0)
    (inside : f.arg 8 8 + f.arg 16 8 ≤ r.size) (whole : r.Whole (f.arg 8 8) (f.arg 16 8)) (selected : s.selected r.home = w) :
    regionUnmap s f =
      let t := s.modRegion f.fn r.handle fun r => r.unmap (f.arg 8 8) (f.arg 16 8) f.seq (!w.isEmpty)
      if w = [] then t.okCmd f else t.busyCmd f w := by
  subst selected
  have uncut : (r.pages.any fun g => g.big && (overlaps (g.num * 2 ^ 16) (2 ^ 21) (f.arg 8 8) (f.arg 16 8) &&
      !(decide (f.arg 8 8 ≤ g.num * 2 ^ 16) && decide (g.num * 2 ^ 16 + 2 ^ 21 ≤ f.arg 8 8 + f.arg 16 8)))) = false := by
    rw [List.any_eq_false]
    intro g mem cut
    simp only [Bool.and_eq_true, Bool.not_eq_true', Bool.and_eq_false_iff, decide_eq_false_iff_not] at cut
    obtain ⟨big, meets, outside⟩ := cut
    obtain ⟨low, high⟩ := whole g mem big meets
    exact outside.elim (· low) (· high)
  simp only [regionUnmap, found, start, len, uncut, Nat.not_lt.mpr inside]
  rfl

/-- REGION_DESTROY of a region that no passage binds removes it, or empties it and waits for the passages selected on the home
slab (R207, R209); while it waits the handle stays, by the model's choice (log 40). -/
theorem regionDestroy_removes {s : State} {f : Flight} {r : Region} {w : List Nat}
    (found : (s.part f.fn).region? (f.arg 0 4) = some r) (unbound : s.regionBusy f.fn r.handle = false)
    (selected : s.selected r.home = w) :
    regionDestroy s f =
      if w = [] then (s.modPart f.fn fun q => { q with regions := q.regions.filter fun x => x.handle != r.handle }).okCmd f
      else (s.modRegion f.fn r.handle fun r => r.unmap 0 r.size f.seq true).busyCmd f w := by
  subst selected
  simp only [regionDestroy, found, unbound]
  rfl

/-- Settles O8: each ready command performs at its seal, and each effect is that of its command. -/
theorem regionCommands : Obligations.RegionCommands := by
  unfold Obligations.RegionCommands
  intro fn k s
  refine ⟨fun ready => ?_, fun ready => ?_, fun ready => ?_, fun ready => ?_⟩
  · intro a f size home aligned nonempty small low own room
    exact exec_ready ready (regionCreate_adds (s := a) (f := f) aligned nonempty small low own room)
  · intro a f big unit n r found aligned nonempty inside free r2 quota
    exact exec_ready ready (regionMap_adds (s := a) (f := f) rfl found aligned nonempty inside free quota)
  · intro a f r found start len inside whole w t
    have selected : a.selected r.home = w := s.accepting_selected ..
    have takes := regionUnmap_takes (s := a) (f := f) found start len inside whole selected
    exact ⟨fun alone => exec_ready ready (takes.trans (if_pos alone)), fun waits => exec_ready ready (takes.trans (if_neg waits))⟩
  · intro a f r found unbound w
    have selected : a.selected r.home = w := s.accepting_selected ..
    have removes := regionDestroy_removes (s := a) (f := f) found unbound selected
    exact ⟨fun alone => exec_ready ready (removes.trans (if_pos alone)),
      fun waits => exec_ready ready (removes.trans (if_neg waits))⟩

/-! ### XF_PAGED (R203, R204, R210 to R212) -/

/-- The binding that a descriptor of XF_PAGED names (R203). -/
def XfDesc.bind (d : XfDesc) : Nat := fld d.paged.1.addr 43 40

/-- A walk that reaches its end has run the descriptor of its operation; one that faults on the way has not. -/
def State.walkEnd (slab : Nat) (o : OpE) : State × Bool → State
  | (t, true) => t.modStarted slab o.id fun p => { p with ext := (1, 0) }
  | (t, false) => t

/-- XF_PAGED with the descriptor that it has read: its checks in their order, and the walk (R63, R210, R211). -/
def State.runPaged (s : State) (slab : Nat) (o : OpE) (d : XfDesc) : State :=
  if !d.spaceOk true then s.opFault slab o .xfSpace else
  if !d.alignOk then s.opFault slab o .xfAlign else
  match s.bound? o d.bind with
  | none => s.walkFault slab o .regionUnbound d.bind d.paged.1.base 0 d.bind
  | some g =>
    if g.home ≠ slab then s.walkFault slab o .pageHome d.bind d.paged.1.base 0 d.bind else
    if g.size < d.paged.1.last d || !s.sideFits slab o d (if d.paged.2 then d.src else d.dst) (!d.paged.2) then
      s.walkFault slab o .xfRange d.bind d.paged.1.base 0 0xFFFFFFFF
    else
      .walkEnd slab o (s.walkRows slab o g.handle d.bind d (List.range d.rows) 0)

/-- On a slab without a damaged word XF_PAGED reads its one descriptor and runs it. -/
theorem xfPagedAct_reads {s : State} {slab : Nat} (clean : s.clean slab) (o : OpE) :
    ∃ n, xfPagedAct s slab o = (nextFree s n).runPaged slab o (s.xfDescAt slab o 0) :=
  State.withShare_clean clean o [(xfAddr o.bits.toNat * 64, 64)] fun s => s.runPaged slab o (s.xfDescAt slab o 0)

section
variable {s : State} {slab : Nat} {o : OpE} {d : XfDesc} {g : Region}

/-- The first check is that of the spaces (R63, R210) ... -/
theorem State.runPaged_space (space : d.spaceOk true = false) : s.runPaged slab o d = s.opFault slab o .xfSpace :=
  if_pos (by simp [space])

/-- ... and the second that of the alignment (R63). -/
theorem State.runPaged_align (space : d.spaceOk true = true) (align : d.alignOk = false) :
    s.runPaged slab o d = s.opFault slab o .xfAlign := by
  simp [State.runPaged, space, align]

/-- The descriptor passes the checks of its form, which need no region (R63, R210). -/
structure XfDesc.PagedForm (d : XfDesc) : Prop where
  space : d.spaceOk true = true
  align : d.alignOk = true

/-- A binding that the passage has no region for faults (R204, R211). -/
theorem State.runPaged_unbound (form : d.PagedForm) (bound : s.bound? o d.bind = none) :
    s.runPaged slab o d = s.walkFault slab o .regionUnbound d.bind d.paged.1.base 0 d.bind := by
  simp [State.runPaged, form.space, form.align, bound]

/-- A region with its home on another slab faults (R211). -/
theorem State.runPaged_away (form : d.PagedForm) (bound : s.bound? o d.bind = some g) (away : g.home ≠ slab) :
    s.runPaged slab o d = s.walkFault slab o .pageHome d.bind d.paged.1.base 0 d.bind := by
  simp [State.runPaged, form.space, form.align, bound, away]

/-- A side that ends past its region or the context's share faults (R211). -/
theorem State.runPaged_range (form : d.PagedForm) (bound : s.bound? o d.bind = some g) (home : g.home = slab)
    (past : g.size < d.paged.1.last d ∨ s.sideFits slab o d (if d.paged.2 then d.src else d.dst) (!d.paged.2) = false) :
    s.runPaged slab o d = s.walkFault slab o .xfRange d.bind d.paged.1.base 0 0xFFFFFFFF := by
  have outside : (decide (g.size < d.paged.1.last d) ||
      !s.sideFits slab o d (if d.paged.2 then d.src else d.dst) (!d.paged.2)) = true := by
    rcases past with h | h <;> simp [h]
  simp [State.runPaged, form.space, form.align, bound, home, outside]

/-- A descriptor that passes every check walks its rows (R211). -/
theorem State.runPaged_walks (form : d.PagedForm) (bound : s.bound? o d.bind = some g) (home : g.home = slab)
    (inside : d.paged.1.last d ≤ g.size)
    (fits : s.sideFits slab o d (if d.paged.2 then d.src else d.dst) (!d.paged.2) = true) :
    s.runPaged slab o d = .walkEnd slab o (s.walkRows slab o g.handle d.bind d (List.range d.rows) 0) := by
  simp [State.runPaged, form.space, form.align, bound, home, fits, Nat.not_lt.mpr inside]

end

/-- Settles O40: the operation fires and reads its descriptor; then each check in its order, and the walk. -/
theorem pagedTransfers : Obligations.PagedTransfers := by
  unfold Obligations.PagedTransfers
  intro slab s o clean fires a d v bind
  obtain ⟨n, reads⟩ := xfPagedAct_reads (State.clean_fire clean o) o
  have row {t : State} (runs : (nextFree a n).runPaged slab o d = t) : exec (.xfPaged slab) s = .next t :=
    congrArg Host.Outcome.next ((fireRow_firing fires xfPagedAct).trans (reads.trans runs))
  refine ⟨fun space => ⟨n, row (State.runPaged_space space)⟩, fun space align => ⟨n, row (State.runPaged_align space align)⟩,
    fun space align => ?_⟩
  have form : d.PagedForm := ⟨space, align⟩
  refine ⟨fun bound => ⟨n, row (State.runPaged_unbound form bound)⟩,
    fun g bound => ⟨fun away => ?_, fun home past => ?_, fun home inside fits => ?_⟩⟩
  · exact ⟨n, row (State.runPaged_away form bound away)⟩
  · exact ⟨n, row (State.runPaged_range form bound home past)⟩
  · refine ⟨n, (row (State.runPaged_walks form bound home inside fits)).trans ?_⟩
    rw [State.walkEnd.eq_def]
    rfl

end Sys2Proof.Machine
end

section
/-! SUPPORT. Proofs/CropAndFlint.lean: the boxes of VB_CROP in their order, and the draws of FL_DRAW (R229 to R235, R243 to
R246). -/

namespace Sys2Proof.Machine

/-! ### VB_CROP (R229 to R235) -/

/-- The descriptor of box i of the list (R229, R230). -/
def State.cropBox (s : State) (slab : Nat) (o : OpE) (k : Crop) (i : Nat) : Box :=
  boxOf (leNat (s.opBytes slab o (k.list + 64 * i) 64))

/-- The samples of a box in the output format, from the source that the share holds (R231 to R233). -/
def State.cropped (s : State) (slab : Nat) (o : OpE) (k : Crop) (b : Box) : Coded :=
  codeRow k.fmt (b.results k (s.opBytes slab o (b.src * 64) (k.srcBytes b)).toArray)

/-- The state after a box has written its samples (R231). -/
def State.writeBox (s : State) (slab : Nat) (o : OpE) (k : Crop) (b : Box) (samples : Coded) : State :=
  s.opWrite slab o (b.dst * 64) (samples.codes.flatMap (toLe (fmtBytes k.fmt)))

/-- What the samples of a box raise, each at its own share address (R235, R475). -/
def Crop.raised (k : Crop) (b : Box) (samples : Coded) : Marks :=
  marksOf (samples.flags.zipIdx.map fun f => (sharePos (b.dst * 64 + f.2 * fmtBytes k.fmt), f.1))

/-- A draw of free values changes nothing that the checks of a box read (R234). -/
@[simp] theorem State.boxFails_nextFree (s : State) (n slab : Nat) (o : OpE) (k : Crop) (b : Box) :
    (nextFree s n).boxFails slab o k b = s.boxFails slab o k b := rfl

/-- With no injection armed VB_CROP runs its list from the first box, with nothing raised before it. -/
theorem vbCropAct_unarmed {s : State} (unarmed : s.talus.armed = []) (slab : Nat) (o : OpE) :
    let k := cropOf o.bits.toNat
    vbCropAct s slab o = s.cropBoxesFrom slab o k false (List.range k.boxes) Marks.none := by
  simp only [vbCropAct, State.nanInjected_unarmed unarmed]

section
variable {s : State} {slab : Nat} (clean : s.clean slab) {o : OpE} {k : Crop} {i : Nat} (t : List Nat) (m : Marks)
include clean

/-- A box that fails a check stops the operation: what the boxes before it raised is told, and its number with the fault
(R234). -/
theorem State.cropBoxesFrom_fails {code : St} (fails : s.boxFails slab o k (s.cropBox slab o k i) = some code) :
    s.cropBoxesFrom slab o k false (i :: t) m = ((nextFree s 1).mark slab o 3 m false).opFault slab o code i := by
  rw [State.cropBox] at fails
  simp only [State.cropBoxesFrom, State.eccShare_one_clean clean _ _ _ _ (by decide : 64 ≠ 0), State.boxFails_nextFree, fails]

/-- A box that passes writes its samples, and the boxes after it follow (R231, R235). -/
theorem State.cropBoxesFrom_passes (passes : s.boxFails slab o k (s.cropBox slab o k i) = none) :
    let b := s.cropBox slab o k i
    let samples := s.cropped slab o k b
    ∃ n, s.cropBoxesFrom slab o k false (i :: t) m =
      ((nextFree s n).writeBox slab o k b samples).cropBoxesFrom slab o k false t (m.add (k.raised b samples)) := by
  intro b samples
  obtain ⟨n, read⟩ := State.eccShare_clean (State.clean_nextFree clean 1) o.part o.ctx o.seq (b.sources k)
  refine ⟨1 + n, ?_⟩
  rw [State.cropBox] at passes
  rw [State.cropBoxesFrom, State.eccShare_one_clean clean _ _ _ _ (by decide : 64 ≠ 0), ← nextFree_nextFree]
  simp only [State.boxFails_nextFree, passes]
  rw [show boxOf (leNat (s.opBytes slab o (k.list + 64 * i) 64)) = b from rfl, read]
  rfl

end

/-! ### FL_DRAW (R243 to R246) -/

/-- The elements of n grains from cursor value k on, four registers for each grain (R243, R246). -/
def drawnGrains (p : FlintSet) (r : RunInfo) (k n : Nat) : List Word :=
  (List.range n).flatMap fun i => grainRegs (cursorWords p r.seed r.step (k + i)).toArray

/-- FL_DRAW puts the grains at its cursor into the registers and moves the cursor past them (R243). -/
theorem flDrawAct_draws {s : State} {slab : Nat} {o : OpE} {l : Live} {g : Program} {f : Flight} {r : RunInfo}
    (live : s.live? slab o.seq = some l) (prog : s.progOf o = some g) (flight : s.flight? o.seq = some f)
    (run : f.run = some r) :
    let set := flSet o.bits.toNat
    let n := flGrains o.bits.toNat
    flDrawAct s slab o =
      (s.putRegs slab (flReg o.bits.toNat) (drawnGrains (nth (nth g.flint l.img) set) r (nth l.cursors set) n)).modLive slab o.seq
        fun l => { l with cursors := modAt l.cursors set (· + n) } := by
  simp only [flDrawAct, live, prog, flight, Option.bind_some, run, drawnGrains]

/-- Settles O38: the boxes run from the first; each box that passes and each that fails; and the draw. -/
theorem cropAndFlintOperations : Obligations.CropAndFlintOperations := by
  unfold Obligations.CropAndFlintOperations
  intro slab s o clean x a k
  refine ⟨next_fireRow (vbCropAct_unarmed (State.clean_fire clean o).2 slab o),
    fun i t m => ⟨fun passes => ?_, fun code fails => ?_⟩, fun l g f r fires live prog flight run => ?_⟩
  · exact State.cropBoxesFrom_passes clean t m passes
  · exact ⟨1, State.cropBoxesFrom_fails clean t m fails⟩
  · exact next_fireRow (flDrawAct_draws (s := a) live prog flight run) fires

end Sys2Proof.Machine
end

section
/-! SUPPORT. Proofs/GroupsAndCopies.lean: GROUP_CREATE and GROUP_DESTROY, COPY and FILL (R260 to R262, R389, R391, R401). -/

namespace Sys2Proof.Machine

/-! ### Groups (R260 to R262) -/

section
variable {s : State} {f : Flight} {c : Ctx} (named : s.needCtx f.fn (f.arg 0 2) = .ok c)
include named

/-- GROUP_CREATE whose arguments are in range, of a context at rest, fails by the first case of R261 that refuses the group, and
binds it where none does (R260, R261). -/
theorem groupCreate_eq (inRange : s.groupArgs f = true) (rest : c.st = .resident → s.idle f.fn c f.seq = true) :
    groupCreate s f =
      (s.groupRefused c (groupOfArgs f)).elim ((s.bindGroup f.fn c.num (groupOfArgs f)).okCmd f) (s.failCmd f) := by
  have atRest : (decide (c.st = .resident) && !s.idle f.fn c f.seq) = false := by simpa using rest
  simp only [groupCreate, inRange, named, atRest, Bool.not_true, Bool.false_eq_true, if_false]
  cases s.groupRefused c (groupOfArgs f) <;> rfl

/-- GROUP_DESTROY of a bound group that no passage holds releases its queues (R262). -/
theorem groupDestroy_releases (index : f.arg 2 1 ≤ 15) (bound : (c.groups.any fun x => x.lidx == f.arg 2 1) = true)
    (free : s.passaging f.fn c.num f.seq = false) :
    groupDestroy s f = ((s.releaseGroup f.fn c.num (f.arg 2 1)).modCtx f.fn c.num fun x =>
      { x with groups := x.groups.filter fun g => g.lidx != f.arg 2 1 }).okCmd f := by
  simp only [groupDestroy, Nat.not_lt.mpr index, named, bound, free, Bool.not_true, Bool.false_eq_true, if_false]

end

/-! ### COPY and FILL (R389, R391, R401) -/

/-- What a COPY to host memory returns with its record (R384, R389). -/
def Side.outs (n : Nat) (bs : List Byte) : Side → List OutBuf
  | .host x => [{ addr := x, len := n, bytes := bs, index := 2, epoch := false }]
  | _ => []

/-- COPY of a good length between two sides that pass their checks moves the bytes (R389). -/
theorem copy_moves {s s1 s2 : State} {f : Flight} {src dst : Side} {bs : List Byte} (size : f.arg 16 8 % 512 = 0)
    (srcSpace : spaceOf (f.arg 0 8) ∈ [2, 3, 5]) (dstSpace : spaceOf (f.arg 8 8) ∈ [2, 3, 5]) (ctx : s.copyCtx f = .ok ())
    (source : s.side f (f.arg 0 8) (f.arg 16 8) = .ok src) (target : s.side f (f.arg 8 8) (f.arg 16 8) = .ok dst)
    (reads : s.sideRead f (f.arg 16 8) src = (s1, .ok bs)) (writes : s1.sideWrite f bs dst = some s2) :
    copy s f = s2.okCmd f 0 (dst.outs (f.arg 16 8) bs) := by
  have srcOk := List.contains_iff_mem.mpr srcSpace
  have dstOk := List.contains_iff_mem.mpr dstSpace
  simp only [copy, size, srcOk, dstOk, ctx, source, target, reads, writes]
  cases dst <;> rfl

/-- FILL of a side that passes its checks writes the pattern there (R389). -/
theorem fill_writes {s s1 : State} {f : Flight} {dst : Side} (dstSpace : spaceOf (f.arg 0 8) ∈ [2, 3])
    (ctx : s.copyCtx f = .ok ()) (target : s.side f (f.arg 0 8) (f.arg 8 8) = .ok dst)
    (writes : s.sideWrite f (patternBytes (f.arg 16 8) (f.arg 8 8)) dst = some s1) :
    fill s f = s1.okCmd f := by
  have space : [2, 3].contains (spaceOf (f.arg 0 8)) = true := List.contains_iff_mem.mpr dstSpace
  simp only [fill, space, ctx, target, writes, Bool.not_true, Bool.false_eq_true, if_false]

/-- Settles O11: each ready command performs at its seal, and each effect is that of its command. -/
theorem groupCopyAndFillCommands : Obligations.GroupCopyAndFillCommands := by
  unfold Obligations.GroupCopyAndFillCommands
  intro fn k s
  refine ⟨fun ready => ?_, fun ready => ?_, fun ready => ?_, fun ready => ?_⟩
  · intro a f c inRange named rest
    have creates := groupCreate_eq (s := a) (f := f) named inRange rest
    exact ⟨fun e refused => exec_ready ready (creates.trans (by rw [refused]; rfl)),
      fun passes => exec_ready ready (creates.trans (by rw [passes]; rfl))⟩
  · intro a f c index named bound free
    exact exec_ready ready (groupDestroy_releases (s := a) (f := f) named index bound free)
  · intro a f n src dst s1 bs s2 size srcSpace dstSpace ctx source target reads writes
    have moves := copy_moves (s := a) (f := f) size srcSpace dstSpace ctx source target reads writes
    cases dst <;> exact exec_ready ready moves
  · intro a f dst s1 dstSpace ctx target writes
    exact exec_ready ready (fill_writes (s := a) (f := f) dstSpace ctx target writes)

end Sys2Proof.Machine
end

section
/-! SUPPORT. Proofs/Collectives.lean: how a collective enters its group's queue and starts, how the members meet, how it ends, and
how the units of a gather arrive (R66, R67, R74, R261 to R281). -/

namespace Sys2Proof.Machine

/-- The logical group of a context under an index (R261). -/
def State.group? (s : State) (p c l : Nat) : Option Group := (s.ctx? p c).bind fun x => x.groups.find? fun g => g.lidx == l

theorem State.group?_of_ctx {s : State} {p c l : Nat} {x : Ctx} {g : Group} (ctx : s.ctx? p c = some x)
    (found : x.groups.find? (fun g => g.lidx == l) = some g) : s.group? p c l = some g := by
  rw [State.group?, ctx, Option.bind_some, found]

/-! ### A collective enters the queue of its group and starts (R74, R270, R271) -/

/-- The operation fires, takes on what ended transfers have written to the other members' shares, and is the last of its group's
queue (R74, R271). -/
def State.joinGroup (s : State) (slab : Nat) (o : OpE) (g : Group) (q : Nat) : State :=
  ((s.fire slab o).carry slab o g).modQueue slab q fun k =>
    { k with entries := k.entries ++ [{ op := o, desc := 0, started := false, met := false, held := false }] }

section
variable {s : State} {slab op q : Nat} {o : OpE} {g : Group} (fires : s.firing slab 5 op = some o)
  (queue : s.groupQueue? o.part o.ctx (colGroup o.bits.toNat) slab = some (g, q))
include fires queue

/-- A group's queue with room takes a collective that can fire, and an empty one starts it (R271). -/
theorem fireColl_joins (room : (s.gqueue slab q).entries.length < 4) :
    fireColl op slab s =
      if (s.gqueue slab q).entries = [] then (s.joinGroup slab o g q).startHead slab q else s.joinGroup slab o g q := by
  obtain ⟨head, code, -, ready⟩ := State.firing_eq fires
  simp only [fireColl, head, queue, code, ready, room, beq_self_eq_true, decide_true, Bool.and_self, if_true]
  rfl

/-- A full one lets it wait (R271). -/
theorem fireColl_waits (full : 4 ≤ (s.gqueue slab q).entries.length) : fireColl op slab s = s := by
  obtain ⟨head, -, -, -⟩ := State.firing_eq fires
  simp [fireColl, head, queue, Nat.not_lt.mpr full]

end

/-- The row of a collective puts it first, and starts it, or behind others, or lets it wait, by the length of its group's queue
(R271). -/
def State.JoinsOrWaits (s : State) (slab : Nat) (o : OpE) (g : Group) (q : Nat) (r : Instr × Nat) : Prop :=
  s.firing slab 5 r.2 = some o →
    let n := (s.gqueue slab q).entries.length
    (n = 0 → exec r.1 s = .next ((s.joinGroup slab o g q).startHead slab q)) ∧
    (1 ≤ n → n < 4 → exec r.1 s = .next (s.joinGroup slab o g q)) ∧ (4 ≤ n → exec r.1 s = .next s)

theorem joinsOrWaits_of_fireColl {s : State} {slab q op : Nat} {o : OpE} {g : Group} {i : Instr}
    (queue : s.groupQueue? o.part o.ctx (colGroup o.bits.toNat) slab = some (g, q))
    (row : exec i s = .next (fireColl op slab s)) : s.JoinsOrWaits slab o g q (i, op) := by
  refine fun fires => ⟨fun none => ?_, fun some room => ?_, fun full => ?_⟩
  · rw [row, fireColl_joins fires queue (by omega), if_pos (List.length_eq_zero_iff.mp none)]
  · rw [row, fireColl_joins fires queue room, if_neg (List.length_pos_iff.mp some)]
  · rw [row, fireColl_waits fires queue full]

/-- The descriptor of the operation at the head of a group's queue, as the share holds it (R270). -/
def State.headDesc (s : State) (slab : Nat) (e : CollE) : Nat :=
  leNat (s.opBytes slab e.op (colDesc e.op.bits.toNat * 2048) 64)

/-- The head of a group's queue reads its descriptor, and faults if that breaks R270 (R270, R271). -/
theorem State.startHead_reads {s : State} {slab q p c l : Nat} {e : CollE} {g : Group} (clean : s.clean slab)
    (head : (s.gqueue slab q).entries.head? = some e) (bound : (s.gqueue slab q).bound = some (p, c, l))
    (group : s.group? p c l = some g) :
    ∃ n, s.startHead slab q =
      if s.collFails slab e.op g (cdescOf (s.headDesc slab e)) then (nextFree s n).opFault slab e.op .collDesc
      else (nextFree s n).modQueue slab q fun k =>
        k.modHead fun e' => { e' with desc := BitVec.ofNat 512 (s.headDesc slab e), started := true } := by
  rw [State.group?] at group
  obtain ⟨n, reads⟩ := State.withShare_clean clean e.op [(colDesc e.op.bits.toNat * 2048, 64)] fun t =>
    if t.collFails slab e.op g (cdescOf (t.headDesc slab e)) then t.opFault slab e.op .collDesc
    else t.modQueue slab q fun k =>
      k.modHead fun e' => { e' with desc := BitVec.ofNat 512 (t.headDesc slab e), started := true }
  refine ⟨n, Eq.trans ?_ reads⟩
  simp only [State.startHead, head, bound, group, State.opportunity_unarmed clean.2]
  rfl

/-- Settles O41: each row joins or waits by the length of the queue, and the head starts or faults by its descriptor. -/
theorem collectivesQueueAndStart : Obligations.CollectivesQueueAndStart := by
  unfold Obligations.CollectivesQueueAndStart
  intro slab s o g q queue
  constructor
  · iterate 8 refine List.forall_mem_cons.mpr ⟨joinsOrWaits_of_fireColl queue rfl, ?_⟩
    exact List.forall_mem_singleton.mpr (joinsOrWaits_of_fireColl queue rfl)
  · intro e p c l x clean head bound ctx found w
    obtain ⟨n, starts⟩ := State.startHead_reads clean head bound (State.group?_of_ctx ctx found)
    exact ⟨fun passes => ⟨n, starts.trans (if_neg (Bool.eq_false_iff.mp passes))⟩,
      fun fails => ⟨n, starts.trans (if_pos fails)⟩⟩

/-! ### The members meet (R264, R266 to R268, R272) -/

/-- The heads of a group's queues have met (R272). -/
def State.markMet (s : State) (g : Group) : State :=
  (g.members.zip g.queues).foldl (fun s m => s.modQueue m.1 m.2 fun k => k.modHead fun e => { e with met := true }) s

section
variable {s : State} {part ctx lidx : Nat} {g : Group} {m0 : Member} {t : List Member} (run : s.running = true)
  (group : s.group? part ctx lidx = some g)

include group in
/-- While a member has not started its operation the others wait (R272). -/
theorem collectiveMeet_waits (missing : s.meeting g = none) : collectiveMeet part ctx lidx s = s := by
  rw [State.group?] at group
  simp only [collectiveMeet, group, missing]

include run group

/-- Members that agree meet: what transfers sent before is ordered, and the data moves (R74, R266, R272). -/
theorem collectiveMeet_agree (meet : s.meeting g = some (m0 :: t)) (agree : ∀ m ∈ t, m.key = m0.key) :
    collectiveMeet part ctx lidx s = ((s.markMet g).order (m0 :: t)).meetData g (m0 :: t) := by
  rw [State.group?] at group
  have same : (t.any fun m => m.key != m0.key) = false := by simpa using agree
  simp only [collectiveMeet, group, meet, run, same]
  rfl

/-- Members that do not agree fault the context (R272). -/
theorem collectiveMeet_differ (meet : s.meeting g = some (m0 :: t)) (differ : ∃ m ∈ t, m.key ≠ m0.key) :
    collectiveMeet part ctx lidx s = s.contextFault part ctx (lineFault .collMismatch m0.slab m0.op 5) := by
  rw [State.group?] at group
  have other : (t.any fun m => m.key != m0.key) = true := by simpa using differ
  simp only [collectiveMeet, group, meet, run, other]
  rfl

end

/-! ### A collective ends on a member (R67, R74, R264, R271, R278) -/

/-- The operation retires and leaves its group's queue. -/
def State.leaveGroup (s : State) (slab : Nat) (o : OpE) (q : Nat) : State :=
  (s.retire slab o).modQueue slab q fun k => { k with entries := k.entries.tail, gather := none }

/-- What the transfers before the operation sent to the slab has landed there (R74). -/
def State.landBefore (s : State) (slab : Nat) (o : OpE) : State :=
  s.land slab fun w => w.part == o.part && w.ctx == o.ctx && w.due == some o.id

/-- OP_END of a collective is the end of the collective on the member. -/
theorem opEnd_collective {s : State} {slab idx : Nat} {o : OpE} (run : s.running = true)
    (started : ((s.slab slab).started.filter fun o => o.unit == 5)[idx]? = some o) (code : o.op ≠ 0) :
    opEnd slab 5 idx s = s.collEnd slab o := by
  have unit : o.unit = 5 := unit_of_started started
  simp [opEnd, started, run, unit, code]

/-- A collective that is done leaves its queue and lets the next start; it emits its token unless it is a gather, whose ring is
free after it (R67, R271, logs 11 and 40). -/
theorem State.collEnd_done {s : State} {slab q : Nat} {o : OpE} {g : Group}
    (queue : s.groupQueue? o.part o.ctx (colGroup o.bits.toNat) slab = some (g, q))
    (first : (s.gqueue slab q).entries.head?.any (fun e => e.op.id == o.id) = true) (done : s.collDone g slab q = true) :
    s.collEnd slab o =
      if o.op = 8 then (((s.landBefore slab o).spoilRing slab o g).leaveGroup slab o q).startHead slab q
      else (((s.landBefore slab o).leaveGroup slab o q).emitToken slab o).startHead slab q := by
  have ends : (!(s.gqueue slab q).entries.head?.any (fun e => e.op.id == o.id) || !s.collDone g slab q) = false := by
    simp [first, done]
  simp only [State.collEnd, queue, ends]
  by_cases gather : o.op = 8 <;> simp only [gather] <;> rfl

/-! ### The watchdog (R280) -/

/-- What the watchdog of a group's operation reports: the group that stalled, then the others that wait (R280, log 41). -/
def State.stallFault (s : State) (slab p c l : Nat) (e : CollE) : FaultInfo :=
  { lineFault .collStall slab e.op 5 with
    detail0 := l, detail1 := ((s.waitingGroups p c).filter fun x => x != l).headD 0xFFFFFFFF,
    arg := listMask (l :: (s.waitingGroups p c).filter fun x => x != l), inj := s.startHeld p c }

section
variable {s : State} {slab q p c l : Nat} {e : CollE} (bound : (s.gqueue slab q).bound = some (p, c, l))
  (head : (s.gqueue slab q).entries.head? = some e)
include bound head

/-- It faults the context of an operation that has started and not met ... -/
theorem collWatchdogExpire_stalled (run : s.running = true) (started : e.started = true) (waits : e.met = false) :
    collWatchdogExpire slab q s = s.contextFault p c (s.stallFault slab p c l e) := by
  simp [collWatchdogExpire, bound, head, run, started, waits, State.stallFault]

/-- ... and does not run for one that has met. -/
theorem collWatchdogExpire_met (met : e.met = true) : collWatchdogExpire slab q s = s := by
  simp [collWatchdogExpire, bound, head, met]

end

/-! ### Units of a gather (R67, R277, R278) -/

/-- The gather t runs on the queue for the operation e of the group g. -/
structure State.Gathers (s : State) (slab q : Nat) (t : Gather) (p c : Nat) (e : CollE) (g : Group) : Prop where
  gather : (s.gqueue slab q).gather = some t
  head : (s.gqueue slab q).entries.head? = some e
  group : ∃ l, (s.gqueue slab q).bound = some (p, c, l) ∧ s.group? p c l = some g

/-- The bytes of unit k in the source of its rank, whose operation f runs on slab b (R277). -/
def State.gatherBytes (s : State) (b k : Nat) (f : CollE) : List Byte :=
  let d := cdescOf f.desc.toNat
  s.opBytes b f.op (d.src * 512 + k % (d.cpr + 1) * d.bytes) d.bytes

/-- Unit k arrives in its ring slot, and the tokens of the units arrived in order are emitted (R67, R277). -/
def State.unitArrived (s : State) (slab q k : Nat) (t : Gather) (e : CollE) (g : Group) (bs : List Byte) : State :=
  ((s.opWrite slab e.op (g.unitAddr t.chunks k) bs).modQueue slab q fun z =>
    { z with gather := some { t with arrived := k :: t.arrived } }).emitUnits slab q e.op (t.total + 1)

section
variable {s : State} {slab q k p c : Nat} {t : Gather} {e : CollE} {g : Group} (gathers : s.Gathers slab q t p c e g)
include gathers

/-- A unit whose ring slot is not free waits (R278). -/
theorem gatherUnitArrive_waits (taken : t.slotFree g.chunks k = false) : gatherUnitArrive slab q k s = s := by
  obtain ⟨gather, head, l, bound, group⟩ := gathers
  rw [State.group?] at group
  simp [gatherUnitArrive, gather, bound, head, group, taken]

/-- A unit that has not arrived, with its slot free and its source good, arrives (R277, R278). -/
theorem gatherUnitArrive_arrives {b : Nat} {f : CollE} (run : s.running = true) (unit : k < t.total)
    (new : t.arrived.contains k = false) (free : t.slotFree g.chunks k = true) (source : s.unitSource g k = some (b, f))
    (clean : s.clean b) :
    ∃ n, gatherUnitArrive slab q k s = (nextFree s n).unitArrived slab q k t e g (s.gatherBytes b k f) := by
  obtain ⟨gather, head, l, bound, group⟩ := gathers
  rw [State.group?] at group
  obtain ⟨n, reads⟩ := State.eccShare_clean clean p c f.op.seq
    [((cdescOf f.desc.toNat).src * 512 + k % ((cdescOf f.desc.toNat).cpr + 1) * (cdescOf f.desc.toNat).bytes,
      (cdescOf f.desc.toNat).bytes)]
  refine ⟨n, ?_⟩
  simp only [gatherUnitArrive, gather, bound, head, group, run, Nat.not_le.mpr unit, new, free, source, reads]
  rfl

end

/-- Settles O42: each of the five rows by what it does in the state that the clause describes. -/
theorem collectivesMeetAndGather : Obligations.CollectivesMeetAndGather := by
  unfold Obligations.CollectivesMeetAndGather
  refine ⟨fun s run => ⟨?_, ?_, ?_, ?_⟩, ?_⟩
  · rintro part ctx lidx c g ms m0 t hctx found meet rfl
    have group := State.group?_of_ctx hctx found
    exact ⟨fun agree => congrArg Host.Outcome.next (collectiveMeet_agree run group meet agree),
      fun differ => congrArg Host.Outcome.next (collectiveMeet_differ run group meet differ)⟩
  · intro part ctx lidx c g hctx found missing
    exact congrArg Host.Outcome.next (collectiveMeet_waits (State.group?_of_ctx hctx found) missing)
  · intro slab idx o g q started code queue first done landed out
    have ends := (opEnd_collective run started code).trans (State.collEnd_done queue first done)
    exact ⟨fun plain => congrArg Host.Outcome.next (ends.trans (if_neg plain)),
      fun gather => congrArg Host.Outcome.next (ends.trans (if_pos gather))⟩
  · intro slab q p c l e bound head started
    exact ⟨fun waits => congrArg Host.Outcome.next (collWatchdogExpire_stalled bound head run started waits),
      fun met => congrArg Host.Outcome.next (collWatchdogExpire_met bound head met)⟩
  · intro s slab q k t p c l e x g run gather bound head ctx found unit new
    have gathers : s.Gathers slab q t p c e g := ⟨gather, head, l, bound, State.group?_of_ctx ctx found⟩
    refine ⟨fun taken => congrArg Host.Outcome.next (gatherUnitArrive_waits gathers taken),
      fun free b f source clean => ?_⟩
    obtain ⟨n, arrives⟩ := gatherUnitArrive_arrives gathers run unit new free source clean
    exact ⟨n, congrArg Host.Outcome.next arrives⟩

end Sys2Proof.Machine
end

section
/-! SUPPORT. Proofs/Links.lean: sends of flits, the windows of replays, and the scrub (R255, R258, R259, R289, R291). -/

namespace Sys2Proof.Machine

/-! ### Changes at an index -/

/-- Two changes that agree on the element at an index do the same there. -/
theorem modAt_congr {α : Type} [Inhabited α] {l : List α} {i : Nat} {f g : α → α} (agree : f (nth l i) = g (nth l i)) :
    modAt l i f = modAt l i g := by
  refine List.ext_getElem?_iff.mpr fun j => ?_
  by_cases here : i < l.length <;> by_cases same : i = j
  · subst same
    simpa [modAt, here, nth, List.getD_eq_getElem?_getD] using agree
  · simp [modAt, same]
  · subst same
    simp [modAt, List.getElem?_eq_none (Nat.not_lt.mp here)]
  · simp [modAt, same]

/-- A change that keeps the element at an index keeps the list. -/
theorem modAt_eq_self {α : Type} [Inhabited α] {l : List α} {i : Nat} {f : α → α} (keeps : f (nth l i) = nth l i) :
    modAt l i f = l :=
  (modAt_congr (g := id) keeps).trans (List.modify_id i l)

theorem State.modSlab_eq_self {s : State} {slab : Nat} {f : Slab → Slab} (keeps : f (s.slab slab) = s.slab slab) :
    s.modSlab slab f = s := by
  rw [State.modSlab, modAt_eq_self keeps]
  rfl

/-! ### Views of a link (R258, R259) -/

theorem State.modLink_congr {s : State} {slab t : Nat} {f g : HLink → HLink} (agree : f (s.link slab t) = g (s.link slab t)) :
    s.modLink slab t f = s.modLink slab t g := by
  refine congrArg s.setSlabs (modAt_congr ?_)
  exact congrArg (fun l => { nth s.slabs slab with links := l }) (modAt_congr agree)

theorem State.modLink_modLink (s : State) (slab t : Nat) (f g : HLink → HLink) :
    (s.modLink slab t f).modLink slab t g = s.modLink slab t (g ∘ f) := by
  simp only [State.modLink, State.modSlab, State.setSlabs_slabs, modAt_comp]
  refine congrArg s.setSlabs (congrArg (modAt s.slabs slab) (funext fun b => ?_))
  simp only [Function.comp_apply, modAt_comp]

theorem State.link_modLink_self {s : State} {slab t : Nat} (there : slab < s.slabs.length) (port : t < (s.slab slab).links.length)
    (f : HLink → HLink) : (s.modLink slab t f).link slab t = f (s.link slab t) := by
  simp only [State.link, State.modLink, State.slab_modSlab_self s there, nth_modAt_self port]

/-! ### Sends of a flit (R255, R258, R259) -/

/-- Both ends of the link note a send of a flit with the outcome of its check (R258). -/
def State.flitSent (s : State) (slab t : Nat) (rx : Bool) (f : Flit) : State :=
  s.modLinkEnds slab t rx fun l d => l.flit d f (flitGood f)

/-- What the row asks of the link before a flit can come: it is powered and up, and the sender may send this flit now (log 3). -/
structure State.FlitComes (s : State) (slab t : Nat) (rx : Bool) (f : Flit) : Prop where
  powered : s.linkPowered slab t = true
  up : (s.link slab t).up = true
  may : (s.link slab t).mayCome (dirIdx rx) f = true

/-- A flit that cannot come changes nothing (log 3). -/
theorem flitReceive_absent {s : State} {slab t : Nat} {rx : Bool} {f : Flit} (absent : ¬ s.FlitComes slab t rx f) :
    flitReceive slab t rx f s = s := by
  refine if_pos ?_
  by_contra comes
  simp only [Bool.or_eq_true, Bool.not_eq_true', not_or, Bool.not_eq_false] at comes
  obtain ⟨⟨⟨-, powered⟩, up⟩, may⟩ := comes
  exact absent ⟨powered, up, may⟩

/-- A flit that comes is noted at both ends, and its eighth failure in a row stops the module (R258, R259). -/
theorem flitReceive_comes {s : State} {slab t : Nat} {rx : Bool} {f : Flit} (run : s.running = true)
    (armed : s.talus.armed = []) (comes : s.FlitComes slab t rx f) :
    flitReceive slab t rx f s =
      if flitGood f = false ∧ 7 ≤ (s.link slab t).failures (dirIdx rx) f then (s.flitSent slab t rx f).linkDown slab false
      else s.flitSent slab t rx f := by
  obtain ⟨powered, up, may⟩ := comes
  have unhurt (r : HLink) (d : Nat) : { r with hurt := modAt r.hurt d fun h => h || false } = r := by
    rw [modAt_eq_self (Bool.or_false _)]
  simp only [flitReceive, run, powered, up, may, State.opportunity_unarmed armed, Option.isNone_none, Option.isSome_none,
    Bool.and_true, unhurt]
  simp [State.flitSent]

/-! ### Windows of replays (R258, R259) -/

/-- A link at the end of a window of a direction that kept the limit: its counts begin anew, and it is not degraded (R259). -/
def HLink.windowKept (l : HLink) (dir : Nat) : HLink :=
  { l with
    degraded := modAt l.degraded dir fun _ => false
    flits := modAt l.flits dir fun _ => 0
    replayed := modAt l.replayed dir fun _ => 0
    hurt := modAt l.hurt dir fun _ => false
    replays := Nat.min (2 ^ 32 - 1) l.replays }

theorem State.windowEnd_kept {s : State} {slab t : Nat} {rx : Bool} (armed : s.talus.armed = [])
    (kept : (s.link slab t).exceeded (dirIdx rx) = false) :
    s.windowEnd slab t rx = s.modLink slab t fun l => l.windowKept (dirIdx rx) := by
  simp only [State.windowEnd, State.opportunity_unarmed armed, kept, Option.isSome_none, Bool.or_false, Bool.false_eq_true,
    if_false]
  refine State.modLink_congr ?_
  simp only [HLink.windowKept, Nat.sub_self, Nat.add_zero]

/-- The end of the window of one direction leaves the counts of the other (R259). -/
theorem HLink.exceeded_windowKept (l : HLink) {d e : Nat} (other : d ≠ e) : (l.windowKept d).exceeded e = l.exceeded e := by
  simp [HLink.exceeded, HLink.windowKept, modAt, List.getD_eq_getElem?_getD, other]

/-- With both directions inside the limit both windows end so. -/
theorem replayWindowEnd_kept {s : State} {slab t : Nat} (run : s.running = true) (armed : s.talus.armed = [])
    (powered : s.linkPowered slab t = true) (up : (s.link slab t).up = true) (there : slab < s.slabs.length)
    (port : t < (s.slab slab).links.length) (send : (s.link slab t).exceeded 0 = false)
    (receive : (s.link slab t).exceeded 1 = false) :
    replayWindowEnd slab t s = s.modLink slab t fun l => (l.windowKept 0).windowKept 1 := by
  have first : s.windowEnd slab t false = s.modLink slab t fun l => l.windowKept 0 := State.windowEnd_kept armed send
  have second : ((s.modLink slab t fun l => l.windowKept 0).link slab t).exceeded 1 = false := by
    rw [State.link_modLink_self there port, HLink.exceeded_windowKept _ (by decide), receive]
  calc replayWindowEnd slab t s
    _ = (s.windowEnd slab t false).windowEnd slab t true := by
      simp only [replayWindowEnd, run, powered, up, Bool.and_self, if_true]
    _ = (s.modLink slab t fun l => l.windowKept 0).modLink slab t fun l => l.windowKept 1 := by
      rw [first]; exact State.windowEnd_kept (rx := true) armed second
    _ = s.modLink slab t fun l => (l.windowKept 0).windowKept 1 := State.modLink_modLink ..

/-! ### The scrub (R289, R291) -/

/-- A scrub that goes on, of a memory where it finds no new bad word. -/
theorem scrubPass_nothingNew {s : State} {slab : Nat} (run : s.running = true) (awake : s.hub.rest = .awake)
    (fitted : slab < s.slabCount) (hbm : Bool) :
    scrubPass slab hbm [] s = if hbm then s.scrubHbmAll slab else s.scrubSpadAll slab := by
  have same : (s.modSlab slab fun b => { b with bad := b.bad }) = s := State.modSlab_eq_self rfl
  simp only [scrubPass, run, awake, Nat.not_le.mpr fitted, List.filter_nil, List.foldl_nil, same]
  simp

/-- ... and of one that held no bad word, where it finds one. -/
theorem scrubPass_finds {s : State} {slab : Nat} {u : Upset} (run : s.running = true) (awake : s.hub.rest = .awake)
    (fitted : slab < s.slabCount) (good : (s.slab slab).bad = []) (hbm : placeInHbm u.place = true)
    (here : s.placeHere slab u.place = true) (wrong : 0 < u.symbols) :
    scrubPass slab true [u] s = (s.modSlab slab fun b => { b with bad := [u] }).scrubHbmAll slab := by
  have found : (s.modSlab slab fun b => { b with bad := if b.bad.contains u then b.bad else b.bad ++ [u] }) =
      s.modSlab slab fun b => { b with bad := [u] } := by
    refine congrArg s.setSlabs (modAt_congr ?_)
    have good : (nth s.slabs slab).bad = [] := good
    simp [good]
  simp only [scrubPass, run, awake, Nat.not_le.mpr fitted, hbm, here, wrong, List.filter_cons, List.filter_nil]
  simpa using congrArg (State.scrubHbmAll · slab) found

/-- With no injection armed a scrub of HBM corrects or reports the bad words of the slab in turn. -/
theorem State.scrubHbmAll_unarmed {s : State} (armed : s.talus.armed = []) (slab : Nat) :
    s.scrubHbmAll slab = ((s.scrubWords slab true).foldl
      (fun t u => t.scrubMet slab (Config.freeNat t.free % 3) u.symbols u false) (nextFree s 3)).scrubSteward slab := by
  have armed : (nextFree s 3).talus.armed = [] := armed
  simp only [State.scrubHbmAll, State.opportunity_unarmed armed, State.scrubAlone, Option.any_none, Option.map_none, ite_self,
    Option.isSome_none, Bool.false_eq_true, if_false]
  rfl

/-- With no injection armed the scrub meets nothing in the Steward's frames (R488). -/
theorem State.scrubSteward_unarmed {s : State} (armed : s.talus.armed = []) (slab : Nat) : s.scrubSteward slab = s := by
  simp [State.scrubSteward, State.opportunity_unarmed armed]

/-- A slab with no bad word has none to scrub. -/
theorem State.scrubWords_good {s : State} {slab : Nat} (good : (s.slab slab).bad = []) (hbm : Bool) :
    s.scrubWords slab hbm = [] := by
  simp [State.scrubWords, good]

/-- A scrub of a slab with no bad word changes nothing but the draw of free values. -/
theorem scrubPass_good {s : State} {slab : Nat} (run : s.running = true) (awake : s.hub.rest = .awake)
    (fitted : slab < s.slabCount) (clean : s.clean slab) (hbm : Bool) : ∃ n, scrubPass slab hbm [] s = nextFree s n := by
  obtain ⟨good, armed⟩ := clean
  rw [scrubPass_nothingNew run awake fitted]
  cases hbm with
  | true =>
    refine ⟨3, ?_⟩
    rw [if_pos rfl, State.scrubHbmAll_unarmed armed, State.scrubWords_good good, List.foldl_nil]
    exact State.scrubSteward_unarmed (s := nextFree s 3) armed slab
  | false =>
    have none : (nextFree s 2).scrubWords slab false = [] := State.scrubWords_good good false
    exact ⟨2, by simp [State.scrubSpadAll, State.opportunity_unarmed (s := nextFree s 2) armed, none]⟩

/-- A corrected word of HBM is counted and reported, and nothing else changes (R291, R318). -/
theorem State.hbmCorrected_told (s : State) (slab j : Nat) (w : HbmWord) (inj : Bool) :
    Told ((nextFree s 1).countHbm slab j 1) (s.hbmCorrected slab j w inj) :=
  State.moduleEvent_told (Told.refl _) ..

theorem State.bad_hbmCorrected (s : State) (slab j : Nat) (w : HbmWord) (inj : Bool) :
    ((s.hbmCorrected slab j w inj).slab slab).bad = (s.slab slab).bad := by
  have told := s.hbmCorrected_told slab j w inj
  calc ((s.hbmCorrected slab j w inj).slab slab).bad
    _ = (((nextFree s 1).countHbm slab j 1).slab slab).bad := by rw [State.slab, told.slabs]; rfl
    _ = (s.slab slab).bad := State.slab_modSlab_keeps Slab.bad (nextFree s 1) slab slab _ fun _ => rfl

/-- A bad word of HBM with at most two bad symbols is corrected and good again (R289, R291). -/
theorem State.scrubMet_corrects {s : State} {slab j n : Nat} {u : Upset} (run : s.running = true)
    (held : (s.slab slab).bad.contains u = true) (few : n ≤ 2) (inj : Bool) :
    s.scrubMet slab j n u inj =
      (nextFree (s.modSlab slab fun b => b.dropUpset u) 1).hbmCorrected slab j (hbmPlace u.place) inj := by
  simp only [State.scrubMet, run, held, few, State.scrubHbm, if_true]
  rfl

/-- The slab's one bad word, of HBM, is the one that a scrub of HBM meets. -/
theorem State.scrubWords_one {s : State} {slab : Nat} {u : Upset} (one : (s.slab slab).bad = [u])
    (hbm : placeInHbm u.place = true) (here : s.placeHere slab u.place = true) (wrong : 0 < u.symbols) :
    s.scrubWords slab true = [u] := by
  simp [State.scrubWords, one, hbm, here, wrong]

/-- The slab after its one bad word u of HBM has been corrected and reported (R291). -/
def State.scrubbed (s : State) (slab : Nat) (u : Upset) : State :=
  (nextFree ((nextFree s 3).modSlab slab fun b => b.dropUpset u) 1).hbmCorrected slab (Config.freeNat (nextFree s 3).free % 3)
    (hbmPlace u.place) false

section
variable {s : State} {slab : Nat} {u : Upset}

theorem State.scrubbed_told (s : State) (slab : Nat) (u : Upset) :
    Told ((nextFree (nextFree ((nextFree s 3).modSlab slab fun b => b.dropUpset u) 1) 1).countHbm slab
      (Config.freeNat (nextFree s 3).free % 3) 1) (s.scrubbed slab u) :=
  State.hbmCorrected_told ..

theorem State.bad_scrubbed (there : slab < s.slabs.length) (one : (s.slab slab).bad = [u]) :
    ((s.scrubbed slab u).slab slab).bad = [] := by
  calc ((s.scrubbed slab u).slab slab).bad
    _ = (((nextFree s 3).modSlab slab fun b => b.dropUpset u).slab slab).bad := State.bad_hbmCorrected ..
    _ = ((s.slab slab).dropUpset u).bad := congrArg Slab.bad (State.slab_modSlab_self (nextFree s 3) there _)
    _ = [] := by simp [Slab.dropUpset, one]

/-- A scrub of HBM whose one bad word has one or two bad symbols corrects it. -/
theorem State.scrubHbmAll_one (run : s.running = true) (armed : s.talus.armed = []) (one : (s.slab slab).bad = [u])
    (hbm : placeInHbm u.place = true) (here : s.placeHere slab u.place = true) (wrong : 0 < u.symbols) (few : u.symbols ≤ 2) :
    s.scrubHbmAll slab = s.scrubbed slab u := by
  have held : ((nextFree s 3).slab slab).bad.contains u = true := by
    rw [show ((nextFree s 3).slab slab).bad = [u] from one]; simp
  rw [State.scrubHbmAll_unarmed armed, State.scrubWords_one one hbm here wrong, List.foldl_cons, List.foldl_nil,
    State.scrubMet_corrects (s := nextFree s 3) run held few]
  exact State.scrubSteward_unarmed ((s.scrubbed_told slab u).armed armed) slab

/-- A scrub that finds one such word in a good slab leaves the slab good, the partitions as they were and the module up. -/
theorem scrubPass_corrects (run : s.running = true) (awake : s.hub.rest = .awake) (fitted : slab < s.slabCount)
    (there : slab < s.slabs.length) (clean : s.clean slab) (hbm : placeInHbm u.place = true)
    (here : s.placeHere slab u.place = true) (wrong : 0 < u.symbols) (few : u.symbols ≤ 2) :
    ∃ v, scrubPass slab true [u] s = v ∧ (v.slab slab).bad = [] ∧ v.parts = s.parts ∧ v.hub.stop = none := by
  obtain ⟨good, armed⟩ := clean
  have one : ((s.modSlab slab fun b => { b with bad := [u] }).slab slab).bad = [u] :=
    congrArg Slab.bad (s.slab_modSlab_self there _)
  have found := scrubPass_finds run awake fitted good hbm here wrong
  have told := State.scrubbed_told (s.modSlab slab fun b => { b with bad := [u] }) slab u
  refine ⟨_, found.trans (State.scrubHbmAll_one run armed one hbm here wrong few), State.bad_scrubbed ?_ one, told.parts, ?_⟩
  · simpa using there
  · rw [told.hub]
    exact (s.running_iff.mp run).2

end

/-- Settles O44: a flit that comes and one that does not, windows inside the limit, and a scrub of a good slab and of one word. -/
theorem linksAndScrub : Obligations.LinksAndScrub := by
  unfold Obligations.LinksAndScrub
  intro s slab t run armed
  refine ⟨fun rx f powered up => ⟨fun may fine => ?_, fun may bad worn => ?_, fun may => ?_⟩, fun rx f off => ?_,
    fun powered up there port send receive => ?_, fun hbm awake fitted good => ?_,
    fun u awake fitted there good hbm here few => ?_⟩
  · exact congrArg Host.Outcome.next ((flitReceive_comes run armed ⟨powered, up, may⟩).trans (if_neg fun ⟨bad, worn⟩ =>
      fine.elim (by simp [bad]) (Nat.not_lt.mpr worn)))
  · exact congrArg Host.Outcome.next ((flitReceive_comes run armed ⟨powered, up, may⟩).trans (if_pos ⟨bad, worn⟩))
  · exact congrArg Host.Outcome.next (flitReceive_absent fun comes => absurd comes.may (by simp [may]))
  · exact congrArg Host.Outcome.next (flitReceive_absent fun comes => absurd comes.powered (by simp [off]))
  · refine congrArg Host.Outcome.next ((replayWindowEnd_kept run armed powered up there port send receive).trans ?_)
    simp [HLink.windowKept]
  · obtain ⟨n, scrubbed⟩ := scrubPass_good run awake fitted ⟨good, armed⟩ hbm
    exact ⟨n, congrArg Host.Outcome.next scrubbed⟩
  · obtain ⟨v, scrubbed, after⟩ := scrubPass_corrects run awake fitted there ⟨good, armed⟩ hbm here (by omega) (by omega)
    exact ⟨v, congrArg Host.Outcome.next scrubbed, after⟩

end Sys2Proof.Machine
end

section
/-! SUPPORT. Proofs/Apart.lean: what no row does at all, and what no operation of a unit does outside its own partition
(R297, R405, R448, R451). -/

namespace Sys2Proof.Machine

/-! ### Every row -/

/-- What a row keeps on the way to the state that it answers with, it keeps on the way to its next state. -/
theorem Keep.ofNext {s t u : State} (h : Keep s u) (e : Host.Outcome.next (φ := Fault) (ρ := Refusal) u = .next t) :
    Keep s t := by
  cases e; exact h

/-- Every row keeps the queue, the part and its serial number, the draws and the invariant: the service-mode switch and the
steps of start-up of their own, every other as a row that is calm while the module is up. -/
theorem exec_keep {c : Instr} {s t : State} (e : exec c s = .next t) : Keep s t := by
  by_cases hm : c = .serviceModeSwitch
  · subst hm
    exact (serviceModeSwitch_keep (.refl s)).ofNext e
  · by_cases hu : ∃ r, c = .startupStepEnd r
    · obtain ⟨r, rfl⟩ := hu
      exact (startupStepEnd_keep (.refl s) r).ofNext e
    · exact (exec_alive hm (fun r is => hu ⟨r, is⟩) e).toKeep

/-- Settles O57: it is a part of what every row keeps. -/
theorem noCommandReusesEntropy : Obligations.NoCommandReusesEntropy := by
  unfold Obligations.NoCommandReusesEntropy
  intro c s t e
  have keep := exec_keep e
  exact ⟨keep.pending, keep.part, keep.serial, keep.draws⟩

/-! ### Operations of units -/

section
variable {s t : State} {o : OpE} {slab u op : Nat} {act : State → Nat → OpE → State} {i : Instr}

/-- A row that fires the operation at the head of a queue stays within its partition if the operation's work does. -/
theorem within_of_fireRow (row : exec i s = .next (fireRow u op act slab s))
    (acts : ∀ v, Within o.part s v → Within o.part s (act v slab o)) (head : (s.queue slab u).head? = some o)
    (e : exec i s = .next t) : Within o.part s t := by
  cases row.symm.trans e
  exact fireRow_within (.refl _ s) head op act acts

/-- A row that fires a pair stays within any partition: the data moves in the consumer's row. -/
theorem within_of_firePair (row : exec i s = .next (firePair op slab s)) (e : exec i s = .next t) : Within o.part s t := by
  cases row.symm.trans e
  exact firePair_within (.refl _ s) op slab

/-- The row of the consumer of a pair that has fired stays within the consumer's partition if its work does. -/
theorem within_of_partnerRow (row : exec i s = .next (partnerRow u op act slab s))
    (acts : ∀ v, Within o.part s v → Within o.part s (act v slab o)) (joined : s.joined? slab u op = some o)
    (e : exec i s = .next t) : Within o.part s t := by
  cases row.symm.trans e
  exact partnerRow_within (.refl _ s) joined act acts

theorem looprAct_within {r : State} (k : Within o.part r s) : Within o.part r (looprAct s slab o) := by
  unfold looprAct
  dsimp only
  split
  · exact State.opFault_within k ..
  · exact State.modLive_within k ..

theorem vDwconvAct_within {r : State} (k : Within o.part r s) : Within o.part r (vDwconvAct s slab o) := by
  unfold vDwconvAct
  exact State.convolve_within k ..

theorem vGconvAct_within {r : State} (k : Within o.part r s) : Within o.part r (vGconvAct s slab o) := by
  unfold vGconvAct
  exact State.convolve_within k ..

/-- FENCE waits for the earlier operations of its context, or fires. -/
theorem fence_within (head : (s.queue slab 7).head? = some o) (e : exec (.fence slab) s = .next t) : Within o.part s t := by
  have row : t = fence slab s := by cases e; rfl
  rw [row, fence, head]
  dsimp only
  split
  · exact .refl _ s
  · exact fireRow_within (.refl _ s) head 5 _ fun _ w => w

end

/-- Rows, each with the unit whose queue it looks at: on the way from s to t, the row of an operation at the head of its
queue stays within that operation's partition. -/
def HeadsStay (s t : State) (o : OpE) (slab : Nat) (rows : List (Instr × Nat)) : Prop :=
  ∀ r ∈ rows, (s.queue slab r.2).head? = some o → exec r.1 s = .next t → Within o.part s t

theorem HeadsStay.cons {s t : State} {o : OpE} {slab u : Nat} {i : Instr} {rows : List (Instr × Nat)}
    (row : (s.queue slab u).head? = some o → exec i s = .next t → Within o.part s t) (rest : HeadsStay s t o slab rows) :
    HeadsStay s t o slab ((i, u) :: rows) :=
  List.forall_mem_cons.mpr ⟨row, rest⟩

/-- What the statement calls apart, for the partition of an operation. -/
theorem Within.apart {p : Nat} {s t : State} (w : Within p s t) :
    (∀ j, j ≠ p → t.part j = s.part j) ∧
      (t.codec.sessions.filter fun x => x.part != p) = (s.codec.sessions.filter fun x => x.part != p) ∧
      t.codec.cores = s.codec.cores ∧ t.port = s.port ∧ t.geode = s.geode ∧ t.power = s.power ∧
      t.hub.stop = s.hub.stop ∧ t.hub.service = s.hub.service :=
  ⟨w.parts, w.sessions, w.cores, w.port, w.geode, w.power, by rw [w.hub], by rw [w.hub]⟩

/-- Settles O43, row by row from where each operation's work stays. -/
theorem unitOperationsStayInTheirPartition : Obligations.UnitOperationsStayInTheirPartition := by
  unfold Obligations.UnitOperationsStayInTheirPartition
  intro slab s t o apart
  constructor
  · suffices rows : HeadsStay s t o slab _ from fun r member head e => (rows r member head e).apart
    -- the array and the accumulator
    refine HeadsStay.cons (within_of_fireRow rfl fun _ w => mmAct_within w slab) ?_
    refine HeadsStay.cons (within_of_fireRow rfl fun _ w => mmListAct_within w slab) ?_
    refine HeadsStay.cons (within_of_fireRow rfl fun _ w => mmArriveAct_within w slab) ?_
    refine HeadsStay.cons (within_of_fireRow rfl fun _ w => accClearAct_within w slab) ?_
    refine HeadsStay.cons (within_of_fireRow rfl fun _ w => accSpillAct_within w slab) ?_
    refine HeadsStay.cons (within_of_fireRow rfl fun _ w => accResumeAct_within w slab) ?_
    iterate 2 refine HeadsStay.cons (fun _ => within_of_firePair rfl) ?_
    refine HeadsStay.cons (within_of_fireRow rfl fun _ w => accSatclrAct_within w slab) ?_
    -- V_ADD to V_ADDI, V_CVT and V_DITHER, V_GADD, V_RSUM to V_ARGMAX, the convolutions, loads and stores
    iterate 10 refine HeadsStay.cons (within_of_fireRow rfl fun _ w => State.elementWise_within w slab _) ?_
    iterate 2 refine HeadsStay.cons (within_of_fireRow rfl fun _ w => State.putBand_within w slab _ _) ?_
    refine HeadsStay.cons (within_of_fireRow rfl fun _ w => State.elementWise_within w slab _) ?_
    iterate 4 refine HeadsStay.cons (within_of_fireRow rfl fun _ w => State.reduceRows_within w slab _) ?_
    refine HeadsStay.cons (within_of_fireRow rfl fun _ w => vDwconvAct_within w) ?_
    refine HeadsStay.cons (within_of_fireRow rfl fun _ w => vGconvAct_within w) ?_
    iterate 2 refine HeadsStay.cons (within_of_fireRow rfl fun _ w => vLdAct_within w slab) ?_
    iterate 2 refine HeadsStay.cons (within_of_fireRow rfl fun _ w => vStAct_within w slab) ?_
    -- VB_EXP to VB_COS, and the rest of pipe B
    iterate 10 refine HeadsStay.cons (within_of_fireRow rfl fun _ w => State.specialBand_within w slab _) ?_
    refine HeadsStay.cons (within_of_fireRow rfl fun _ w => vbCompressAct_within w slab) ?_
    refine HeadsStay.cons (within_of_fireRow rfl fun _ w => vbExpandAct_within w slab) ?_
    refine HeadsStay.cons (within_of_fireRow rfl fun _ w => vbPermuteAct_within w slab) ?_
    refine HeadsStay.cons (within_of_fireRow rfl fun _ w => State.mapBand_within w slab _) ?_
    refine HeadsStay.cons (within_of_fireRow rfl fun _ w => vbCropAct_within w slab) ?_
    -- transfers, Flint and the control unit
    refine HeadsStay.cons (within_of_fireRow rfl fun _ w => xfPagedAct_within w slab) ?_
    refine HeadsStay.cons (within_of_fireRow rfl fun _ w => flDrawAct_within w slab) ?_
    iterate 2 refine HeadsStay.cons (within_of_fireRow (act := fun v _ _ => v) rfl fun _ w => w) ?_
    refine HeadsStay.cons (within_of_fireRow rfl fun _ w => looprAct_within w) ?_
    refine HeadsStay.cons (within_of_fireRow (act := fun v _ _ => v) rfl fun _ w => w) ?_
    exact List.forall_mem_singleton.mpr fence_within
  · suffices rows : ∀ r ∈ (_ : List (Instr × Nat × Nat)), s.joined? slab r.2.1 r.2.2 = some o → exec r.1 s = .next t →
        Within o.part s t from fun r member joined e => (rows r member joined e).apart
    refine List.forall_mem_cons.mpr ⟨within_of_partnerRow rfl fun _ w => mmChainAct_within w slab, ?_⟩
    refine List.forall_mem_cons.mpr ⟨within_of_partnerRow rfl fun _ w => vEpiAct_within w slab, ?_⟩
    exact List.forall_mem_singleton.mpr (within_of_partnerRow rfl fun _ w => vOsmAct_within w slab)

end Sys2Proof.Machine
end

section
/-! SUPPORT. Proofs/PartitionsAndModels.lean: the commands that make, change and remove partitions, and those that load, drop
and pin models (R297, R302, R303, R310, R311, R356, R389, R397 to R402). -/

namespace Sys2Proof.Machine

/-! ### PART_CREATE, PART_SET and PART_DESTROY (R397 to R402) -/

section
variable {s : State} {f : Flight} {bases : List Nat}

/-- The state with a new partition: its quotas, its blocks, the next draw as its HBM key, and its ring unset (R297, R397,
R399, R471). -/
def State.withPart (s : State) (p : Nat) (q : Quota) (bases : List Nat) : State :=
  ((s.setGeode { s.geode with draws := s.geode.draws + 1 }).modPart p fun _ =>
    { Part.absent with live := true, q := q, slotBase := bases, key := s.geode.draws }).modRing p fun r =>
      { Ring.reset with classes := r.classes }

/-- PART_CREATE of a partition that does not exist, with quotas that fit, makes it (R397 to R399). -/
theorem partCreate_makes (low : 1 ≤ f.arg 0 1) (high : f.arg 0 1 ≤ 15) (inRange : s.quotaInRange (quotaOfArgs f) = true)
    (absent : (s.part (f.arg 0 1)).live = false) (blocks : s.placeBlocks (f.arg 0 1) (quotaOfArgs f) = some bases)
    (fits : s.quotaFits (f.arg 0 1) (quotaOfArgs f) = true) :
    partCreate s f = (s.withPart (f.arg 0 1) (quotaOfArgs f) bases).okCmd f := by
  have named : ¬ (f.arg 0 1 = 0 ∨ 15 < f.arg 0 1) := by omega
  simp [partCreate, named, inRange, absent, blocks, fits, State.entropyDraw, State.withPart]

/-- PART_SET of a partition that exists, with quotas that fit and that its use allows, changes quotas and blocks; where it
withdraws HOST_ACCESS it waits for the lines of the window that the host holds (R356, R399, R400). -/
theorem partSet_changes (high : f.arg 0 1 ≤ 15) (inRange : s.quotaInRange (quotaOfArgs f) = true)
    (live : (s.part (f.arg 0 1)).live = true) (blocks : s.placeBlocks (f.arg 0 1) (quotaOfArgs f) = some bases)
    (fits : s.quotaFits (f.arg 0 1) (quotaOfArgs f) = true)
    (unused : s.setBusy (f.arg 0 1) (quotaOfArgs f) bases = false) :
    partSet s f =
      let t := s.modPart (f.arg 0 1) fun x => { x with q := quotaOfArgs f, slotBase := bases }
      if (s.part (f.arg 0 1)).q.hostAccess = true ∧ (quotaOfArgs f).hostAccess = false ∧
          (t.closeWindow (f.arg 0 1)).windowClosed (f.arg 0 1) = false
      then (t.closeWindow (f.arg 0 1)).busyCmd f else t.okCmd f := by
  simp [partSet, Nat.not_lt.mpr high, inRange, live, blocks, fits, unused, and_assoc]

/-- PART_DESTROY of a partition that exists, other than the first, ends it (R397, R402). -/
theorem partDestroy_ends (low : 1 ≤ f.arg 0 1) (high : f.arg 0 1 ≤ 15) (live : (s.part (f.arg 0 1)).live = true) :
    partDestroy s f = (s.destroyPart (f.arg 0 1) f.seq).okCmd f := by
  have named : ¬ (f.arg 0 1 = 0 ∨ 15 < f.arg 0 1) := by omega
  simp [partDestroy, named, live]

end

/-- Settles O4: each ready command performs at its seal, and the end of a partition leaves the rest as it was. -/
theorem partitionCommands : Obligations.PartitionCommands := by
  unfold Obligations.PartitionCommands
  intro fn k s
  refine ⟨fun ready => ?_, fun ready => ?_, fun ready => ?_⟩
  · intro a f p q low high inRange absent bases blocks fits
    exact exec_ready ready (partCreate_makes (s := a) (f := f) low high inRange absent blocks fits)
  · intro a f p q high inRange live bases blocks fits unused t
    have changes := partSet_changes (s := a) (f := f) high inRange live blocks fits unused
    refine ⟨fun stays => ?_, fun had gone waits => ?_⟩
    · refine exec_ready ready (changes.trans (if_neg fun withdraws => ?_))
      obtain ⟨had, gone, waits⟩ := withdraws
      rcases stays with hadNot | stillHas | closed
      · exact Bool.false_ne_true (hadNot.symm.trans had)
      · exact Bool.false_ne_true (gone.symm.trans stillHas)
      · exact Bool.false_ne_true (waits.symm.trans closed)
    · exact exec_ready ready (changes.trans (if_pos ⟨had, gone, waits⟩))
  · intro f p count low high live
    let a := s.accepting .partDestroy fn k
    have there : p < a.parts.length := by simp only [a, State.admit_parts, count]; omega
    obtain ⟨others, sessions, hub, power, port, geode, -⟩ := a.destroyPart_rest p f.seq
    refine ⟨(a.destroyPart p f.seq).okCmd f, exec_ready ready (partDestroy_ends (s := a) (f := f) low high live),
      a.destroyPart_gone there f.seq, others, sessions, ?_, power, port, geode, fun quiet => ?_⟩
    · rw [State.okCmd_hub, hub]
      rfl
    · exact State.destroyPart_quiet (s := a) quiet p f.seq

/-! ### Models (R302, R303, R310, R311, R389) -/

section
variable {s : State} {f : Flight} {m : Model}

/-- The checks of a MODEL_LOAD of `n` parts under handle `h` that go before the parts are read all pass: `a` is the state after
the entries `as` were read (R302, R303, R311). -/
structure State.LoadChecked (s a : State) (f : Flight) (bs : List Byte) (as : List PartArg) : Prop where
  low : 1 ≤ f.arg 0 1
  high : f.arg 0 1 ≤ 64
  known : f.arg 4 4 ≠ 0 → ∃ m, (s.part f.fn).model? (f.arg 4 4) = some m ∧ m.isLoading = false
  read : s.hostIn f f.cmd.code 1 (f.arg 8 8) (80 * f.arg 0 1) = (a, .ok bs)
  entries : (List.range (f.arg 0 1)).map (partArgAt bs) = as
  parts : ∀ x ∈ as, x.clean = true ∧ 1 ≤ x.size ∧ x.size ≤ 1024 ∧ x.mask ≠ 0 ∧
    ∀ k ∈ maskList x.mask 8, bitOf (s.part f.fn).q.mask k = true
  places : ∀ k < 8, (as.filter fun x => bitOf x.mask k).length ≤ 8
  unheld : f.arg 4 4 ≠ 0 → a.modelHeld f.fn (f.arg 4 4) = false
  count : f.arg 4 4 = 0 → (s.part f.fn).models.length < 256
  frames : ∀ k < 8, partFrames (as.map fun x => (x.size, x.mask)) k ≤ a.framesFree f.fn k +
    partFrames ((((s.part f.fn).model? (f.arg 4 4)).map fun m => m.parts.map fun x => (x.size, x.mask)).getD []) k

/-- The state in which a load keeps the parts that it read: under a fresh handle, or in the place of the model of its handle,
with hot copies where they are asked for and fit (R302, R303, R313). -/
def State.keepParts (s : State) (f : Flight) (l : List (PartArg × List Byte)) : State :=
  let g := if f.arg 4 4 = 0 then s.nextHandle else f.arg 4 4
  let parts := l.map fun x =>
    ({ size := x.1.size, mask := x.1.mask, bytes := Memory.write [] 0 x.2,
       places := (maskList x.1.mask 8).map fun k =>
        { slab := k, hot := false, pinned := false, lastUse := 0, damaged := false, loading := [] } } : MPart)
  let b := (if f.arg 4 4 = 0 then s.setNextHandle (s.nextHandle + 1) else s).modPart f.fn fun q =>
    { q with models := (q.models.filter fun m => m.handle != g) ++ [{ handle := g, parts := parts }] }
  let spots := ((List.range (f.arg 0 1)).map fun i => (maskList (nth parts i).mask 8).map fun k =>
    (i, k, (nth parts i).size)).flatten
  let r := if bitOf (f.arg 1 1) 0 then b.heat f.fn g f.seq spots else (b, 2 ^ f.arg 0 1 - 1)
  (r.1.dropBad fun x => match x with
    | .cold q m _ _ _ | .hot q m _ _ _ => q == f.fn && m == g
    | _ => false).okCmd f r.2 [] g

/-- A MODEL_LOAD whose checks pass and whose parts are read keeps them (R303). -/
theorem modelLoad_keeps {a b : State} {bs : List Byte} {as : List PartArg} {l : List (PartArg × List Byte)}
    (checked : s.LoadChecked a f bs as) (parts : a.readParts f (bitOf (f.arg 1 1) 1) 0 as = (b, .ok l)) :
    modelLoad s f = b.keepParts f l := by
  obtain ⟨low, high, known, read, entries, fine, places, unheld, count, frames⟩ := checked
  have number : (decide (f.arg 0 1 = 0) || decide (64 < f.arg 0 1)) = false := by simp; omega
  have found : (decide (f.arg 4 4 ≠ 0) && ((s.part f.fn).model? (f.arg 4 4)).isNone) = false := by
    by_cases named : f.arg 4 4 = 0
    · simp [named]
    · obtain ⟨m, is, -⟩ := known named
      simp [is]
  have clean : (as.any fun x => !x.clean) = false := by
    simpa using fun x mem => (fine x mem).1
  have inRange : ((as.any fun x => decide (x.size = 0) || decide (1024 < x.size) || decide (x.mask = 0) ||
        (maskList x.mask 8).any fun k => !bitOf (s.part f.fn).q.mask k) ||
      (List.range 8).any fun k => decide (8 < (as.filter fun x => bitOf x.mask k).length)) = false := by
    simp only [Bool.or_eq_false_iff, List.any_eq_false, List.mem_range, decide_eq_true_eq, Bool.not_eq_true,
      Bool.or_eq_false_iff, decide_eq_false_iff_not, Bool.not_eq_false', Nat.not_lt]
    exact ⟨fun x mem => by
      obtain ⟨-, nonempty, small, somewhere, own⟩ := fine x mem
      exact ⟨⟨⟨by omega, small⟩, somewhere⟩, own⟩, places⟩
  have free : (decide (f.arg 4 4 ≠ 0) && (a.modelHeld f.fn (f.arg 4 4) ||
      (((s.part f.fn).model? (f.arg 4 4)).map Model.isLoading).getD false)) = false := by
    by_cases named : f.arg 4 4 = 0
    · simp [named]
    · obtain ⟨m, is, idle⟩ := known named
      simp [unheld named, is, idle]
  have few : (decide (f.arg 4 4 = 0) && decide (256 ≤ (s.part f.fn).models.length)) = false := by
    simpa using count
  have fit : ((List.range 8).any fun k => decide (a.framesFree f.fn k + partFrames ((((s.part f.fn).model? (f.arg 4 4)).map
      fun m => m.parts.map fun x => (x.size, x.mask)).getD []) k < partFrames (as.map fun x => (x.size, x.mask)) k)) = false := by
    simpa using frames
  unfold modelLoad
  simp only [number, found, read, entries, clean, inRange, free, few, fit, parts, Bool.false_eq_true, if_false]
  unfold State.keepParts
  by_cases fresh : f.arg 4 4 = 0
  · simp only [if_pos fresh] <;> rfl
  · simp only [if_neg fresh] <;> rfl

/-- MODEL_DROP of a model that nothing holds or loads takes it away (R311). -/
theorem modelDrop_removes (found : (s.part f.fn).model? (f.arg 0 4) = some m)
    (unheld : s.modelHeld f.fn (f.arg 0 4) = false) (idle : m.isLoading = false) :
    modelDrop s f = (s.modPart f.fn fun q => { q with models := q.models.filter fun m => m.handle != f.arg 0 4 }).okCmd f := by
  simp [modelDrop, found, unheld, idle]

/-- Pin the hot copies among the places of a model (R310). -/
def State.pinHot (s : State) (p : Nat) (spots : List (Nat × Nat × Nat)) : State :=
  spots.foldl (fun s x => s.modPlace p x.1 x.2.1 x.2.2 fun y => { y with pinned := y.pinned || y.hot }) s

/-- MODEL_PIN that may load what is cold pins what is hot, and waits unless all of it is hot (R310). -/
theorem modelPin_pins {a : State} (found : (s.part f.fn).model? (f.arg 0 4) = some m)
    (loads : s.startLoads f.fn f.seq m.spots = .ok a) :
    modelPin s f =
      if (a.pinHot f.fn m.spots).allHot f.fn m.spots = true then (a.pinHot f.fn m.spots).okCmd f
      else (a.pinHot f.fn m.spots).busyCmd f [m.handle] := by
  simp only [modelPin, found, loads]
  rfl

/-- MODEL_UNPIN takes the pins of the model's copies away (R310). -/
theorem modelUnpin_unpins (found : (s.part f.fn).model? (f.arg 0 4) = some m) :
    modelUnpin s f = (m.spots.foldl (fun s x =>
      s.modPlace f.fn x.1 x.2.1 x.2.2 fun y => { y with pinned := false }) s).okCmd f := by
  simp only [modelUnpin, found]

/-- QUARRY_STAT answers a record for each part on each slab, those that its buffer holds (R389). -/
theorem quarryStat_answers (buf : bufOk (f.arg 0 8) (f.arg 8 4) = true) :
    let l := ((s.part f.fn).models.map Model.spots).flatten
    quarryStat s f = s.okCmd f l.length
      [{ addr := f.arg 0 8, len := f.arg 8 4, bytes := ((l.take (f.arg 8 4 / 16)).map (s.quarryRecord f.fn)).flatten,
         index := 1, epoch := true }] := by
  simp [quarryStat, buf]

end

/-- Settles O7: each ready command performs at its seal, and each effect is that of its command. -/
theorem modelCommands : Obligations.ModelCommands := by
  unfold Obligations.ModelCommands
  intro fn k s
  refine ⟨fun ready => ?_, fun ready => ?_, fun ready => ?_, fun ready => ?_, fun ready => ?_⟩
  · intro a f p n h low high known a1 bs read as parts places unheld count old frames a2 l readAll g kept b spots r
    have checked : a.LoadChecked a1 f bs as := ⟨low, high, known, read, rfl, parts, places, unheld, count, frames⟩
    exact exec_ready ready (modelLoad_keeps checked readAll)
  · intro a f m found unheld idle
    exact exec_ready ready (modelDrop_removes (s := a) (f := f) found unheld idle)
  · intro a f m s1 found loads t
    have pins := modelPin_pins (s := a) (f := f) found loads
    exact ⟨fun hot => exec_ready ready (pins.trans (if_pos hot)),
      fun cold => exec_ready ready (pins.trans (if_neg (Bool.eq_false_iff.mp cold)))⟩
  · intro f m found
    exact exec_ready ready (modelUnpin_unpins (s := s.accepting .modelUnpin fn k) (f := f) found)
  · intro a f l buf
    exact exec_ready ready (quarryStat_answers (s := a) (f := f) buf)

end Sys2Proof.Machine
end

section
/-! SUPPORT. Proofs/Heat.lean: readings of the temperatures of stacks, slabs and the hub, and of the draw (R293, R295, R496 to
R499). -/

namespace Sys2Proof.Machine

/-! ### Stops and events -/

/-- A module that works stops with the code and the first detail given (R483). -/
theorem State.stopModule_stops {s : State} (run : s.running = true) (c : St) (src unit d0 d1 : Nat) (inj : Bool) :
    ∃ x, (s.stopModule c src unit d0 d1 inj).hub.stop = some x ∧ x.code = c ∧ x.d0 = d0 := by
  obtain ⟨up, stop⟩ := s.running_iff.mp run
  simp [State.stopModule, up, stop]

/-- The report of an event leaves the module working. -/
theorem Told.running {s t : State} (h : Told s t) (run : s.running = true) : t.running = true := by
  obtain ⟨up, stop⟩ := s.running_iff.mp run
  exact t.running_iff.mpr ⟨by rw [h.hub]; exact up, by rw [h.hub]; exact stop⟩

/-! ### Stacks (R293, R295) -/

/-- A reading of 85 °C or more throttles a stack by a level, at most once a local ms and down to the third; one of at most 80 °C
for 10 local ms lifts a level; any other is only kept (R293). -/
theorem Stack.reading_eq (u : Stack) (temp now : Nat) :
    u.reading temp now =
      if 85 ≤ temp ∧ (u.level = 0 ∨ u.level < 3 ∧ u.steppedAt + 1000 ≤ now) then
        { u with temp := temp, coolSince := none, level := u.level + 1, steppedAt := now }
      else if temp ≤ 80 ∧ u.level ≠ 0 ∧ u.coolSince.getD now + 10000 ≤ now then
        { u with temp := temp, level := u.level - 1, coolSince := some now }
      else { u with temp := temp, coolSince := if temp ≤ 80 then some (u.coolSince.getD now) else none } := by
  unfold Stack.reading
  by_cases hot : 85 ≤ temp
  · have warm : ¬ temp ≤ 80 := by omega
    by_cases down : u.level = 0 ∨ u.level < 3 ∧ u.steppedAt + 1000 ≤ now <;> simp [hot, warm, down]
  · by_cases cool : temp ≤ 80
    · by_cases lift : u.level ≠ 0 ∧ u.coolSince.getD now + 10000 ≤ now <;> simp [hot, cool, lift]
    · simp [hot, cool]

/-- The state in which a stack has read a temperature. -/
def State.stackRead (s : State) (k temp : Nat) : State :=
  s.modSlab (k / 3) fun b => { b with hbm := modAt b.hbm (k % 3) fun _ =>
    (nth (s.slab (k / 3)).hbm (k % 3)).reading temp (nth (s.slab (k / 3)).timers 9) }

/-- ... and has told of a change of its level (R293). -/
def State.stackTold (s : State) (k temp : Nat) : State :=
  let u := nth (s.slab (k / 3)).hbm (k % 3)
  let v := u.reading temp (nth (s.slab (k / 3)).timers 9)
  if v.level = u.level then s.stackRead k temp
  else (s.stackRead k temp).moduleEvent .hbmThrottle 0 (k / 3) 0x9 (k % 3 + v.level * 256 + temp * 65536) 0 0

theorem State.stackTold_running {s : State} (run : s.running = true) (k temp : Nat) : (s.stackTold k temp).running = true := by
  unfold State.stackTold
  dsimp only
  split
  · exact run
  · exact (State.moduleEvent_told (.refl _) ..).running (s := s.stackRead k temp) run

section
variable {s : State} {k temp : Nat}

/-- A reading of a stack of the part, with no injection armed: at 95 °C the module stops (R293, R295). -/
theorem stackTempReading_reads (run : s.running = true) (armed : s.talus.armed = []) (there : k < 3 * s.slabCount) :
    stackTempReading k temp s =
      if 95 ≤ temp then (s.stackTold k temp).stopModule .hbmTrip (k / 3) 0x9 k 0xFFFFFFFF else s.stackTold k temp := by
  simp only [stackTempReading, run, Nat.not_le.mpr there, State.opportunity_unarmed armed]
  rfl

theorem stackTempReading_below (run : s.running = true) (armed : s.talus.armed = []) (there : k < 3 * s.slabCount)
    (low : temp < 95) : stackTempReading k temp s = s.stackTold k temp :=
  (stackTempReading_reads run armed there).trans (if_neg (Nat.not_le.mpr low))

theorem stackTempReading_trips (run : s.running = true) (armed : s.talus.armed = []) (there : k < 3 * s.slabCount)
    (high : 95 ≤ temp) : ∃ x, (stackTempReading k temp s).hub.stop = some x ∧ x.code = .hbmTrip ∧ x.d0 = k := by
  rw [stackTempReading_reads run armed there, if_pos high]
  exact State.stopModule_stops (State.stackTold_running run k temp) ..

end

/-! ### Junctions (R498, R499) -/

/-- A slab of the part is one of eight (R1). -/
theorem State.lt_eight_of_lt_slabCount {s : State} {u : Nat} (there : u < s.slabCount) : u < 8 := by
  unfold State.slabCount at there
  split at there <;> omega

/-- What the power manager keeps of the junction reading of a slab, with a change of the slab's limit (R498). -/
def PowerMgr.slabRead (p : PowerMgr) (u temp now : Nat) (limit : Bool → Bool) : PowerMgr :=
  { p with
    tj := modAt p.tj u fun _ => temp
    coolSince := modAt p.coolSince u fun _ => if temp ≤ 95 then some ((nth p.coolSince u).getD now) else none
    limitTherm := modAt p.limitTherm u limit }

/-- A slab's reading has been at most 95 °C for 10 local ms (R498). -/
def PowerMgr.Lifts (p : PowerMgr) (u temp now : Nat) : Prop := temp ≤ 95 ∧ (nth p.coolSince u).getD now + 10000 ≤ now

theorem PowerMgr.Lifts.mild {p : PowerMgr} {u temp now : Nat} (lifts : p.Lifts u temp now) : temp < 100 := by
  obtain ⟨cool, -⟩ := lifts
  omega

/-- 100 °C limits a slab (R498). -/
theorem PowerMgr.junction_hot {p : PowerMgr} {u temp now : Nat} (slab : u < 8) (hot : 100 ≤ temp) :
    p.junction u temp now = p.slabRead u temp now fun _ => true := by
  simp [PowerMgr.junction, PowerMgr.slabRead, Nat.not_le.mpr slab, hot]

/-- 95 °C or less for 10 local ms lifts the limit (R498). -/
theorem PowerMgr.junction_lifts {p : PowerMgr} {u temp now : Nat} (slab : u < 8) (lifts : p.Lifts u temp now) :
    p.junction u temp now = p.slabRead u temp now fun _ => false := by
  have mild := lifts.mild
  obtain ⟨cool, since⟩ := lifts
  simp [PowerMgr.junction, PowerMgr.slabRead, Nat.not_le.mpr slab, Nat.not_le.mpr mild, cool, since]

/-- Any other reading leaves the limit (R498). -/
theorem PowerMgr.junction_stays {p : PowerMgr} {u temp now : Nat} (slab : u < 8) (mild : temp < 100)
    (stays : ¬ p.Lifts u temp now) : p.junction u temp now = p.slabRead u temp now fun b => b := by
  have since : temp ≤ 95 → ¬ (nth p.coolSince u).getD now + 10000 ≤ now := fun cool since => stays ⟨cool, since⟩
  by_cases cool : temp ≤ 95 <;>
    simp [PowerMgr.junction, PowerMgr.slabRead, Nat.not_le.mpr slab, Nat.not_le.mpr mild, cool, since]

/-- The state in which a slab or the hub has read a junction temperature, and has told of a limit that begins (R499). -/
def State.junctionTold (s : State) (u temp : Nat) : State :=
  let t := s.setPower (s.power.junction u temp s.powTime)
  if nth s.power.limitTherm u = false ∧ u < 8 ∧ 100 ≤ temp then t.powerLimitEvent true false else t

/-- A reading below 100 °C tells of nothing. -/
theorem State.junctionTold_mild (s : State) {u temp : Nat} (mild : temp < 100) :
    s.junctionTold u temp = s.setPower (s.power.junction u temp s.powTime) := by
  simp [State.junctionTold, Nat.not_le.mpr mild]

/-- One of 100 °C or more tells of a slab that was not limited (R499). -/
theorem State.junctionTold_hot {s : State} {u temp : Nat} (slab : u < 8) (hot : 100 ≤ temp) :
    let t := s.setPower (s.power.slabRead u temp s.powTime fun _ => true)
    s.junctionTold u temp = if nth s.power.limitTherm u = false then t.powerLimitEvent true false else t := by
  simp [State.junctionTold, PowerMgr.junction_hot slab hot, slab, hot]

/-- The hub's reading is only kept (R498). -/
theorem State.junctionTold_hub (s : State) (temp : Nat) :
    s.junctionTold 8 temp = s.setPower { s.power with tj := modAt s.power.tj 8 fun _ => temp } := by
  simp [State.junctionTold, PowerMgr.junction]

/-- A junction reading of a slab of the part or of the hub, with no injection armed: at 110 °C the module stops (R498). -/
theorem junctionTempReading_reads {s : State} {u temp : Nat} (run : s.running = true) (armed : s.talus.armed = [])
    (there : u = 8 ∨ u < s.slabCount) :
    junctionTempReading u temp s =
      if 110 ≤ temp then (s.junctionTold u temp).stopModule .thermTrip 0xF 0xF (if u < 8 then u else 0xF) 0xFFFFFFFF
      else s.junctionTold u temp := by
  have named : (u != 8 && decide (s.slabCount ≤ u)) = false := by
    rcases there with hub | slab
    · simp [hub]
    · simp [slab]
  simp [junctionTempReading, run, named, State.opportunity_unarmed armed, State.junctionTold, and_assoc]

theorem State.junctionTold_running {s : State} (run : s.running = true) (u temp : Nat) :
    (s.junctionTold u temp).running = true := by
  unfold State.junctionTold
  dsimp only
  split
  · exact (State.moduleEvent_told (.refl _) ..).running (s := s.setPower (s.power.junction u temp s.powTime)) run
  · exact run

theorem junctionTempReading_below {s : State} {u temp : Nat} (run : s.running = true) (armed : s.talus.armed = [])
    (there : u = 8 ∨ u < s.slabCount) (low : temp < 110) : junctionTempReading u temp s = s.junctionTold u temp :=
  (junctionTempReading_reads run armed there).trans (if_neg (Nat.not_le.mpr low))

theorem junctionTempReading_trips {s : State} {u temp : Nat} (run : s.running = true) (armed : s.talus.armed = [])
    (there : u = 8 ∨ u < s.slabCount) (high : 110 ≤ temp) :
    ∃ x, (junctionTempReading u temp s).hub.stop = some x ∧ x.code = .thermTrip ∧ x.d0 = if u < 8 then u else 0xF := by
  rw [junctionTempReading_reads run armed there, if_pos high]
  exact State.stopModule_stops (State.junctionTold_running run u temp) ..

/-! ### The draw (R496, R499) -/

/-- A draw that is read, with no injection armed, starts an episode at the sustained limit unless one is on (R496, R499). -/
theorem drawLimitReached_reads {s : State} (run : s.running = true) (armed : s.talus.armed = []) (w mask : Nat) :
    drawLimitReached w mask s =
      if w < s.sustained ∨ s.power.episode = true then s.setPower { s.power with draw := w }
      else (s.setPower { s.power with
        draw := w, episode := true
        limitPower := (List.range 8).map fun k => decide (k < s.slabCount) && bitOf mask k }).powerLimitEvent false false := by
  simp [drawLimitReached, run, State.opportunity_unarmed armed]
  rfl

/-- An episode ends at 95 percent of the limit (R496). -/
theorem powerLimitEpisodeEnd_ends {s : State} {w : Nat} (run : s.running = true) (episode : s.power.episode = true)
    (low : w * 100 ≤ s.sustained * 95) :
    powerLimitEpisodeEnd w s =
      s.setPower { s.power with draw := w, episode := false, limitPower := List.replicate 8 false } := by
  simp [powerLimitEpisodeEnd, run, episode, low]

/-- ... and not above (log 3). -/
theorem powerLimitEpisodeEnd_goesOn {s : State} {w : Nat} (high : s.sustained * 95 < w * 100) : powerLimitEpisodeEnd w s = s := by
  simp [powerLimitEpisodeEnd, Nat.not_le.mpr high]

/-- Settles O21: readings of stacks, of slabs, of the hub and of the draw. -/
theorem temperatureAndPowerLimits : Obligations.TemperatureAndPowerLimits := by
  unfold Obligations.TemperatureAndPowerLimits
  refine ⟨fun s run armed => ⟨fun k temp there => ?_, fun u temp there => ?_, fun temp => ?_⟩, fun s w mask run armed => ?_⟩
  · intro u now cool v t
    have is : u.reading temp now = v := u.reading_eq temp now
    have told : s.stackTold k temp = if v.level = u.level then t else
        t.moduleEvent .hbmThrottle 0 (k / 3) 0x9 (k % 3 + v.level * 256 + temp * 65536) 0 0 := by
      simp only [State.stackTold, State.stackRead, t, ← is]
      rfl
    have below (low : temp < 95) := (stackTempReading_below run armed there low).trans told
    refine ⟨fun low same => ?_, fun low changed => ?_, fun high => ?_⟩
    · exact congrArg Host.Outcome.next ((below low).trans (if_pos same))
    · exact congrArg Host.Outcome.next ((below low).trans (if_neg changed))
    · exact ⟨_, (stackTempReading_trips run armed there high).imp fun _ stops => ⟨rfl, stops⟩⟩
  · intro p cool lift read
    have slab : u < 8 := State.lt_eight_of_lt_slabCount there
    have below (low : temp < 110) := junctionTempReading_below run armed (.inr there) low
    refine ⟨fun mild stays => ?_, fun lifts => ?_, fun hot low limited => ?_, fun hot low free => ?_, fun high => ?_⟩
    · have told := (s.junctionTold_mild mild).trans (congrArg s.setPower (PowerMgr.junction_stays slab mild stays))
      exact congrArg Host.Outcome.next ((below (by omega)).trans told)
    · have mild : temp < 100 := PowerMgr.Lifts.mild (p := p) lifts
      have told := (s.junctionTold_mild mild).trans (congrArg s.setPower (PowerMgr.junction_lifts slab lifts))
      exact congrArg Host.Outcome.next ((below (by omega)).trans told)
    · have told := (State.junctionTold_hot slab hot).trans (if_neg fun free => Bool.false_ne_true (free.symm.trans limited))
      exact congrArg Host.Outcome.next ((below low).trans told)
    · have told := (State.junctionTold_hot slab hot).trans (if_pos free)
      exact congrArg Host.Outcome.next ((below low).trans told)
    · obtain ⟨x, stop, code, d0⟩ := junctionTempReading_trips run armed (.inr there) high
      exact ⟨_, x, rfl, stop, code, d0.trans (if_pos slab)⟩
  · refine ⟨fun low => ?_, fun high => ?_⟩
    · exact congrArg Host.Outcome.next ((junctionTempReading_below run armed (.inl rfl) low).trans (s.junctionTold_hub temp))
    · exact ⟨_, (junctionTempReading_trips run armed (.inl rfl) high).imp fun _ stops => ⟨rfl, stops⟩⟩
  · have reads := drawLimitReached_reads run armed w mask
    refine ⟨fun low => ?_, fun high calm => ?_, fun episode low => ?_, fun high => ?_⟩
    · exact congrArg Host.Outcome.next (reads.trans (if_pos low))
    · exact congrArg Host.Outcome.next (reads.trans (if_neg (by simp [high, calm])))
    · exact congrArg Host.Outcome.next (powerLimitEpisodeEnd_ends run episode low)
    · exact congrArg Host.Outcome.next (powerLimitEpisodeEnd_goesOn high)

end Sys2Proof.Machine
end

section
/-! SUPPORT. Proofs/Coherence.lean: answers to back-invalidations and to snoops, refused translations, unsupported requests and
failed checks of link encryption (R299, R340, R341, R354 to R359, R363, R546). -/

namespace Sys2Proof.Machine

section
variable {s : State} {line : Nat}

/-! ### Back-invalidation and snoops (R354 to R356, R358) -/

/-- The answer to a back-invalidation takes the line from the filter, with modified data written back, and the accesses of the
host that wait go on (R354, R356). -/
theorem bisnpResponse_answers (run : s.running = true) (secure : s.port.ideCm ≠ 2)
    (awaited : s.port.awaiting.contains line = true) (unarmed : ∀ a ∈ s.talus.armed, a.point ≠ 0x0703)
    (dirty : Option (List Byte)) :
    bisnpResponse line dirty s =
      (match dirty with
        | some bs => (s.setPort (s.port.forget line)).writeBack line bs
        | none => s.setPort (s.port.forget line)).serveHost := by
  simp only [bisnpResponse, run, secure, awaited, State.opportunity_elsewhere unarmed]
  rfl

/-- An answer on an insecure stream, or to no back-invalidation, is discarded (R363, log 3). -/
theorem bisnpResponse_discarded (off : s.port.ideCm = 2 ∨ s.port.awaiting.contains line = false)
    (dirty : Option (List Byte)) : bisnpResponse line dirty s = s := by
  refine if_pos ?_
  rcases off with insecure | unasked
  · simp [insecure]
  · simp only [unasked]
    simp

/-- A line without an answer leaves the filter, its content is dropped, and the accesses of the host that wait go on (R355). -/
def State.dropLine (s : State) (line : Nat) : State :=
  ((s.setPort { s.port.forget line with dropped := s.port.dropped ++ [line] }).blurLine line).serveHost

/-- A line that no transfer waits for is dropped when its answer does not come (R355). -/
theorem biTimeout_alone (run : s.running = true) (awaited : s.port.awaiting.contains line = true)
    (alone : s.waitingOn line = []) : biTimeout line s = s.dropLine line := by
  simp only [biTimeout, run, awaited, Bool.and_self, if_true, State.biTimeout, alone, List.foldl_nil, State.dropLine]

/-- ... and the transfer that waits for it, where there is one, faults first (R355). -/
theorem biTimeout_faults {k : Nat} {o : OpE} (run : s.running = true) (awaited : s.port.awaiting.contains line = true)
    (waits : s.waitingOn line = [(k, o)]) (under : (s.slab k).transfer? = some o) :
    biTimeout line s = (s.xfFault k o .biTimeout o.unit 0xFFFFFFFF false).dropLine line := by
  simp only [biTimeout, run, awaited, Bool.and_self, if_true, State.biTimeout, waits, List.foldl_cons, List.foldl_nil, under,
    State.dropLine]

theorem biTimeout_unasked (unasked : s.port.awaiting.contains line = false) : biTimeout line s = s := by
  simp only [biTimeout, unasked, Bool.and_false, Bool.false_eq_true, if_false]

/-- A snoop is answered for any line, with a free value (R358, logs 11, 49). -/
theorem hostSnoop_answers (up : s.port.up = true) (cxl : s.port.cxl = true) (secure : s.port.ideCm ≠ 2) :
    hostSnoop line s = (nextFree s 1).setReply (.snoop (Config.freeBool s.free)) := by
  have arrives : s.port.cacheMem = true := by simp [Port.cacheMem, up, cxl, secure]
  exact if_pos arrives

/-! ### Refused translations (R359, R546) -/

/-- A refusal for a command marks it, and its next access to host memory fails (R359, log 45). -/
theorem atsTranslationRefused_command {q : Nat} (run : s.running = true) (new : s.port.refused.contains q = false) :
    atsTranslationRefused (.command q) s = s.setPort { s.port with refused := s.port.refused ++ [q] } := by
  simp only [atsTranslationRefused, run, new]
  rfl

/-- A refusal for a transfer under way reaches it at its first descriptor in host memory (R546). -/
theorem atsTranslationRefused_transfer {k : Nat} {o : OpE} (run : s.running = true) (under : (s.slab k).transfer? = some o)
    (ats : (s.fn o.part).ats = true) (host : s.willUseHost k o = true) :
    atsTranslationRefused (.transfer k) s = s.refuseTransfer k o := by
  simp [atsTranslationRefused, State.atsTransfer, run, under, ats, host]

/-- A refusal for a completion record loses it, and the command completes (R546). -/
theorem atsTranslationRefused_record {q : Nat} {f : Flight} (run : s.running = true) (flight : s.flight? q = some f)
    (ats : (s.fn f.fn).ats = true) (masters : (s.fn f.fn).masters = true) :
    atsTranslationRefused (.record q) s = s.completeSeq f.fn q true := by
  simp [atsTranslationRefused, State.atsRecord, run, flight, ats, masters]

/-- A refusal for a ring blocks it where its function's ATS is enabled (R546). -/
theorem atsTranslationRefused_ring (run : s.running = true) (r : Nat) :
    atsTranslationRefused (.ring r) s =
      if (s.fn (ringFn r)).ats then s.modRing r fun g => { g with blocked := true } else s := by
  simp [atsTranslationRefused, run]

/-! ### Errors of the port (R299, R341, R363) -/

/-- An unsupported request is answered as one, and stands in AER (R299, R340, R341, log 17). -/
theorem unsupportedRequest_answers (up : s.port.up = true) (secure : s.port.ideIo ≠ 2) (fn off : Nat) :
    unsupportedRequest fn off s =
      (s.modFn (if s.fnExists fn then fn else 0) fun g => { g with aer := g.aer ||| 2 ^ 20 }).setReply .unsupported := by
  simp only [unsupportedRequest, up, bne_iff_ne.mpr secure, Bool.and_self, if_true]
  rfl

/-- A stream that a failed check has made insecure (R363). -/
def State.insecure (s : State) (stream : IdeStream) : State := s.setPort (s.port.setIde (streamNo stream) 2)

/-- A failed check on a secure stream makes it insecure; a module that works tells of it with a lasting alarm (R363). -/
theorem ideIntegrityFail_fails {stream : IdeStream} (up : s.port.up = true) (armed : s.talus.armed = [])
    (secure : s.port.ide (streamNo stream) = 1) :
    ideIntegrityFail stream s =
      let t := s.insecure stream
      if s.running = true then
        t.emit [16] (unitEvent t .ideFail 0 0xF 0xC (streamNo stream) 0 0) (ideKey (streamNo stream)) true
      else t := by
  simp only [ideIntegrityFail, up, secure, State.opportunity_unarmed armed]
  rfl

/-- A stream that is not secure has no check to fail (log 3). -/
theorem ideIntegrityFail_off {stream : IdeStream} (off : s.port.ide (streamNo stream) ≠ 1) : ideIntegrityFail stream s = s :=
  if_pos (by simp [off])

end

/-- Settles O46, row by row. -/
theorem hostCoherenceAndErrors : Obligations.HostCoherenceAndErrors := by
  unfold Obligations.HostCoherenceAndErrors
  refine ⟨fun s line => ⟨fun run awaited unarmed => ⟨fun secure => ?_, ?_⟩, fun off d => ?_, fun unasked => ?_,
    fun up cxl secure => ?_⟩, fun s => ⟨fun run => ⟨fun q new => ?_, fun k o under ats host => ?_,
      fun q f flight ats masters => ?_, fun r ats => ?_, fun r ats => ?_⟩, fun fn off up secure => ?_, fun up armed => ?_⟩⟩
  · have answers := bisnpResponse_answers run secure awaited unarmed
    exact ⟨congrArg Host.Outcome.next (answers none), fun bs => congrArg Host.Outcome.next (answers (some bs))⟩
  · exact ⟨fun alone => congrArg Host.Outcome.next (biTimeout_alone run awaited alone),
      fun k o waits under => congrArg Host.Outcome.next (biTimeout_faults run awaited waits under)⟩
  · exact congrArg Host.Outcome.next (bisnpResponse_discarded off d)
  · exact congrArg Host.Outcome.next (biTimeout_unasked unasked)
  · exact ⟨_, congrArg Host.Outcome.next (hostSnoop_answers up cxl secure)⟩
  · exact congrArg Host.Outcome.next (atsTranslationRefused_command run new)
  · exact congrArg Host.Outcome.next (atsTranslationRefused_transfer run under ats host)
  · exact congrArg Host.Outcome.next (atsTranslationRefused_record run flight ats masters)
  · exact congrArg Host.Outcome.next ((atsTranslationRefused_ring run r).trans (if_pos ats))
  · exact congrArg Host.Outcome.next ((atsTranslationRefused_ring run r).trans (if_neg (by simp [ats])))
  · exact congrArg Host.Outcome.next (unsupportedRequest_answers up secure fn off)
  · intro io cm
    have fails {stream : IdeStream} (secure : s.port.ide (streamNo stream) = 1) := ideIntegrityFail_fails up armed secure
    refine ⟨fun run secure => ?_, fun run secure => ?_, fun down => ⟨fun secure => ?_, fun secure => ?_⟩, fun off => ?_,
      fun off => ?_⟩
    · exact congrArg Host.Outcome.next ((fails (stream := .io) secure).trans (if_pos run))
    · exact congrArg Host.Outcome.next ((fails (stream := .cachemem) secure).trans (if_pos run))
    · exact congrArg Host.Outcome.next ((fails (stream := .io) secure).trans (if_neg (by simp [down])))
    · exact congrArg Host.Outcome.next ((fails (stream := .cachemem) secure).trans (if_neg (by simp [down])))
    · exact congrArg Host.Outcome.next (ideIntegrityFail_off (stream := .io) off)
    · exact congrArg Host.Outcome.next (ideIntegrityFail_off (stream := .cachemem) off)

end Sys2Proof.Machine
end

section
/-! SUPPORT. Proofs/LoadsAndFrames.lean: the ends of loads from cold copies, and the frames of codec sessions (R308, R310, R312,
R427 to R430, R433, R435, R438 to R442, R445). -/

namespace Sys2Proof.Machine

/-! ### Loads (R308, R310, R312) -/

/-- A place of a hot copy once its load has ended: hot, pinned where a MODEL_PIN waited, and used last by the first command
that waited (R308, R310, log 24). -/
def PlaceState.loaded (y : PlaceState) (pin : Bool) : PlaceState :=
  { y with hot := true, pinned := y.pinned || pin, lastUse := Nat.max y.lastUse (y.loading.headD 0), loading := [] }

/-- The first load of a slab that works, from a cold copy that meets no damaged word, ends with the part hot, and the pins that
are now complete succeed (R308, R310, R312). -/
theorem quarryLoadEnd_ends {s : State} {p h i slab : Nat} {m : Model} {y : PlaceState} (run : s.running = true)
    (found : (s.part p).model? h = some m) (place : m.place? i slab = some y) (loads : y.loading ≠ [])
    (first : s.firstLoad slab (y.loading.headD 0) = true) (clean : s.clean slab) :
    let pin := y.loading.any fun q => (s.flight? q).any fun f => decide (f.cmd = .modelPin)
    quarryLoadEnd p h i slab s =
      (((nextFree s 1).modPlace p h i slab fun y => y.loaded pin).dropBad (hotPlace p h i slab)).finishPins p := by
  have waits : y.loading.isEmpty = false := by simpa using loads
  simp only [quarryLoadEnd, found, place, Option.bind_some, run, waits, first, State.readHbm_clean clean, Bool.not_true,
    Bool.or_self, Bool.false_eq_true, if_false]
  rfl

/-! ### Frames of an encode (R427 to R430, R433, R435, R445) -/

section
variable {s : State} {h : Nat} {c : CodecSession} {f : Flight} {b : Mem} {rec : List Byte} {rest : List (Mem × List Byte)}

/-- A committed frame of a session that codes none starts on its cores; an illegal commit record ends the command, its frame
the index in the record (R427, R433, R435, log 27). -/
theorem encodeFrameStart_starts (run : s.running = true) (session : s.session? h = some c) (turn : s.codecTurn c = some f)
    (committed : c.committed = (b, rec) :: rest) (idle : c.running = false) :
    encodeFrameStart h s =
      if commitOk rec = true then
        (s.modSession h fun x => { x with running := true }).modCores c.atWork fun k => { k with running := true }
      else s.finishEncode f c (some c.done) := by
  cases legal : commitOk rec <;> simp [encodeFrameStart, session, turn, committed, run, idle, legal]

/-- The byte cap of a frame of a command: the command's, or the session's where it gives none (R424, R430, R433). -/
def CodecSession.frameCap (c : CodecSession) (f : Flight) : Nat :=
  if fld (f.arg 24 8) 31 0 = 0 then fld (numAt c.param 0 64) 127 96 else fld (f.arg 24 8) 31 0

/-- The history of a session with one more frame, and the key frame that the command asks for at its start (R428). -/
def CodecSession.historyWith (c : CodecSession) (f : Flight) (b : Mem) (rec : List Byte) :
    List (List Byte × List Byte × Nat × Bool) :=
  c.history ++ [(Memory.read b 0 (encFrameBytes c.param), rec, c.frameCap f, bitOf (f.arg 24 8) 32 && c.done == 0)]

/-- What the cores give for that frame, coded after the frames before it (log 10). -/
def CodecSession.coded (c : CodecSession) (f : Flight) (b : Mem) (rec : List Byte) : EncOut :=
  (encodeAll c.param (c.historyWith f b rec)).2

/-- The frame is longer than its cap (R430, log 57). -/
def CodecSession.overCap (c : CodecSession) (f : Flight) (b : Mem) (rec : List Byte) : Bool :=
  c.frameCap f != 0 && decide (c.frameCap f < (c.coded f b rec).size)

/-- A session after a frame: the frame leaves the input buffers and joins the history and the output (R428 to R430). -/
def CodecSession.afterFrame (c : CodecSession) (f : Flight) (b : Mem) (rec : List Byte) (rest : List (Mem × List Byte)) :
    CodecSession :=
  { c with
    committed := rest
    marks := moveMarks c.marks (c.refresh rec)
    history := c.historyWith f b rec
    running := false
    output := c.output ++ (c.coded f b rec).unit
    capped := if c.overCap f b rec then c.capped ++ [(c.done, (c.coded f b rec).size)] else c.capped
    done := c.done + 1 }

/-- The state after a frame of an encode, which counts on the cores that worked on it (R445). -/
def State.frameCoded (s : State) (h : Nat) (c : CodecSession) (f : Flight) (b : Mem) (rec : List Byte)
    (rest : List (Mem × List Byte)) : State :=
  (s.modSession h fun _ => c.afterFrame f b rec rest).modCores c.atWork fun k =>
    { k with
      running := false
      frames := satInc k.frames (2 ^ 32 - 1) 1
      marked := satInc k.marked 65535 (boolNat (c.overCap f b rec)) }

/-- The end of a frame's coding; the last frame of a command ends it (R428 to R430, R433). -/
theorem encodeFrameEnd_codes (run : s.running = true) (session : s.session? h = some c) (turn : s.codecTurn c = some f)
    (committed : c.committed = (b, rec) :: rest) (works : c.running = true) :
    encodeFrameEnd h s =
      if c.done + 1 = f.arg 4 2 then (s.frameCoded h c f b rec rest).finishEncode f (c.afterFrame f b rec rest) none
      else s.frameCoded h c f b rec rest := by
  simp only [encodeFrameEnd, session, turn, committed, run, works]
  rfl

end

/-! ### Frames of a decode (R438 to R442) -/

/-- The decode that a session works on: the command in flight whose input it has read (R421, R439). -/
def State.decodeOf (s : State) (h : Nat) : Option Flight :=
  s.flights.find? fun g =>
    decide (g.cmd = .codecDecode) && decide (g.phase = .busy) && g.waits.headD 0 == h && g.waits.length == 3

/-- A decode session that works, with nothing released before and its command in flight. -/
structure State.Decodes (s : State) (h : Nat) (c : CodecSession) (f : Flight) : Prop where
  run : s.running = true
  session : s.session? h = some c
  handle : c.handle = h
  works : c.running = true
  kind : c.kind ≠ 0
  ready : c.ready = []
  command : s.decodeOf h = some f

/-- With nothing released there is nothing to write (R438). -/
theorem State.writeReady_none {s : State} {h : Nat} {c : CodecSession} (session : s.session? h = some c) (ready : c.ready = [])
    (f : Flight) (n : Nat) : s.writeReady f h n = s := by
  cases n with
  | zero => rfl
  | succ n => simp only [State.writeReady, session, ready]

section
variable {s : State} {h : Nat} {c : CodecSession} {f : Flight}

/-- A step of a decode session that works is that of its command ... -/
theorem State.decodeStep_command (run : s.running = true) (session : s.session? h = some c) (works : c.running = true)
    (kind : c.kind ≠ 0) (command : s.decodeOf h = some f) (late : Bool) : s.decodeStep h late = s.decodeFrame f h late := by
  unfold State.decodeOf at command
  simp only [State.decodeStep, session, run, works, beq_eq_false_iff_ne.mpr kind, Bool.not_true, Bool.or_self,
    Bool.false_eq_true, if_false, command]

/-- ... and with no command left the session stops, and goes to its next (R421, R440). -/
theorem State.decodeStep_stops (run : s.running = true) (session : s.session? h = some c) (works : c.running = true)
    (kind : c.kind ≠ 0) (alone : s.decodeOf h = none) (late : Bool) :
    s.decodeStep h late =
      let t := (s.modSession h fun x => { x with running := false }).modCores c.cores fun k => { k with running := false }
      t.nextDecode h t.flights.length := by
  unfold State.decodeOf at alone
  simp only [State.decodeStep, session, run, works, beq_eq_false_iff_ne.mpr kind, Bool.not_true, Bool.or_self,
    Bool.false_eq_true, if_false, alone]

/-- The next step of such a session is that of its command. -/
theorem State.Decodes.step (d : s.Decodes h c f) (late : Bool) : s.decodeStep h late = s.decodeFrame f h late := by
  obtain ⟨run, session, -, works, kind, -, command⟩ := d
  exact State.decodeStep_command run session works kind command late

/-- With FRMAX frames written the command ends (R439). -/
theorem State.Decodes.full (d : s.Decodes h c f) (full : frMax c.param ≤ c.done) (late : Bool) :
    s.decodeStep h late = s.finishDecode f c := by
  simp only [d.step, State.decodeFrame, State.writeReady_none d.session d.ready, d.session, full, if_true]

/-- A command that is not to flush ends where no whole frame remains (R439). -/
theorem State.Decodes.finished (d : s.Decodes h c f) (room : c.done < frMax c.param) (goesOn : f.arg 16 4 ≠ 0)
    (ended : (Config.picHeader c.kind c.input c.consumed (f.arg 16 4 == 0)).none = true ∨ c.input.length ≤ c.consumed)
    (late : Bool) : s.decodeStep h late = s.finishDecode f c := by
  have last : (f.arg 16 4 == 0) = false := beq_eq_false_iff_ne.mpr goesOn
  rw [last] at ended
  simp [d.step, State.decodeFrame, State.writeReady_none d.session d.ready, d.session, Nat.not_le.mpr room, last, ended]

/-- The frame that is next goes out, and FRMAX frames end the command (R438 to R442). -/
theorem State.Decodes.next (d : s.Decodes h c f) (room : c.done < frMax c.param)
    (more : (Config.picHeader c.kind c.input c.consumed (f.arg 16 4 == 0)).none = false) (left : c.consumed < c.input.length)
    {late : Bool} {c1 : CodecSession}
    (after : (s.nextFrame f c (Config.picHeader c.kind c.input c.consumed (f.arg 16 4 == 0)) late).session? h = some c1) :
    s.decodeStep h late =
      let t := s.nextFrame f c (Config.picHeader c.kind c.input c.consumed (f.arg 16 4 == 0)) late
      if frMax c1.param ≤ c1.done then t.finishDecode f c1 else t := by
  simp [d.step, State.decodeFrame, State.writeReady_none d.session d.ready, d.session, Nat.not_le.mpr room, more,
    Nat.not_le.mpr left, after]

/-- The state after a frame that is decoded and concealed, of which nothing is written yet: it counts on the session's cores
(R442, R445). -/
def State.frameDecoded (s : State) (c : CodecSession) (d : Config.PicHdr) (cls at0 upto : Nat) (late : Bool) : State :=
  ((nextFree s 1).modSession c.handle fun _ => c.decoded d cls at0 upto late).modCores c.cores fun k =>
    { k with frames := satInc k.frames (2 ^ 32 - 1) 1, marked := satInc k.marked 65535 (boolNat (cls != 0)) }

/-- With no injection armed a frame, with its budget or without, is concealed where it is damaged, which is an event, and goes
out with those released before it; its end lies after its start, in the input (R438 to R442). -/
theorem State.nextFrame_decodes (armed : s.talus.armed = []) (d : Config.PicHdr) (late : Bool)
    (left : c.consumed < c.input.length) :
    let cls := c.damageOf d late
    ∃ at0 upto, at0 ≤ f.arg 16 4 ∧ c.consumed < upto ∧ upto ≤ c.input.length ∧
      (cls = 0 → upto = Nat.min c.input.length (Nat.max (c.consumed + 1) d.consumed)) ∧
      ∃ e : Event, e.code = .bitstream ∧ e.d0 = c.handle ∧ e.d2 = at0 ∧
        let t := s.frameDecoded c d cls at0 upto late
        s.nextFrame f c d late = (if cls = 0 then t else t.emit [c.part] e).writeReady f c.handle (frMax c.param) := by
  intro cls
  simp only [State.nextFrame, State.opportunity_unarmed armed, Option.isSome_none, Bool.or_false]
  refine ⟨_, _, Nat.min_le_left .., ?_, Nat.min_le_left .., fun whole => ?_, _, rfl, rfl, rfl, rfl⟩
  · exact Nat.lt_min.mpr ⟨left, Nat.lt_of_lt_of_le (Nat.lt_succ_self _) (Nat.le_max_left ..)⟩
  · exact congrArg (fun past => Nat.min c.input.length (Nat.max (c.consumed + 1) past)) (if_pos whole)

end

/-- Settles O49: the end of a load, the frames of an encode, those of a decode, and a decode session without a command. -/
theorem loadsAndCodecFramesEnd : Obligations.LoadsAndCodecFramesEnd := by
  unfold Obligations.LoadsAndCodecFramesEnd
  intro s run
  refine ⟨?_, ?_, ?_, ?_⟩
  · intro p h i slab m y found place loads first clean pin
    exact congrArg Host.Outcome.next (quarryLoadEnd_ends run found place loads first clean)
  · intro h c f b rec rest session turn committed
    refine ⟨fun idle => ?_, fun works => ?_⟩
    · have starts := encodeFrameStart_starts run session turn committed idle
      exact ⟨fun legal => congrArg Host.Outcome.next (starts.trans (if_pos legal)),
        fun illegal => congrArg Host.Outcome.next (starts.trans (if_neg (Bool.eq_false_iff.mp illegal)))⟩
    · intro ctl cap hist coded hit c2 t
      have codes := encodeFrameEnd_codes run session turn committed works
      exact ⟨fun more => congrArg Host.Outcome.next (codes.trans (if_neg more)),
        fun last => congrArg Host.Outcome.next (codes.trans (if_pos last))⟩
  · intro h c f armed session handle works kind ready command
    have decodes : s.Decodes h c f := ⟨run, session, handle, works, kind, ready, command⟩
    refine ⟨fun full => congrArg Host.Outcome.next (decodes.full full false), fun room => ?_⟩
    intro d
    refine ⟨fun goesOn ended => ?_, fun late more left => ?_⟩
    · have finished := decodes.finished room goesOn ended
      exact ⟨congrArg Host.Outcome.next (finished false), congrArg Host.Outcome.next (finished true)⟩
    · intro i cls
      obtain ⟨at0, upto, inside, past, bounded, whole, e, code, d0, d2, frame⟩ :=
        State.nextFrame_decodes (f := f) armed d late left
      subst handle
      refine ⟨at0, upto, inside, past, bounded, whole, e, code, d0, d2, ?_⟩
      intro t c1 after
      have is : s.nextFrame f c d late = t := frame
      have next := decodes.next room more left (late := late) (by rw [is]; exact after)
      rw [is] at next
      have row {u : State} (step : s.decodeStep c.handle late = u) : exec i s = .next u := by
        cases late <;> exact congrArg Host.Outcome.next step
      exact ⟨fun goesOn => row (next.trans (if_neg (Nat.not_le.mpr goesOn))), fun full => row (next.trans (if_pos full))⟩
  · intro h c session works kind alone t
    exact congrArg Host.Outcome.next (State.decodeStep_stops run session works kind alone false)

end Sys2Proof.Machine
end

section
/-! SUPPORT. Proofs/ProgramImages.lean: PROG_LOAD, from the check of its source to the image that it places (R326 to R329, R389,
R406). -/

namespace Sys2Proof.Machine

/-- PROG_LOAD names host memory, or flat memory below its size on a slab of the partition (R284, R389). -/
def State.ImageInRange (s : State) (f : Flight) : Prop :=
  f.arg 2 1 = 0 ∨ f.arg 2 1 = 1 ∧ spaceOf (f.arg 8 8) = 3 ∧
    s.inFlatSize f.fn (fld (f.arg 8 8) 59 56) (fld (f.arg 8 8) 55 0) (f.arg 16 8) = true

/-- A checked image goes into the share of each slab of the context, in ascending order, and becomes the context's program with
its measurement (R320, R326, R329). -/
def State.withImage (s : State) (f : Flight) (c : Ctx) (b : List Byte) : State :=
  (c.slabs.zipIdx.foldl (fun s x => s.placeImage f.fn c b x.1 x.2) s).modCtx f.fn c.num fun x =>
    { x with prog := some (programOf b) }

/-- The end of a PROG_LOAD whose checks of R327 gave this: the first that failed, or the body that passed them all. -/
def State.endProgLoad (s : State) (f : Flight) (c : Ctx) : Except St (List Byte) → State
  | .error e => s.failCmd f e
  | .ok b => (s.withImage f c b).okCmd f

/-- A source in range passes the first check of PROG_LOAD (R389). -/
theorem State.ImageInRange.not_refused {s : State} {f : Flight} (range : s.ImageInRange f) :
    (decide (1 < f.arg 2 1) || (decide (f.arg 2 1 = 1) && (decide (spaceOf (f.arg 8 8) ≠ 3) ||
      !s.inFlatSize f.fn (fld (f.arg 8 8) 59 56) (fld (f.arg 8 8) 55 0) (f.arg 16 8)))) = false := by
  obtain host | ⟨flat, space, inside⟩ := range
  · simp [host]
  · simp [flat, space, inside]

/-- PROG_LOAD of an image that it can read, into a context with no passage queued or running, ends by the checks of the image
(R327, R329). -/
theorem progLoad_ends {s s1 : State} {f : Flight} {c : Ctx} {img : List Byte} (range : s.ImageInRange f)
    (named : s.needCtx f.fn (f.arg 0 2) = .ok c) (idle : s.idle f.fn c f.seq = true)
    (reads : s.imageBytes f = (s1, .ok img)) :
    progLoad s f = s1.endProgLoad f c (s1.imageCheck f.fn c img (f.arg 16 8)) := by
  simp only [progLoad, range.not_refused, named, idle, reads, Bool.not_true, Bool.false_eq_true, if_false]
  cases s1.imageCheck f.fn c img (f.arg 16 8) <;> rfl

/-- Settles O9: a ready command performs at its seal, and ends by the checks of its image. -/
theorem progLoadPlacesACheckedImage : Obligations.ProgLoadPlacesACheckedImage := by
  unfold Obligations.ProgLoadPlacesACheckedImage
  intro fn k s ready a f addr len range c named idle a1 img reads
  have ends := progLoad_ends (s := a) (f := f) range named idle reads
  exact ⟨fun b passes => exec_ready ready (ends.trans (congrArg (a1.endProgLoad f c) passes)),
    fun e fails => exec_ready ready (ends.trans (congrArg (a1.endProgLoad f c) fails))⟩

end Sys2Proof.Machine
end

section
/-! SUPPORT. Proofs/RegisterWindow.lean: the seals that perform nothing, and the reads and writes of BAR0: what its map covers,
which accesses a row accepts, and what they read and change (R338, R342, R344, R345, R361, R364, R368 to R377, R448, R470, R474,
R509). -/

namespace Sys2Proof.Machine

/-! ### Seals that perform nothing (R342, R375 to R377) -/

section
variable {s : State} {fn k : Nat}

/-- A reserved bit of the header, or of arguments that stand in plaintext, is refused before anything else (R376). -/
theorem State.refuses_reserved {c : Cmd} {b : Slot} (plain : (s.part fn).session = none)
    (set : b.headerClean = false ∨ c.argsClean b.args = false) : s.refuses fn c b = some .rsvdSet := by
  unfold State.refuses
  rcases set with header | args <;> simp [*]

/-- A function that does not exist has no BAR0 (R342). -/
theorem State.barOpen_absent (absent : s.fnExists fn = false) : s.barOpen fn = false := by
  simp [State.barOpen, State.fnAnswers, absent]

/-- The seal of a slot that the Steward owns, or where BAR0 is closed, changes nothing (R342, R375). -/
theorem sealRow_keeps (off : ((s.fn fn).slot k).state = .owned ∨ s.barOpen fn = false) (c : Cmd) : sealRow c fn k s = s := by
  unfold sealRow
  rcases off with owned | closed <;> simp [*]

theorem sealUnknown_keeps (off : ((s.fn fn).slot k).state = .owned ∨ s.barOpen fn = false) : sealUnknown fn k s = s := by
  unfold sealUnknown
  rcases off with owned | closed <;> simp [*]

/-- While the module is stopped a sealed slot waits (R377). -/
theorem State.sealSlot_stopped (stop : s.hub.stop ≠ none) : s.sealSlot fn k = s.setSlot fn (s.owned fn k) :=
  if_pos (Option.isSome_iff_ne_none.mpr stop)

end

/-- Settles O2: the seal takes the slot, and R376 refuses it; or nothing takes it. -/
theorem sealsThatPerformNothing : Obligations.SealsThatPerformNothing := by
  unfold Obligations.SealsThatPerformNothing
  refine ⟨fun fn k s low count slot isOpen run awake free => ⟨fun unknown => ?_, fun c code plain set => ?_⟩,
    fun c fn k s off => ?_, fun c fn k s isOpen stop slot free code => ?_⟩
  · have there : fn < s.fns.length := count.symm ▸ low
    exact congrArg Host.Outcome.next ((sealUnknown_seals s isOpen slot free unknown).trans
      ((s.sealSlot_takes fn k run awake).trans (s.take_unknown there unknown)))
  · have there : fn < s.fns.length := count.symm ▸ low
    have refused : s.refuses fn c (s.owned fn k) = some .rsvdSet := State.refuses_reserved plain set
    rw [exec_row, sealRow_seals s isOpen slot free code, s.sealSlot_takes fn k run awake, s.take_command there code,
      s.accept_refused there refused]
  · have keeps : ((s.fn fn).slot k).state = .owned ∨ s.barOpen fn = false := off.imp_right State.barOpen_absent
    exact ⟨(exec_row c fn k s).trans (congrArg Host.Outcome.next (sealRow_keeps keeps c)),
      congrArg Host.Outcome.next (sealUnknown_keeps keeps)⟩
  · rw [exec_row, sealRow_seals s isOpen slot free code, State.sealSlot_stopped stop]

/-! ### Bytes and fields -/

/-- The bytes of a number, each by its weight (R14). -/
theorem toLe_eq_map (n x : Nat) : toLe n x = (List.range n).map fun i => BitVec.ofNat 8 (x / 256 ^ i) := by
  induction n generalizing x with
  | zero => rfl
  | succ n ih =>
    rw [toLe, ih, List.range_succ_eq_map, List.map_cons, List.map_map, Nat.pow_zero, Nat.div_one]
    refine congrArg _ (List.map_congr_left fun i _ => ?_)
    rw [Nat.div_div_eq_div_mul, ← Nat.pow_succ']
    rfl

theorem leNat_append (x y : List Byte) : leNat (x ++ y) = leNat x + 256 ^ x.length * leNat y := by
  induction x with
  | nil => simp [leNat]
  | cons b t ih =>
    rw [List.cons_append, leNat, leNat, ih, List.length_cons, Nat.pow_succ']
    ring

theorem leNat_lt (x : List Byte) : leNat x < 256 ^ x.length := by
  induction x with
  | nil => exact Nat.one_pos
  | cons b t ih =>
    have := b.isLt
    rw [leNat, List.length_cons, Nat.pow_succ]
    omega

/-- A number in bytes that are all there. -/
theorem numAt_inside {bs : List Byte} {off n : Nat} (inside : off + n ≤ bs.length) :
    numAt bs off n = leNat ((bs.drop off).take n) := by
  have whole : ((bs.drop off).take n).length = n := by simp; omega
  simp [numAt, bytesAt, whole]

/-- A bit and a field of five bits above it. -/
theorem pack_bit_field (b : Bool) (x : Nat) : pack [(boolNat b, 0), (x, 1)] = boolNat b + x * 2 := by
  have bit : boolNat b < 2 ^ 1 := by cases b <;> decide
  have sum := Nat.shiftLeft_add_eq_or_of_lt bit x
  calc pack [(boolNat b, 0), (x, 1)] = x <<< 1 ||| boolNat b := by
        simp only [pack, List.foldl_cons, List.foldl_nil, Nat.zero_or, Nat.shiftLeft_zero, Nat.or_comm]
    _ = boolNat b + x * 2 := by rw [← sum, Nat.shiftLeft_eq, Nat.add_comm]

/-! ### Accesses (R345) -/

theorem regAccess_iff {off n : Nat} : regAccess off n = true ↔ (n = 4 ∨ n = 8) ∧ off % n = 0 := by
  simp [regAccess]

theorem slotAccess_iff {off n : Nat} :
    slotAccess off n = true ↔ (n = 4 ∨ n = 8 ∨ n = 16 ∨ n = 32 ∨ n = 64) ∧ off % n = 0 := by
  simp [slotAccess]

/-- A row of the map of BAR0 covers the offset, in a function's window (R344). -/
def State.mapped (s : State) (fn off : Nat) : Prop :=
  off < 0x2800 ∨ (0x3000 ≤ off ∧ off < 0x3010) ∨ (0x10000 ≤ off ∧ off < 0x20000) ∨ (0x20000 ≤ off ∧ off < 0x30000) ∨
    (fn = 0 ∧ (0x100000 ≤ off ∧ off < 0x100000 + 0x10000 * s.slabCount ∨ 0x200000 ≤ off ∧ off < 0x230000))

/-- The rows begin and end at multiples of 8. -/
theorem State.mapped_aligned (s : State) (fn off : Nat) : s.mapped fn (off / 8 * 8) ↔ s.mapped fn off := by
  unfold State.mapped
  omega

section
variable {s : State} {fn off : Nat}

/-- A slab that the part does not have reads 0 (R344). -/
theorem State.slabReg_absent {k : Nat} (absent : s.slabCount ≤ k) (off : Nat) : s.slabReg k off = 0 := if_pos absent

/-- A virtual function reads 0 above its own ring's registers (R344). -/
theorem State.bar64_virtual (virtual : fn ≠ 0) (above : 0x20020 ≤ off) : s.bar64 fn off = 0 := by
  simp only [State.bar64, Bool.and_eq_true, Bool.or_eq_true, decide_eq_true_eq]
  rw [if_neg (by omega), if_neg (by omega), if_neg (by omega), if_neg (by omega), if_neg (by omega), if_neg (by omega),
    if_pos virtual]

/-- What no row covers reads 0 (R344, R345). -/
theorem State.bar64_unmapped (unmapped : ¬ s.mapped fn off) : s.bar64 fn off = 0 := by
  simp only [State.mapped, not_or] at unmapped
  obtain ⟨low, pba, slots, rings, blocks⟩ := unmapped
  simp only [State.bar64, Bool.and_eq_true, Bool.or_eq_true, decide_eq_true_eq]
  rw [if_neg (by omega), if_neg (by omega), if_neg low, if_neg (by omega), if_neg slots, if_neg (by omega)]
  by_cases physical : fn = 0
  · rw [if_neg (not_not_intro physical), if_neg (by omega)]
    split
    · exact State.slabReg_absent (by omega) _
    · rw [if_neg (by omega), if_neg (by omega), if_neg (by omega)]
  · exact if_pos physical

/-- An access that no register accepts reads 0 (R345). -/
theorem State.readBar_refused {n : Nat} (refused : regAccess off n = false) : s.readBar fn off n = 0 := by
  simp [State.readBar, refused]

theorem State.readBar_unmapped (unmapped : ¬ s.mapped fn off) (n : Nat) : s.readBar fn off n = 0 := by
  have zero := State.bar64_unmapped (mt (s.mapped_aligned fn off).mp unmapped)
  simp [State.readBar, zero]

/-- A window that answers no read gives 0. -/
theorem State.readBar_shut (shut : s.barReads fn off = false) (n : Nat) : s.readBar fn off n = 0 := by
  simp [State.readBar, shut]

/-- The 8 bytes of a register are read together or not at all. -/
theorem State.barReads_aligned (s : State) (fn off : Nat) : s.barReads fn (off / 8 * 8) = s.barReads fn off := by
  have page : off / 8 * 8 < 0x1000 ↔ off < 0x1000 := by omega
  simp only [State.barReads, page]

/-- A read of 4 bytes is its half of the 8 bytes there (R345). -/
theorem State.readBar_half (aligned : off % 4 = 0) :
    s.readBar fn off 4 = s.readBar fn (off / 8 * 8) 8 / 2 ^ (8 * (off % 8)) % 2 ^ 32 := by
  have four : regAccess off 4 = true := regAccess_iff.mpr ⟨.inl rfl, aligned⟩
  have eight : regAccess (off / 8 * 8) 8 = true := regAccess_iff.mpr ⟨.inr rfl, Nat.mul_mod_left ..⟩
  have whole : off / 8 * 8 / 8 * 8 = off / 8 * 8 := by omega
  have first : off / 8 * 8 % 8 = 0 := Nat.mul_mod_left ..
  simp only [State.readBar, four, eight, Bool.true_and, s.barReads_aligned, whole, first]
  split
  · generalize s.bar64 fn (off / 8 * 8) = x
    have half : off % 8 = 0 ∨ off % 8 = 4 := by omega
    rcases half with low | high
    · rw [low]; omega
    · rw [high]; omega
  · simp

/-! ### Writes (R345, R361, R368, R372, R375) -/

/-- The rows of BAR0 that take a host write here: the base of the completion area, the MSI-X table and the slots. -/
theorem registerWrite_open (isOpen : s.barOpen fn = true) (low : off < 0x400000) (data : List Byte) :
    registerWrite fn off data s =
      if regAccess off data.length = true ∧ 0x1000 ≤ off ∧ off < 0x1008 then
        if (s.fn fn).en then s else
        (wordsOf off data).foldl (fun s w => s.modFn fn fun g =>
          { g with
            cqAddr := if w.1 = 0x1000 then g.cqAddr / 2 ^ 26 * 2 ^ 26 + w.2 / 64 else g.cqAddr % 2 ^ 26 + w.2 * 2 ^ 26 }) s
      else if regAccess off data.length = true ∧ 0x2000 ≤ off ∧ off < 0x2800 then
        ((wordsOf off data).foldl (fun s w => s.modFn fn fun g => g.putVec ((w.1 - 0x2000) / 16) (w.1 / 4 % 4) w.2) s).flushPba fn
      else if slotAccess off data.length = true ∧ 0x10000 ≤ off ∧ off < 0x20000 then
        s.setSlot fn (((s.fn fn).slot ((off - 0x10000) / 256)).write (off % 256) data)
      else s := by
  have notConfig : off ≠ configOfs := Nat.ne_of_lt low
  simp only [registerWrite, notConfig, isOpen, if_false, Bool.not_true, Bool.false_eq_true, Bool.and_eq_true, decide_eq_true_eq,
    and_assoc]

/-- A write that no row takes is discarded (R345). -/
theorem registerWrite_discarded {data : List Byte} (low : off < 0x400000)
    (notBase : ¬ (regAccess off data.length = true ∧ 0x1000 ≤ off ∧ off < 0x1008))
    (notVec : ¬ (regAccess off data.length = true ∧ 0x2000 ≤ off ∧ off < 0x2800))
    (notSlot : ¬ (slotAccess off data.length = true ∧ 0x10000 ≤ off ∧ off < 0x20000)) : registerWrite fn off data s = s := by
  cases isOpen : s.barOpen fn
  · have notConfig : off ≠ configOfs := Nat.ne_of_lt low
    simp only [registerWrite, notConfig, isOpen, if_false, Bool.not_false, if_true]
  · rw [registerWrite_open isOpen low, if_neg notBase, if_neg notVec, if_neg notSlot]

/-- A write into a slot changes the bytes that the host may write (R375). -/
theorem registerWrite_slot (isOpen : s.barOpen fn = true) {data : List Byte} (slots : 0x10000 ≤ off ∧ off < 0x20000)
    (fits : slotAccess off data.length = true) :
    registerWrite fn off data s = s.setSlot fn (((s.fn fn).slot ((off - 0x10000) / 256)).write (off % 256) data) := by
  rw [registerWrite_open isOpen (by omega), if_neg (by omega), if_neg (by omega), if_pos ⟨fits, slots⟩]

/-- The 4-byte words of a write of one word, and of two. -/
theorem wordsOf_four {data : List Byte} (off : Nat) (four : data.length = 4) : wordsOf off data = [(off, numAt data 0 4)] := by
  rw [wordsOf, four]
  rfl

theorem wordsOf_eight {data : List Byte} (off : Nat) (eight : data.length = 8) :
    wordsOf off data = [(off, numAt data 0 4), (off + 4, numAt data 4 4)] := by
  rw [wordsOf, eight]
  rfl

/-- A write of the MSI-X table changes an entry part by part, and vectors that are no longer masked go out (R361). -/
theorem registerWrite_vec (isOpen : s.barOpen fn = true) {data : List Byte} (table : 0x2000 ≤ off ∧ off < 0x2800)
    (fits : regAccess off data.length = true) :
    registerWrite fn off data s =
      ((wordsOf off data).foldl (fun s w => s.modFn fn fun g => g.putVec ((w.1 - 0x2000) / 16) (w.1 / 4 % 4) w.2) s).flushPba
        fn := by
  rw [registerWrite_open isOpen (by omega), if_neg (by omega), if_pos ⟨fits, table⟩]

/-- The base of the completion area is written while EN is 0 (R368, R372). -/
theorem registerWrite_base (isOpen : s.barOpen fn = true) (unset : (s.fn fn).en = false) {data : List Byte}
    (base : 0x1000 ≤ off ∧ off < 0x1008) (fits : regAccess off data.length = true) :
    registerWrite fn off data s =
      (wordsOf off data).foldl (fun s w => s.modFn fn fun g =>
        { g with
          cqAddr := if w.1 = 0x1000 then g.cqAddr / 2 ^ 26 * 2 ^ 26 + w.2 / 64 else g.cqAddr % 2 ^ 26 + w.2 * 2 ^ 26 }) s := by
  rw [registerWrite_open isOpen (by omega), if_pos ⟨fits, base⟩, if_neg (by simp [unset])]

/-- ... and its two words together give the whole base. -/
theorem registerWrite_base_whole (isOpen : s.barOpen fn = true) (unset : (s.fn fn).en = false) {data : List Byte}
    (eight : data.length = 8) :
    registerWrite fn 0x1000 data s = s.modFn fn fun g => { g with cqAddr := leNat data / 64 } := by
  have halves : leNat data = numAt data 0 4 + 2 ^ 32 * numAt data 4 4 := by
    have low : (data.take 4).length = 4 := by simp [eight]
    have rest : (data.drop 4).take 4 = data.drop 4 := List.take_of_length_le (by simp [eight])
    rw [numAt_inside (by omega), numAt_inside (by omega), rest, List.drop_zero]
    conv => lhs; rw [← List.take_append_drop 4 data, leNat_append, low]
    rfl
  have small : numAt data 0 4 < 2 ^ 32 := by
    have := leNat_lt (bytesAt data 0 4)
    rwa [length_bytesAt] at this
  rw [registerWrite_base isOpen unset ⟨by decide, by decide⟩ (regAccess_iff.mpr ⟨.inr eight, by rw [eight]⟩),
    wordsOf_eight _ eight]
  show s.setFns (modAt (modAt s.fns fn _) fn _) = s.setFns (modAt s.fns fn _)
  rw [modAt_comp]
  congr 2
  funext g
  simp only [Function.comp_apply, if_true, Nat.reduceAdd, Nat.reduceEqDiff, if_false, halves]
  congr 1
  omega

end

/-! ### What the registers read (R344, R368 to R370, R374, R474) -/

section
variable {s : State} {fn off : Nat}

/-- A read that is answered gives the low bytes of the 8 bytes there. -/
theorem State.readBar_first {n : Nat} (reads : s.barReads fn off = true) (width : n = 4 ∨ n = 8) (aligned : off % 8 = 0) :
    s.readBar fn off n = s.bar64 fn off % 2 ^ (8 * n) := by
  have fits : regAccess off n = true := regAccess_iff.mpr ⟨width, by rcases width with rfl | rfl <;> omega⟩
  have whole : off / 8 * 8 = off := by omega
  simp only [State.readBar, fits, reads, whole, aligned, Bool.and_self, if_true, Nat.mul_zero, Nat.pow_zero, Nat.div_one]

/-- The completion queue's registers (R368 to R370). -/
theorem State.bar64_mbx (s : State) (fn : Nat) (row : 0x1000 ≤ off ∧ off < 0x1020) : s.bar64 fn off = (s.fn fn).mbx off := by
  simp only [State.bar64]
  rw [if_neg (by omega), if_pos (by omega), if_neg (by omega)]

/-- The ring registers of the function (R474). -/
theorem State.bar64_ring (s : State) (fn : Nat) (row : 0x20000 ≤ off ∧ off < 0x20020) :
    s.bar64 fn off = s.ringReg fn (off - 0x20000) := by
  simp only [State.bar64, Bool.and_eq_true, Bool.or_eq_true, decide_eq_true_eq]
  rw [if_neg (by omega), if_neg (by omega), if_neg (by omega), if_neg (by omega), if_neg (by omega), if_pos row]

/-- Eight bytes of a slot as the host reads them. -/
def Slot.readWord (b : Slot) (i : Nat) : Nat := leNat ((List.range 8).map fun j => b.readByte (i + j))

theorem State.bar64_slot (s : State) (fn : Nat) {k i : Nat} (slot : k < 256) (inside : i < 256) :
    s.bar64 fn (0x10000 + 256 * k + i) = ((s.fn fn).slot k).readWord i := by
  have number : (0x10000 + 256 * k + i - 0x10000) / 256 = k := by omega
  have byte : (0x10000 + 256 * k + i) % 256 = i := by omega
  simp only [State.bar64, Bool.and_eq_true, Bool.or_eq_true, decide_eq_true_eq]
  rw [if_neg (by omega), if_neg (by omega), if_neg (by omega), if_neg (by omega), if_pos (by omega), number, byte]
  rfl

/-- SEQ of a slot (R374). -/
theorem Slot.readWord_seq (b : Slot) : b.readWord 8 = b.seq % 2 ^ 64 := by
  have bytes : ((List.range 8).map fun j => b.readByte (8 + j)) = toLe 8 b.seq := by
    rw [toLe_eq_map]
    refine List.map_congr_left fun j mem => ?_
    have := List.mem_range.mp mem
    have inSeq : (8 ≤ 8 + j ∧ 8 + j < 16) := by omega
    simp [Slot.readByte, inSeq]
  rw [Slot.readWord, bytes, leNat_toLe]
  rfl

theorem slotStateCode_lt (x : SlotState) : slotStateCode x < 4 := by cases x <;> decide

/-- STATUS and STATE of a slot, under the bits that are reserved (R374). -/
theorem Slot.readWord_status (b : Slot) : b.readWord 16 = b.status.code % 2 ^ 16 + slotStateCode b.state * 2 ^ 16 := by
  have bytes : ((List.range 8).map fun j => b.readByte (16 + j)) =
      toLe 2 b.status.code ++ [BitVec.ofNat 8 (slotStateCode b.state)] ++ List.replicate 5 0 := by
    simp [List.range_succ, Slot.readByte, headerMask, toLe]
  have zeros : leNat (List.replicate 5 0) = 0 := by decide
  have state : slotStateCode b.state % 256 = slotStateCode b.state := Nat.mod_eq_of_lt ((slotStateCode_lt _).trans (by decide))
  rw [Slot.readWord, bytes, leNat_append, zeros, leNat_append, leNat_toLe, length_toLe]
  simp only [leNat, BitVec.toNat_ofNat, Nat.reducePow, state, Nat.mul_zero, Nat.add_zero]
  omega

end

/-- Settles O60, row by row of the map. -/
theorem registerReads : Obligations.RegisterReads := by
  unfold Obligations.RegisterReads
  intro s fn config
  refine ⟨fun there awake secure cxl run => ?_, fun shut off n => ?_⟩
  · have reads (off : Nat) : s.barReads fn off = true := by
      simp [State.barReads, State.fnAnswers, config, there, awake, secure, cxl, run]
    have mbx {off n : Nat} (width : n = 4 ∨ n = 8) (aligned : off % 8 = 0) (row : 0x1000 ≤ off ∧ off < 0x1020) :=
      (State.readBar_first (reads off) width aligned).trans (congrArg (· % 2 ^ (8 * n)) (s.bar64_mbx fn row))
    have ring {off : Nat} (aligned : off % 8 = 0) (row : 0x20000 ≤ off ∧ off < 0x20020) :=
      (State.readBar_first (reads off) (.inl rfl) aligned).trans (congrArg (· % 2 ^ (8 * 4)) (s.bar64_ring fn row))
    refine ⟨mbx (.inr rfl) (by decide) ⟨by decide, by decide⟩, ?_, mbx (.inl rfl) (by decide) ⟨by decide, by decide⟩,
      mbx (.inl rfl) (by decide) ⟨by decide, by decide⟩, ring (by decide) ⟨by decide, by decide⟩,
      ring (by decide) ⟨by decide, by decide⟩, fun k slot => ⟨?_, ?_⟩, fun virtual off n above => ?_⟩
    · refine (mbx (.inl rfl) (by decide) ⟨by decide, by decide⟩).trans ?_
      have bit : boolNat (s.fn fn).en ≤ 1 := by cases (s.fn fn).en <;> decide
      have field := Nat.mod_lt (s.fn fn).log2n (y := 32) (by decide)
      show pack _ % _ = _
      rw [pack_bit_field, Nat.mod_eq_of_lt (by omega)]
    · rw [State.readBar_first (reads _) (.inr rfl) (by omega), s.bar64_slot fn slot (by decide), Slot.readWord_seq]
      exact Nat.mod_mod ..
    · rw [State.readBar_first (reads _) (.inl rfl) (by omega), s.bar64_slot fn slot (by decide), Slot.readWord_status]
      have := slotStateCode_lt ((s.fn fn).slot k).state
      exact Nat.mod_eq_of_lt (by omega)
    · have zero := s.bar64_virtual (off := off / 8 * 8) virtual (by omega)
      simp [State.readBar, zero]
  · refine State.readBar_shut ?_ n
    rcases shut with absent | asleep | insecure <;> simp [State.barReads, State.fnAnswers, *]

/-- Settles O59: no row covers the offset or none accepts the access, or the row that does takes it. -/
theorem accessesOfTheRegisterWindow : Obligations.AccessesOfTheRegisterWindow := by
  unfold Obligations.AccessesOfTheRegisterWindow
  intro s fn off low inSlot covered fits fitsSlot
  refine ⟨fun n refused => ?_, fun four => State.readBar_half four.2, fun data refused => ?_,
    fun isOpen => ⟨fun data slot accepted => ?_, fun data above below aligned => ?_, fun data base unset => ?_⟩⟩
  · rcases not_and_or.mp refused with unmapped | misfit
    · exact State.readBar_unmapped unmapped n
    · exact State.readBar_refused (Bool.eq_false_iff.mpr (mt regAccess_iff.mp misfit))
  · simp only [inSlot, covered, fits, fitsSlot] at refused
    exact congrArg Host.Outcome.next (registerWrite_discarded low (by rw [regAccess_iff]; omega) (by rw [regAccess_iff]; omega)
      (by rw [slotAccess_iff]; omega))
  · exact congrArg Host.Outcome.next (registerWrite_slot isOpen slot (slotAccess_iff.mpr accepted))
  · intro put
    have writes := fun fits => registerWrite_vec (data := data) isOpen ⟨above, below⟩ (regAccess_iff.mpr ⟨fits, aligned⟩)
    refine ⟨fun four => ?_, fun eight => ?_⟩
    · refine congrArg Host.Outcome.next ((writes (.inl four)).trans ?_)
      rw [wordsOf_four off four, numAt_inside (by omega)]
      rfl
    · refine congrArg Host.Outcome.next ((writes (.inr eight)).trans ?_)
      rw [wordsOf_eight off eight, numAt_inside (by omega), numAt_inside (by omega)]
      rfl
  · subst base
    refine ⟨fun four => ?_, fun eight => congrArg Host.Outcome.next (registerWrite_base_whole isOpen unset eight)⟩
    refine congrArg Host.Outcome.next ((registerWrite_base isOpen unset ⟨by decide, by decide⟩
      (regAccess_iff.mpr ⟨.inl four, by rw [four]⟩)).trans ?_)
    rw [wordsOf_four _ four, numAt, bytesAt_all four]
    rfl

/-! ### Writes of the registers with rows of their own -/

section
variable {s : State} {fn : Nat} {v : Word}

/-- EN is set with a size from 8 to 16, which empties the area (R369, R372). -/
theorem mbxCqCfgWrite_enables (isOpen : s.barOpen fn = true) (unset : (s.fn fn).en = false) (on : bitOf v.toNat 0 = true)
    (low : 8 ≤ fld v.toNat 5 1) (high : fld v.toNat 5 1 ≤ 16) :
    mbxCqCfgWrite fn v s = s.modFn fn fun g =>
      { g with en := true, log2n := fld v.toNat 5 1, head := 0, tail := 0, written := 0 } := by
  simp only [mbxCqCfgWrite, isOpen, unset, on, low, high, decide_true, Bool.and_self, Bool.not_true, Bool.false_eq_true, if_false,
    if_true]

/-- ... and cleared with nothing in flight (R372). -/
theorem mbxCqCfgWrite_disables (isOpen : s.barOpen fn = true) (set : (s.fn fn).en = true) (off : bitOf v.toNat 0 = false)
    (idle : s.inflight fn = 0) : mbxCqCfgWrite fn v s = s.modFn fn fun g => { g with en := false } := by
  simp only [mbxCqCfgWrite, isOpen, set, off, idle, Bool.not_true, Bool.not_false, Bool.false_eq_true, if_false, if_true,
    beq_self_eq_true, Bool.and_self]

/-- ... else the write is ignored (R372). -/
theorem mbxCqCfgWrite_ignored (isOpen : s.barOpen fn = true) (set : (s.fn fn).en = true)
    (kept : bitOf v.toNat 0 = true ∨ 1 ≤ s.inflight fn) : mbxCqCfgWrite fn v s = s := by
  have stays : (!bitOf v.toNat 0 && s.inflight fn == 0) = false := by
    rcases kept with on | busy
    · simp [on]
    · simp [Nat.ne_of_gt busy]
  simp only [mbxCqCfgWrite, isOpen, set, stays, Bool.not_true, Bool.false_eq_true, if_false, if_true]

/-- A write of 1 to PWR_WAKE is a wake request (R509). -/
theorem pwrWakeWrite_wakes (run : s.running = true) (up : s.port.up = true) (cxl : s.port.cxl = true)
    (on : bitOf v.toNat 0 = true) : pwrWakeWrite v s = s.wake := by
  simp only [pwrWakeWrite, run, up, cxl, on, Bool.and_self, if_true]

theorem pwrWakeWrite_zero (off : bitOf v.toNat 0 = false) : pwrWakeWrite v s = s := by
  simp only [pwrWakeWrite, off, Bool.and_false, Bool.false_eq_true, if_false]

/-- Outside service mode a write with the running version raises the fuse to it (R448, R470). -/
theorem geoSvnCommitWrite_raises (run : s.running = true) (up : s.port.up = true) (cxl : s.port.cxl = true)
    (diag : s.hub.service = false) (version : v.toNat = 0x5F4E0000 + s.hub.svnFw.val) :
    geoSvnCommitWrite v s =
      s.setHub { s.hub with fuse := { s.hub.fuse with svn := max s.hub.fuse.svn s.hub.svnFw } } := by
  have greater : max s.hub.fuse.svn s.hub.svnFw = if s.hub.fuse.svn < s.hub.svnFw then s.hub.svnFw else s.hub.fuse.svn := by
    split
    · exact max_eq_right_of_lt ‹_›
    · exact max_eq_left (not_lt.mp ‹_›)
  simp only [geoSvnCommitWrite, run, up, cxl, diag, version, greater, beq_self_eq_true, Bool.not_false, Bool.and_self, if_true]

theorem geoSvnCommitWrite_ignored (kept : s.hub.service = true ∨ v.toNat ≠ 0x5F4E0000 + s.hub.svnFw.val) :
    geoSvnCommitWrite v s = s := by
  rcases kept with service | other
  · simp [geoSvnCommitWrite, service]
  · simp [geoSvnCommitWrite, other]

end

/-- Settles O19: the rows of the registers, and the rows of BAR0 that take a write. -/
theorem registerWrites : Obligations.RegisterWrites := by
  unfold Obligations.RegisterWrites
  refine ⟨fun fn v s isOpen => ?_, fun v s run up cxl => ⟨fun on rest => ?_, fun off => ?_, fun diag version => ?_,
      fun kept => ?_⟩,
    fun fn data s isOpen => ⟨fun four unset => ?_, fun four set => ?_, fun k i entry part four => ?_,
      fun k i slot byte four aligned => ?_, fun off above low => ?_⟩⟩
  · exact ⟨fun unset on low high => congrArg Host.Outcome.next (mbxCqCfgWrite_enables isOpen unset on low high),
      fun set off idle => congrArg Host.Outcome.next (mbxCqCfgWrite_disables isOpen set off idle),
      fun set kept => congrArg Host.Outcome.next (mbxCqCfgWrite_ignored isOpen set kept)⟩
  · exact congrArg Host.Outcome.next ((pwrWakeWrite_wakes run up cxl on).trans (State.wake_inRest rest))
  · exact congrArg Host.Outcome.next (pwrWakeWrite_zero off)
  · exact congrArg Host.Outcome.next (geoSvnCommitWrite_raises run up cxl diag version)
  · exact congrArg Host.Outcome.next (geoSvnCommitWrite_ignored kept)
  · have word {off : Nat} (base : 0x1000 ≤ off ∧ off < 0x1008) (aligned : off % 4 = 0) :=
      (registerWrite_base isOpen unset base (regAccess_iff.mpr ⟨.inl four, four.symm ▸ aligned⟩)).trans
        (congrArg (List.foldl _ s) (wordsOf_four off four))
    exact ⟨congrArg Host.Outcome.next (word ⟨by decide, by decide⟩ (by decide)),
      congrArg Host.Outcome.next (word ⟨by decide, by decide⟩ (by decide))⟩
  · refine congrArg Host.Outcome.next ((registerWrite_open isOpen (by decide) data).trans ?_)
    rw [if_pos ⟨regAccess_iff.mpr ⟨.inl four, by rw [four]⟩, by decide, by decide⟩, if_pos set]
  · have number : (0x2000 + 16 * k + 4 * i - 0x2000) / 16 = k := by omega
    have word : (0x2000 + 16 * k + 4 * i) / 4 % 4 = i := by omega
    have fits := regAccess_iff.mpr ⟨.inl four, show (0x2000 + 16 * k + 4 * i) % data.length = 0 by rw [four]; omega⟩
    refine congrArg Host.Outcome.next ((registerWrite_vec isOpen (by omega) fits).trans ?_)
    rw [wordsOf_four _ four, List.foldl_cons, List.foldl_nil, number, word]
  · have number : (0x10000 + 256 * k + i - 0x10000) / 256 = k := by omega
    have place : (0x10000 + 256 * k + i) % 256 = i := by omega
    have fits := slotAccess_iff.mpr ⟨.inl four, show (0x10000 + 256 * k + i) % data.length = 0 by rw [four]; omega⟩
    refine congrArg Host.Outcome.next ((registerWrite_slot isOpen (by omega) fits).trans ?_)
    rw [number, place]
  · exact congrArg Host.Outcome.next (registerWrite_discarded low (by omega) (by omega) (by omega))

end Sys2Proof.Machine
end

section
/-! SUPPORT. Proofs/SpdmSessions.lean: when a request of SPDM is answered and when it is refused, and what the requests that
draw entropy, open a session or key a stream answer (R362, R450, R451, R466). -/

namespace Sys2Proof.Machine

section
variable {s : State} {t : Transport}

/-! ### Requests in order and out of order -/

/-- A request in order is answered (R466). -/
theorem State.spdmOn_inOrder (up : s.spdmUp t = true) {ok : Spdm → Bool} (order : ok (s.spdm t) = true)
    (act : State → State) :
    s.spdmOn t ok act = act s := by
  simp only [State.spdmOn, up, order, Bool.not_true, Bool.false_eq_true, if_false, if_true]

/-- One out of order is answered with an error (log 21). -/
theorem State.spdmOn_outOfOrder (up : s.spdmUp t = true) {ok : Spdm → Bool} (order : ok (s.spdm t) = false)
    (act : State → State) :
    s.spdmOn t ok act = s.setReply .spdmError := by
  simp only [State.spdmOn, up, order, Bool.not_true, Bool.false_eq_true, if_false, State.spdmRefuse]

/-! ### What an answer takes from Geode -/

/-- The state after `n` draws of the entropy source (R451). -/
def State.drawn (s : State) (n : Nat) : State := s.setGeode { s.geode with draws := s.geode.draws + n }

theorem State.entropyBytes_eq (s : State) (n : Nat) :
    s.entropyBytes n = (toLe n (Config.entropy s.geode.draws).toNat, s.drawn 1) := rfl

/-- A measurement does not depend on what has been drawn (R452). -/
theorem State.measureBlock_drawn (s : State) (n i : Nat) : (s.drawn n).measureBlock i = s.measureBlock i := rfl

theorem State.spdmSign_drawn (s : State) (n : Nat) (t : Transport) (body : List Byte) :
    (s.drawn n).spdmSign t body = s.spdmSign t body := rfl

/-! ### Requests that read (R450) -/

/-- A portion of the chain of slot 0 (R450). -/
theorem getCertificate_answers (up : s.spdmUp t = true) (algs : (s.spdm t).algs = true) {off : Nat}
    (inside : off < s.certChain.length) (n : Nat) :
    getCertificate t 0 off n s =
      s.spdmAnswer t "CERTIFICATE" [(s.certChain.drop off).take (Nat.min n (s.certChain.length - off)),
        toLe 4 (s.certChain.length - off - Nat.min n (s.certChain.length - off))] :=
  State.spdmOn_inOrder up (by simp [algs, inside]) _

/-- The measurements of the module, one after another. -/
def State.allMeasurements (s : State) : List Byte := (measureIndices.filterMap s.measureBlock).flatten

/-- A challenge of slot 0 is answered over the chain, a fresh nonce and all measurements (R450). -/
theorem challenge_answers (up : s.spdmUp t = true) (algs : (s.spdm t).algs = true) (nonce : List Byte) :
    challenge t 0 nonce s =
      let own := toLe 32 (Config.entropy s.geode.draws).toNat
      (s.drawn 1).spdmAnswer t "CHALLENGE_AUTH" [digest s.certChain, own, digest s.allMeasurements,
        s.spdmSign t (bytesAt nonce 0 32 ++ (digest s.certChain ++ own ++ digest s.allMeasurements))] := by
  refine (State.spdmOn_inOrder up (by simp [algs]) _).trans ?_
  simp only [State.entropyBytes_eq, State.spdmSign_drawn]
  rfl

/-- One measurement block, with a fresh nonce and a signature (R450, R466). -/
theorem getMeasurements_answers (up : s.spdmUp t = true) (algs : (s.spdm t).algs = true) {i : Nat} {b : List Byte}
    (low : 1 ≤ i) (high : i < 0xFF) (block : s.measureBlock i = some b) (nonce : List Byte) :
    getMeasurements t i nonce s =
      let own := toLe 32 (Config.entropy s.geode.draws).toNat
      (s.drawn 1).spdmAnswer t "MEASUREMENTS" [b, own, s.spdmSign t (bytesAt nonce 0 32 ++ b ++ own)] := by
  have notCount : i ≠ 0 := Nat.ne_of_gt low
  have notAll : i ≠ 0xFF := Nat.ne_of_lt high
  refine (State.spdmOn_inOrder up (by simp [algs, block]) _).trans ?_
  simp only [State.entropyBytes_eq, State.spdmSign_drawn, State.measureBlock_drawn, block, notCount, notAll, if_false,
    Option.getD_some, List.flatten_cons, List.flatten_nil, List.append_nil, List.cons_append, List.nil_append]

/-- A piece of the large response that is held (R466). -/
theorem chunkGet_answers (up : s.spdmUp t = true) {i : Nat} (inside : i * spdmPiece < (s.spdm t).chunks.length) :
    chunkGet t i s = s.setReply (.spdm "CHUNK_RESPONSE" [((s.spdm t).chunks.drop (i * spdmPiece)).take spdmPiece]) :=
  State.spdmOn_inOrder up (by simpa using inside) _

/-! ### The session (R362, R466) -/

/-- The handshake's secret and code, from the shared secret and the transcript with the two messages (R466). -/
theorem keyExchange_opens (up : s.spdmUp .doe = true) {ek : List Byte} (algs : (s.spdm .doe).algs = true)
    (idle : (s.spdm .doe).session = 0) (key : ek.length = 1568) :
    keyExchange .doe ek s =
      let x := s.spdm .doe
      let kem := Config.kemEncaps ek s.geode.draws
      let ct := bytesAt kem.1 0 1568
      let own := toLe 32 (Config.entropy (s.geode.draws + 1)).toNat
      let secret := Config.spdmKeys (bytesAt kem.2 0 32) (x.transcript ++ ek ++ ct)
      ((s.drawn 2).putSpdm .doe { x with session := 1, secret := secret }).spdmAnswer .doe "KEY_EXCHANGE_RSP"
        [ct, own, s.spdmSign .doe (ek ++ ct ++ own), Config.spdmMac secret (x.transcript ++ ek ++ ct)] :=
  State.spdmOn_inOrder up (by simp [algs, idle, key]) _

/-- In a secured session a key of 32 bytes secures a stream (R362, R466). -/
theorem vendorDefinedRequest_keys (up : s.spdmUp .doe = true) {key : List Byte} (secured : (s.spdm .doe).session = 2)
    (whole : key.length = 32) (stream : IdeStream) :
    vendorDefinedRequest .doe stream key s =
      (s.setPort (match stream with
        | .io => { s.port with ideIo := 1, keyIo := key }
        | .cachemem => { s.port with ideCm := 1, keyCm := key })).spdmAnswer .doe "VENDOR_DEFINED_RESPONSE" [] := by
  refine (State.spdmOn_inOrder up (by simp [secured, whole]) _).trans ?_
  cases stream <;> rfl

/-- FINISH with the right code secures the session (R466). -/
theorem finish_secures (up : s.spdmUp t = true) (handshake : (s.spdm t).session = 1) :
    finish t (Config.spdmMac (s.spdm t).secret (s.spdm t).transcript) s =
      (s.putSpdm t { s.spdm t with
        session := 2, secret := Config.spdmKeys (s.spdm t).secret (s.spdm t).transcript }).spdmAnswer t "FINISH_RSP" [] :=
  (State.spdmOn_inOrder up (by simp [handshake]) _).trans (if_pos rfl)

/-- ... and with a wrong one ends it (R466). -/
theorem finish_ends (up : s.spdmUp t = true) (handshake : (s.spdm t).session = 1) {mac : List Byte}
    (wrong : mac ≠ Config.spdmMac (s.spdm t).secret (s.spdm t).transcript) :
    finish t mac s = (s.putSpdm t { s.spdm t with session := 0, secret := [] }).setReply .spdmError :=
  (State.spdmOn_inOrder up (by simp [handshake]) _).trans (if_neg wrong)

end

/-- Settles O48: every request is `State.spdmOn` of its own condition, so each clause says that the condition holds, and what
the answer is, or that it does not. -/
theorem spdmRequests : Obligations.SpdmRequests := by
  unfold Obligations.SpdmRequests
  refine ⟨fun t s up => ?_, fun s up => ⟨fun ek algs idle key => ?_, fun key secured whole => ⟨?_, ?_⟩⟩, fun t s up => ?_⟩
  · intro x
    have inOrder {ok : Spdm → Bool} {act : State → State} (order : ok x = true) := State.spdmOn_inOrder up order act
    have outOfOrder {ok : Spdm → Bool} {act : State → State} (order : ok x = false) := State.spdmOn_outOfOrder up order act
    refine ⟨congrArg Host.Outcome.next (inOrder rfl), ⟨fun ⟨version, idle⟩ => ?_, fun early => ?_⟩,
      fun a b c d => ⟨fun ⟨caps, idle⟩ => ?_, fun early => ?_⟩,
      fun algs => ⟨?_, fun off n inside => ?_, fun nonce => ?_, fun i nonce b low high block => ?_⟩,
      fun algs => ⟨?_, fun sl off n => ?_, fun sl nonce => ?_, fun i nonce => ?_, fun ek => ?_⟩, fun i inside => ?_⟩
    · exact congrArg Host.Outcome.next (inOrder (by simp [version, idle]))
    · exact congrArg Host.Outcome.next (outOfOrder (by rcases early with early | busy <;> simp [*]))
    · exact congrArg Host.Outcome.next (inOrder (by simp [caps, idle]))
    · exact congrArg Host.Outcome.next (outOfOrder (by rcases early with early | busy <;> simp [*]))
    · exact congrArg Host.Outcome.next (inOrder algs)
    · exact congrArg Host.Outcome.next (getCertificate_answers up algs inside n)
    · exact congrArg Host.Outcome.next (challenge_answers up algs nonce)
    · exact congrArg Host.Outcome.next (getMeasurements_answers up algs low high block nonce)
    · exact congrArg Host.Outcome.next (outOfOrder algs)
    · exact congrArg Host.Outcome.next (outOfOrder (by simp [algs]))
    · exact congrArg Host.Outcome.next (outOfOrder (by simp [algs]))
    · exact congrArg Host.Outcome.next (outOfOrder (by simp [algs]))
    · exact congrArg Host.Outcome.next (outOfOrder (by simp [algs]))
    · exact congrArg Host.Outcome.next (chunkGet_answers up inside)
  · exact congrArg Host.Outcome.next (keyExchange_opens up algs idle key)
  · exact congrArg Host.Outcome.next (vendorDefinedRequest_keys up secured whole .io)
  · exact congrArg Host.Outcome.next (vendorDefinedRequest_keys up secured whole .cachemem)
  · intro x
    have inOrder {ok : Spdm → Bool} {act : State → State} (order : ok x = true) := State.spdmOn_inOrder up order act
    have outOfOrder {ok : Spdm → Bool} {act : State → State} (order : ok x = false) := State.spdmOn_outOfOrder up order act
    refine ⟨fun handshake => ⟨?_, fun mac wrong => ?_⟩, fun idle mac => ?_, fun secured => ⟨?_, fun all => ?_, ?_⟩,
      fun unsecured => ⟨?_, fun all => ?_, ?_, fun st key => ?_⟩⟩
    · exact congrArg Host.Outcome.next (finish_secures up handshake)
    · exact congrArg Host.Outcome.next (finish_ends up handshake wrong)
    · exact congrArg Host.Outcome.next (outOfOrder (by simpa using idle))
    · exact congrArg Host.Outcome.next (inOrder (by simpa using secured))
    · exact congrArg Host.Outcome.next (inOrder (by simpa using secured))
    · exact congrArg Host.Outcome.next (inOrder (by simpa using secured))
    · exact congrArg Host.Outcome.next (outOfOrder (by simpa using unsecured))
    · exact congrArg Host.Outcome.next (outOfOrder (by simpa using unsecured))
    · exact congrArg Host.Outcome.next (outOfOrder (by simpa using unsecured))
    · exact congrArg Host.Outcome.next (outOfOrder (by simp [beq_eq_false_iff_ne.mpr unsecured]))

end Sys2Proof.Machine
end

section
/-! SUPPORT. Proofs/HostResets.lean: what a Function Level Reset leaves of its function, its partition and the others, PERST#, VF
Enable and Bus Master Enable (R342, R346, R347, R361, R478, R487, R490, R502, R512, R514, R535). -/

namespace Sys2Proof.Machine

/-! ### The flights stay where a partition is torn down (R346) -/

/-- A fold whose steps leave the flights leaves them. -/
theorem State.flights_foldl {α : Type} {g : State → α → State} (keeps : ∀ s a, (g s a).flights = s.flights) (l : List α)
    (s : State) : (l.foldl g s).flights = s.flights :=
  List.foldlRecOn l g (motive := fun t => t.flights = s.flights) rfl fun t same a _ => (keeps t a).trans same

theorem State.blur_flights (s : State) (p c : Nat) (w : Wrote) : (s.blur p c w).flights = s.flights := by
  unfold State.blur
  dsimp only
  split <;> rfl

theorem State.reportLists_flights (s : State) (slab part ctx : Nat) : (s.reportLists slab part ctx).flights = s.flights := by
  refine State.flights_foldl (fun t o => ?_) _ s
  split
  · split
    · exact (State.emit_told (Told.refl t) ..).flights
    · rfl
  · rfl

theorem State.stopOps_flights (s : State) (part ctx slab id : Nat) : (s.stopOps part ctx slab id).flights = s.flights :=
  State.flights_foldl (fun t _ => (State.flights_foldl (fun u _ => u.blur_flights ..) _ _).trans (t.reportLists_flights ..)) _ s

theorem State.teardownAll_flights (s : State) (p : Nat) : (s.teardownAll p).flights = s.flights :=
  State.flights_foldl (fun t _ => t.stopOps_flights ..) _ s

/-! ### A partition's reset (R346) -/

theorem State.unmapEnd_within {p : Nat} {r s : State} (k : Within p r s) {f : Flight} (own : f.fn = p) :
    Within p r (s.unmapEnd f) := by
  unfold State.unmapEnd
  split
  · exact own ▸ within_modPart (own ▸ k) _
  · exact own ▸ State.modRegion_within (own ▸ k) _ _

/-- A partition whose unmappings have ended, torn down: what its reset then takes the flights and codec sessions from. -/
def State.unmapAndTearDown (s : State) (p : Nat) : State :=
  ((s.flights.filter fun f => f.fn == p).foldl (fun s f =>
    if f.phase = .busy && (f.cmd = .regionUnmap || f.cmd = .regionDestroy) then s.unmapEnd f else s) s).teardownAll p

theorem State.unmapAndTearDown_within (s : State) (p : Nat) : Within p s (s.unmapAndTearDown p) := by
  refine State.teardownAll_within (Within.foldlMem _ _ (fun t f mem k => ?_) (Within.refl p s))
  have own : f.fn = p := by simpa using (List.mem_filter.mp mem).2
  split
  · exact State.unmapEnd_within k own
  · exact k

/-- The partition without its flights and codec sessions. -/
def State.emptied (s : State) (p : Nat) : State :=
  let t := s.unmapAndTearDown p
  (t.setFlights (t.flights.filter fun f => f.fn != p)).setCodec (t.codec.closePart p)

theorem State.resetPartition_eq (s : State) (p : Nat) (keep : Bool) :
    s.resetPartition p keep =
      if ((s.emptied p).part p).session.isSome then (s.emptied p).endSession p
      else if keep then s.emptied p
      else (s.emptied p).modPart p fun q => { q with held := [] } := rfl

theorem State.emptied_part (s : State) {p j : Nat} (other : j ≠ p) : (s.emptied p).part j = s.part j :=
  (s.unmapAndTearDown_within p).parts j other

theorem State.endSession_part (s : State) {p j : Nat} (other : j ≠ p) : (s.endSession p).part j = s.part j :=
  (State.part_modPart_of_ne _ (Ne.symm other) _).trans ((State.teardownAll_within (Within.refl p s)).parts j other)

theorem State.endSession_session {s : State} {p : Nat} (there : p < s.parts.length) :
    ((s.endSession p).part p).session = none := by
  have low : p < (s.teardownAll p).parts.length := (State.teardownAll_within (Within.refl p s)).count ▸ there
  have ends : (s.endSession p).part p = _ :=
    State.part_modPart_self ((s.teardownAll p).setCodec ((s.teardownAll p).codec.closePart p)).entropyDraw.2 low _
  rw [ends]

/-- The reset of a partition leaves every other one (R346). -/
theorem State.resetPartition_part (s : State) {p j : Nat} (keep : Bool) (other : j ≠ p) :
    (s.resetPartition p keep).part j = s.part j := by
  rw [State.resetPartition_eq]
  split
  · exact (State.endSession_part _ other).trans (s.emptied_part other)
  · split
    · exact s.emptied_part other
    · exact (State.part_modPart_of_ne _ (Ne.symm other) _).trans (s.emptied_part other)

/-- ... and no session of its own (R346). -/
theorem State.resetPartition_session {s : State} {p : Nat} (there : p < s.parts.length) (keep : Bool) :
    ((s.resetPartition p keep).part p).session = none := by
  have low : p < (s.emptied p).parts.length := (s.unmapAndTearDown_within p).count ▸ there
  rw [State.resetPartition_eq]
  split
  case isTrue => exact State.endSession_session low
  case isFalse closed =>
    replace closed : ((s.emptied p).part p).session = none := by simpa using closed
    split
    · exact closed
    · rw [State.part_modPart_self _ low]
      exact closed

/-- ... and no flight of its function (R346). -/
theorem State.resetPartition_flights (s : State) (p : Nat) (keep : Bool) : ∀ f ∈ (s.resetPartition p keep).flights, f.fn ≠ p := by
  have gone : ∀ f ∈ (s.emptied p).flights, f.fn ≠ p := fun f mem => by simpa using (List.mem_filter.mp mem).2
  rw [State.resetPartition_eq]
  split
  · exact (State.teardownAll_flights (s.emptied p) p) ▸ gone
  · split <;> exact gone

/-! ### A function's reset (R346, R490, R512) -/

/-- The rings of the function go to reset, the module ring with the physical function's (R490). -/
theorem State.ring_resetFunction {s : State} {i r : Nat} (there : r < s.talus.rings.length)
    (view : r ∈ if i = 0 then [0, 16] else [i]) : (s.resetFunction i).ring r = Ring.reset := by
  have found : (if i = 0 then [0, 16] else [i]).contains r = true := List.contains_iff_mem.mpr view
  simp only [State.ring, nth, State.resetFunction, State.setTalus_talus, List.getD_eq_getElem?_getD, List.getElem?_map,
    List.getElem?_zipIdx, List.getElem?_eq_getElem there, Option.map_some, Nat.zero_add, found, if_true, Option.getD_some]

theorem State.fn_resetFunction {s : State} {i : Nat} (there : i < s.fns.length) : (s.resetFunction i).fn i = Fn.reset :=
  s.fn_modFn_self there _

theorem State.armed_resetFunction (s : State) (i : Nat) : ∀ a ∈ (s.resetFunction i).talus.armed, a.fn ≠ i :=
  fun a mem => by simpa using (List.mem_filter.mp mem).2

/-! ### PERST#, VF Enable -/

/-- PERST# past its filter resets the host port; in Rest it is a wake request (R502, R514, R535). -/
theorem perstAssert_acted (s : State) {ns : Nat} (long : (filterWidths 0).2 ≤ ns) : perstAssert ns s = s.perst := by
  simp only [perstAssert, s.passes_acted (pin := 0) (by decide) long]

/-- A host-port reset: a wake in Rest, every function, and the port (R502, R512, R514). -/
theorem State.perst_eq (s : State) :
    s.perst =
      let h := s.setHub { s.hub with pins := { s.hub.pins with perst := true } }
      let t := (List.range 16).foldl (fun t i => t.flrOne i true) (if s.running then h.wake else h)
      t.setPort { Port.reset with memActive := t.port.memActive } := by
  have same : (s.setHub { s.hub with pins := { s.hub.pins with perst := true } }).running = s.running := rfl
  unfold State.perst State.hostPortReset
  rw [same]

theorem perstAssert_ignored (s : State) {ns : Nat} (short : ns ≤ (filterWidths 0).1) : perstAssert ns s = s := by
  simp only [perstAssert, s.passes_ignored short]

theorem functionLevelReset_answers {s : State} {i : Nat} (config : s.configOpen = true) (there : s.fnExists i = true) :
    functionLevelReset i s =
      let w := if s.running then s.wake else s
      if i = 0 then w.clearVfs.flrOne 0 false else w.flrOne i false := by
  simp only [functionLevelReset, config, there, Bool.not_true, Bool.or_self, Bool.false_eq_true, if_false]

theorem vfEnableClear_set {s : State} (config : s.configOpen = true) (set : s.port.vfEnable = true) :
    vfEnableClear s = s.clearVfs := by
  simp only [vfEnableClear, config, set, Bool.and_self, if_true]

/-- Clearing VF Enable resets every virtual function (R346). -/
theorem State.clearVfs_set {s : State} (set : s.port.vfEnable = true) :
    s.clearVfs =
      let t := ((List.range s.port.numVfs).map fun i => i + 1).foldl (fun t i => t.flrOne i false) s
      t.setPort { t.port with vfEnable := false } := by
  simp only [State.clearVfs, State.vfs, set, if_true]

theorem vfEnableClear_clear {s : State} (clear : s.port.vfEnable = false) : vfEnableClear s = s := by
  simp only [vfEnableClear, clear, Bool.and_false, Bool.false_eq_true, if_false]

theorem vfEnableSet_set {s : State} (set : s.port.vfEnable = true) (n : Nat) : vfEnableSet n s = s := by
  simp only [vfEnableSet, set, Bool.not_true, Bool.and_false, Bool.false_and, Bool.false_eq_true, if_false]

theorem vfEnableSet_clear {s : State} {n : Nat} (config : s.configOpen = true) (clear : s.port.vfEnable = false) (few : n ≤ 15) :
    vfEnableSet n s = s.setPort { s.port with numVfs := n, vfEnable := true } := by
  simp only [vfEnableSet, config, clear, few, Bool.not_false, decide_true, Bool.and_self, if_true]

/-! ### Bus Master Enable (R347) -/

/-- A function that may not send requests lets nothing start. -/
theorem State.mastersOn_off {s : State} {fn : Nat} (off : (s.fn fn).masters = false) : s.mastersOn fn = s := by
  simp only [State.mastersOn, off, Bool.and_false, Bool.not_false, if_true]

/-- Decodes that wait read their input, and pending interrupts and drop records go out (R347, R361, R478). -/
def State.sendPending (s : State) (fn : Nat) : State :=
  (if fn = 0 then [0, 16] else [fn]).foldl (fun u r => u.flushDrops r) ((s.nextDecodes fn).flushPba fn)

/-- The commands of a function that wait until it may send requests. -/
def State.waitingForBme (s : State) (fn : Nat) : List Flight := s.flights.filter fun f => f.fn == fn && decide (f.phase = .bme)

/-- The command with a number goes on, where it is still in flight. -/
def State.proceedSeq (s : State) (q : Nat) : State :=
  match s.flight? q with
  | some f => s.proceed f
  | none => s

/-- Once a function may send requests its waiting commands start in the order of their numbers, then the rest goes out (R347). -/
theorem State.mastersOn_on {s : State} {fn : Nat} (run : s.running = true) (on : (s.fn fn).masters = true) :
    s.mastersOn fn =
      ((sortBy id ((s.waitingForBme fn).map Flight.seq)).foldl State.proceedSeq s).sendPending fn := by
  simp only [State.mastersOn, run, on, Bool.and_self, Bool.not_true, Bool.false_eq_true, if_false]
  rfl

theorem State.mastersOn_none {s : State} {fn : Nat} (run : s.running = true) (on : (s.fn fn).masters = true)
    (wait : s.waitingForBme fn = []) : s.mastersOn fn = s.sendPending fn := by
  rw [State.mastersOn_on run on, wait]
  rfl

theorem State.mastersOn_one {s : State} {fn : Nat} {f : Flight} (run : s.running = true) (on : (s.fn fn).masters = true)
    (wait : s.waitingForBme fn = [f]) (flight : s.flight? f.seq = some f) :
    s.mastersOn fn = (s.proceed f).sendPending fn := by
  rw [State.mastersOn_on run on, wait]
  show (s.proceedSeq f.seq).sendPending fn = _
  rw [State.proceedSeq, flight]

theorem busMasterEnableWrite_answers {s : State} {fn : Nat} (config : s.configOpen = true) (there : s.fnExists fn = true)
    (on : Bool) :
    busMasterEnableWrite fn on s = (s.modFn fn fun g => { g with bme := on }).mastersOn fn := by
  simp only [busMasterEnableWrite, config, there, Bool.and_self, if_true]

/-- Settles O51: each row by its own lemma, and what a reset leaves by those of the partition and of the function. -/
theorem resetsOfTheHostSide : Obligations.ResetsOfTheHostSide := by
  unfold Obligations.ResetsOfTheHostSide
  intro s w
  refine ⟨fun fn config there low inv => ?_, fun config => ⟨fun set => ⟨?_, fun n => ?_⟩, fun clear => ⟨?_, fun n few => ?_⟩⟩,
    fun ns long => ?_, fun ns short => ?_, rfl, fun inv i keep low => ?_⟩
  · have own : fn < s.fns.length := inv.fns ▸ low
    have resets := functionLevelReset_answers (i := fn) config there
    have writes := busMasterEnableWrite_answers (fn := fn) config there
    have written (on : Bool) : (s.modFn fn fun g => { g with bme := on }).fn fn = { s.fn fn with bme := on } :=
      s.fn_modFn_self own _
    refine ⟨fun virtual => ?_, fun physical => ?_, ?_, fun run awake => ?_⟩
    · exact congrArg Host.Outcome.next (resets.trans (if_neg virtual))
    · exact congrArg Host.Outcome.next (resets.trans (if_pos physical))
    · have off : ((s.modFn fn fun g => { g with bme := false }).fn fn).masters = false := by rw [written]; rfl
      exact congrArg Host.Outcome.next ((writes false).trans (State.mastersOn_off off))
    · intro t out
      have on : (t.fn fn).masters = true := by
        show ((s.modFn fn fun g => { g with bme := true }).fn fn).masters = true
        rw [written]
        simp [Fn.masters, awake]
      refine ⟨fun none => ?_, fun f one flight => ?_⟩
      · have wait : t.waitingForBme fn = [] := List.filter_eq_nil_iff.mpr fun f mem => by simpa using none f mem
        exact congrArg Host.Outcome.next ((writes true).trans (State.mastersOn_none run on wait))
      · exact congrArg Host.Outcome.next ((writes true).trans (State.mastersOn_one run on one flight))
  · exact congrArg Host.Outcome.next ((vfEnableClear_set config set).trans (State.clearVfs_set set))
  · exact congrArg Host.Outcome.next (vfEnableSet_set set n)
  · exact congrArg Host.Outcome.next (vfEnableClear_clear clear)
  · exact congrArg Host.Outcome.next (vfEnableSet_clear config clear few)
  · exact congrArg Host.Outcome.next ((perstAssert_acted s long).trans s.perst_eq)
  · exact congrArg Host.Outcome.next (perstAssert_ignored s short)
  · have kept : (s.resetPartition i keep).Inv := (State.resetPartition_calm (Calm.refl s) i keep).inv inv
    have own : i < (s.resetPartition i keep).fns.length := by rw [kept.fns]; exact low
    have ring {r : Nat} (below : r < 17) := State.ring_resetFunction (i := i) (kept.rings ▸ below)
    refine ⟨State.fn_resetFunction own, ring (by omega) ?_, fun physical => ring (by omega) (by simp [physical]),
      s.resetPartition_flights i keep, State.resetPartition_session (inv.parts ▸ low) keep, State.armed_resetFunction _ i,
      fun j other => s.resetPartition_part keep other⟩
    split
    · simp [‹i = 0›]
    · exact List.mem_singleton_self i

end Sys2Proof.Machine
end

section
/-! SUPPORT. Proofs/InputAndStops.lean: the input, PWR_GOOD_IN and the removal of the supplies, and what a stop of the module
changes of it (R364, R371, R483, R491 to R493, R517, R524, R535). -/

namespace Sys2Proof.Machine

section
variable {s : State}

/-! ### The input (R491, R493, R517) -/

theorem vinOk_iff {mv : Nat} : vinOk mv = true ↔ 40000 ≤ mv ∧ mv ≤ 60000 := by simp [vinOk]

theorem hubKept_iff {mv : Nat} : hubKept mv = true ↔ 30000 ≤ mv ∧ mv ≤ 66000 := by simp [hubKept]

theorem vinOk_outside {mv : Nat} (outside : mv < 40000 ∨ 60000 < mv) : vinOk mv = false :=
  Bool.eq_false_iff.mpr fun inside => by have := vinOk_iff.mp inside; omega

theorem hubKept_outside {mv : Nat} (outside : mv < 30000 ∨ 66000 < mv) : hubKept mv = false :=
  Bool.eq_false_iff.mpr fun inside => by have := hubKept_iff.mp inside; omega

/-- Past step 0 of start-up, or with the input in range, a reading is only noted (R491). -/
theorem vinExcursion_noted {mv : Nat} (notes : vinOk mv = true ∨ s.hub.power = .up) :
    vinExcursion mv s = s.setPower { s.power with vin := mv, excursion := !vinOk mv } := by
  rcases notes with inside | up
  · simp [vinExcursion, inside]
  · simp [vinExcursion, up]

/-- In step 0 the input out of range begins the wait again (R517). -/
theorem vinExcursion_waits {mv : Nat} (outside : mv < 40000 ∨ 60000 < mv) (starting : s.hub.power = .starting)
    (step : s.hub.startup.step = 0) (run : s.hub.stop = none) :
    vinExcursion mv s = (s.setPower { s.power with vin := mv, excursion := true }).backToWaiting := by
  simp [vinExcursion, vinOk_outside outside, starting, step, run]

/-- An excursion that lasts stops a module that is up (R491). -/
theorem vinDebounceExpire_stops (excursion : s.power.excursion = true) (up : s.hub.power = .up) (run : s.hub.stop = none) :
    vinDebounceExpire s = s.stopModule .vinRange 0xF 0xF 0xF 0xFFFFFFFF := by
  simp [vinDebounceExpire, State.pastStep0, excursion, up, run]

theorem vinDebounceExpire_inRange (inRange : s.power.excursion = false) : vinDebounceExpire s = s := by
  simp [vinDebounceExpire, inRange]

/-! ### PWR_GOOD_IN (R492, R535) -/

/-- PWR_GOOD_IN low past its filter stops a module that is up (R492). -/
theorem pwrGoodInDeassert_stops {ns : Nat} (long : 20000 ≤ ns) (up : s.hub.power = .up) :
    pwrGoodInDeassert ns s =
      (s.setHub { s.hub with pins := { s.hub.pins with pwrGood := false } }).stopModule .pwrGood 0xF 0xF 0xF 0xFFFFFFFF := by
  simp [pwrGoodInDeassert, s.passes_acted (pin := 2) (by decide) long, State.pwrGoodFalls, State.pastStep0, up]

theorem pwrGoodInDeassert_ignored (s : State) {ns : Nat} (short : ns ≤ 18000) : pwrGoodInDeassert ns s = s := by
  simp only [pwrGoodInDeassert, s.passes_ignored (pin := 2) short]

/-! ### The supplies (R493) -/

/-- After a power or thermal stop the supplies of the slabs and stacks go; the hub's own only where the input asks for it
(R493). -/
theorem supplyShutdown_removes {x : Stop} (stop : s.hub.stop = some x) (supplied : x.suppliesOff = false)
    (code : x.code ∈ [St.vinRange, .pwrGood, .thermTrip, .hbmTrip]) :
    supplyShutdown s =
      let dark := (s.setHub { s.hub with stop := some { x with suppliesOff := true } }).loseMemories
      if hubKept s.power.vin then dark else dark.loseHub.backToWaiting := by
  have removes : [St.vinRange, .pwrGood, .thermTrip, .hbmTrip].contains x.code = true := List.contains_iff_mem.mpr code
  simp only [supplyShutdown, stop, supplied, removes, Bool.not_true, Bool.or_self, Bool.false_eq_true, if_false]
  rfl

/-! ### The stop of the module (R364, R371, R483, R524) -/

/-- The report of a stop: its alarm in the module view, and its record in every set ring that the Steward can write (R483). -/
def State.stopTold (s : State) (c : St) (src unit d0 d1 : Nat) (inj : Bool) : State :=
  let e := unitEvent s c 0 src unit d0 d1 0 inj
  (s.setTalus (s.talus.raise 16 e 0 true true)).takeSeq.2.deliverAs
    ((List.range 17).filter fun r => stopWrites c d1 && (s.ring r).isSet) e s.hub.seq

/-- The alarm, the number and the records are all that the report changes, and it takes a number (R35, R483). -/
theorem State.stopTold_told (s : State) (c : St) (src unit d0 d1 : Nat) (inj : Bool) :
    Told s (s.stopTold c src unit d0 d1 inj) ∧ s.hub.seq < (s.stopTold c src unit d0 d1 inj).hub.seq := by
  have raises : Told s (s.setTalus (s.talus.raise 16 (unitEvent s c 0 src unit d0 d1 0 inj) 0 true true)) := by
    rw [Talus.raise_rest]
    exact told_setTalus (Told.refl s) _ rfl rfl id
  have numbered := State.takeSeq_told raises
  have delivered := State.deliverAs_told (Told.refl (s.setTalus
    (s.talus.raise 16 (unitEvent s c 0 src unit d0 d1 0 inj) 0 true true)).takeSeq.2)
    ((List.range 17).filter fun r => stopWrites c d1 && (s.ring r).isSet) (unitEvent s c 0 src unit d0 d1 0 inj) s.hub.seq
  exact ⟨numbered.trans delivered, delivered.seq⟩

/-- The hub as a stop leaves it: the stop, THERM_TRIP# for a trip, and the code of a start-up that failed (R371, R483, R524). -/
def Hub.stoppedBy (h : Hub) (now : Nat) (x : Stop) : Hub :=
  { h with
    stop := some x
    pins := { h.pins with thermTrip := h.pins.thermTrip || (decide (x.code = .thermTrip) || decide (x.code = .hbmTrip)) }
    startup := if h.power = .starting then
        { h.startup with failed := true, code := x.code.code, elapsed := Nat.min (2 ^ 32 - 1) (now - h.startup.began) }
      else h.startup }

/-- A fatal code stops a module that is up or starts (R483): after its report only the hub's own fields and viral change. -/
theorem State.stopModule_stopping (works : s.hub.power = .up ∨ s.hub.power = .starting) (run : s.hub.stop = none)
    (c : St) (src unit d0 d1 : Nat) (inj : Bool) :
    s.stopModule c src unit d0 d1 inj =
      let t := s.stopTold c src unit d0 d1 inj
      (t.setHub (t.hub.stoppedBy t.powTime
        { code := c, src := src, unit := unit, d0 := d0, d1 := d1, inj := inj, suppliesOff := false })).setPort
          { t.port with viral := t.port.viral || t.port.viralOn } := by
  have stops : (s.hub.stop.isSome || !(decide (s.hub.power = .up) || decide (s.hub.power = .starting))) = false := by
    rcases works with up | starting <;> simp [*]
  simp only [State.stopModule, stops, Bool.false_eq_true, if_false]
  rfl

theorem State.stopModule_stopped (stopped : s.hub.stop ≠ none) (c : St) (src unit d0 d1 : Nat) (inj : Bool) :
    s.stopModule c src unit d0 d1 inj = s :=
  if_pos (by simp [Option.isSome_iff_ne_none.mpr stopped])

/-- A report leaves the power manager's timer. -/
theorem Told.powTime {t : State} (told : Told s t) : t.powTime = s.powTime := by
  show nth t.hub.timers _ = nth s.hub.timers _
  rw [told.hub]

end

/-- Settles O20: each row by its own lemma, and a stop by what its report leaves. -/
theorem inputSupplyAndStops : Obligations.InputSupplyAndStops := by
  unfold Obligations.InputSupplyAndStops
  refine ⟨fun s => ⟨fun mv low high => ?_, fun mv outside up => ?_, fun mv outside starting step run => ?_,
    fun excursion up run => ?_, fun inRange => ?_, fun ns long up => ?_, fun ns short => ?_, fun x stop supplied code => ?_⟩,
    fun s c src unit d0 d1 inj => ⟨fun works run => ?_, fun stopped => ?_⟩⟩
  · have inside : vinOk mv = true := vinOk_iff.mpr ⟨low, high⟩
    refine congrArg Host.Outcome.next ((vinExcursion_noted (.inl inside)).trans ?_)
    rw [inside]
    rfl
  · refine congrArg Host.Outcome.next ((vinExcursion_noted (.inr up)).trans ?_)
    rw [vinOk_outside outside]
    rfl
  · exact congrArg Host.Outcome.next (vinExcursion_waits outside starting step run)
  · exact congrArg Host.Outcome.next (vinDebounceExpire_stops excursion up run)
  · exact congrArg Host.Outcome.next (vinDebounceExpire_inRange inRange)
  · exact congrArg Host.Outcome.next (pwrGoodInDeassert_stops long up)
  · exact congrArg Host.Outcome.next (pwrGoodInDeassert_ignored s short)
  · have removes := supplyShutdown_removes stop supplied code
    exact ⟨fun low high => congrArg Host.Outcome.next (removes.trans (if_pos (hubKept_iff.mpr ⟨low, high⟩))),
      fun outside => congrArg Host.Outcome.next (removes.trans (if_neg (by simp [hubKept_outside outside])))⟩
  · obtain ⟨told, number⟩ := s.stopTold_told c src unit d0 d1 inj
    intro t
    have stops : t = _ := State.stopModule_stopping works run c src unit d0 d1 inj
    clear_value t
    subst stops
    refine ⟨?_, number, ?_, told.slabs, told.parts, told.flights, told.codec, told.geode⟩
    · show Hub.stoppedBy _ _ _ = _
      rw [told.powTime, told.hub]
      rfl
    · show ({ State.port _ with viral := _ } : Port) = _
      rw [told.port]
  · exact State.stopModule_stopped stopped c src unit d0 d1 inj

end Sys2Proof.Machine
end

section
/-! SUPPORT. Proofs/DeviceMemory.lean: the training of the host link, the decoders, and the host's reads and writes of device
memory (R336, R337, R339, R351 to R355, R364, R401, R502). -/

namespace Sys2Proof.Machine

section
variable {s : State}

/-! ### The link (R336, R337, R339) -/

/-- Where the physical layer can train and no injection is armed, the link trains as the host asks, with an event below 16 lanes
or 64 GT/s (R336, R339). -/
theorem hostLinkTrained_trains (armed : s.talus.armed = []) (can : s.canTrain = true) (run : s.hub.stop = none) {w r : Nat}
    (wide : w ≤ 4) (fast : r ≤ 5) (f l : Bool) :
    hostLinkTrained w r f l s =
      let t := s.setPort (s.port.trained w r f l)
      if w < 4 ∨ r < 5 then t.moduleEvent .hostLink 0 0xF 0xC (w + r * 256) 0 0 else t := by
  simp [hostLinkTrained, can, Nat.not_lt.mpr wide, Nat.not_lt.mpr fast, State.opportunity_unarmed armed, run]

theorem cxlMode_iff {w r : Nat} : cxlMode w r = true ↔ 2 ≤ w ∧ 2 ≤ r := by simp [cxlMode]

/-- The lines that the host holds stay where CXL.mem does (R337). -/
theorem Port.trained_snoop {o : Port} {w r : Nat} {f l : Bool} (cxl : (o.trained w r f l).cxl = true)
    (flit : (o.trained w r f l).flit256 = true) : (o.trained w r f l).snoop = o.snoop :=
  if_pos (Bool.and_eq_true_iff.mpr ⟨cxl, flit⟩)

/-- Without CXL.mem the host holds no line, and none of its requests waits (R337, log 60). -/
theorem Port.trained_noMem {o : Port} {w r : Nat} {f l : Bool}
    (noMem : ((o.trained w r f l).cxl && (o.trained w r f l).flit256) = false) :
    (o.trained w r f l).snoop = [] ∧ (o.trained w r f l).hostWaits = [] :=
  ⟨if_neg (Bool.eq_false_iff.mp noMem), if_neg (Bool.eq_false_iff.mp noMem)⟩

/-- A decoder that is not committed commits in 256-byte flit mode, and else shows its error (R337, R351). -/
theorem hdmDecoderCommit_commits (config : s.configOpen = true) (cxl : s.port.cxl = true) {i : Nat} (low : i < 16)
    (uncommitted : (nth s.port.decoders i).committed = false) (base size : Nat) :
    hdmDecoderCommit i base size s =
      (s.setPort { s.port with decoders := modAt s.port.decoders i fun _ =>
        { base := base, size := size, committed := s.port.flit256, error := !s.port.flit256 } }).setReply
          (.decoder s.port.flit256) := by
  simp [hdmDecoderCommit, config, cxl, Nat.not_le.mpr low, uncommitted]

/-! ### Accesses of the host (R352 to R355, R364, R502) -/

/-- After a stop a read that a decoder maps reaches the module, without memory too (R364). -/
theorem hdmRead_stopped {dpa : Nat} (link : s.port.cacheMem = true) (flit : s.port.flit256 = true)
    (decodes : s.decodes dpa = true) (stop : s.hub.stop ≠ none) : hdmRead dpa s = s.hostAccess dpa none := by
  simp [hdmRead, link, flit, decodes, Option.isSome_iff_ne_none.mpr stop]

/-- CXL.mem works and a decoder maps the address, in a module that is up (R337, R351). -/
structure State.Reaches (s : State) (dpa : Nat) : Prop where
  mem : s.cxlMem = true
  decodes : s.decodes dpa = true
  up : s.hub.power = .up

variable {dpa : Nat}

theorem State.Reaches.read (reaches : s.Reaches dpa) : hdmRead dpa s = s.hostAccess dpa none := by
  obtain ⟨mem, decodes, up⟩ := reaches
  simp only [State.cxlMem, Bool.and_eq_true] at mem
  simp [hdmRead, mem, decodes, up]

theorem State.Reaches.write (reaches : s.Reaches dpa) {bs : List Byte} (nonempty : 0 < bs.length)
    (inWord : dpa % 64 + bs.length ≤ 64) : hdmWrite dpa bs s = s.hostAccess dpa (some bs) := by
  obtain ⟨mem, decodes, up⟩ := reaches
  simp [hdmWrite, mem, decodes, up, List.ne_nil_of_length_pos nonempty, inWord]

theorem State.hostAccess_stopped (stop : s.hub.stop ≠ none) : s.hostAccess dpa none = s.setReply .poison :=
  if_pos (Option.isSome_iff_ne_none.mpr stop)

/-- In Rest an access wakes the module and waits (R502). -/
theorem State.hostAccess_rests (run : s.hub.stop = none) (rest : s.hub.rest ≠ .awake) (bs : Option (List Byte)) :
    s.hostAccess dpa bs = (s.wake.setPort { s.port with hostWaits := s.port.hostWaits ++ [(dpa, bs)] }).setReply .waits := by
  simp only [State.hostAccess, run, Option.isSome_none, Bool.false_eq_true, if_false]
  exact if_pos rest

theorem State.hostAccess_reads (run : s.hub.stop = none) (awake : s.hub.rest = .awake) :
    s.hostAccess dpa none = s.hostReadDpa dpa := by
  simp [State.hostAccess, run, awake]

theorem State.hostAccess_writes (run : s.hub.stop = none) (awake : s.hub.rest = .awake) (bs : List Byte) :
    s.hostAccess dpa (some bs) = s.hostWriteDpa dpa bs := by
  simp [State.hostAccess, run, awake]

/-! ### Reads (R352 to R354) -/

theorem State.hostReadDpa_unbacked (unbacked : s.backed dpa = false) :
    s.hostReadDpa dpa = (s.hdmUnmapped dpa false).setReply .poison := by
  simp only [State.hostReadDpa, unbacked, Bool.not_false, if_true]

/-- A word with no damage answers its bytes (R352). -/
theorem State.hdmWord_clean (clean : s.clean (dpaSlab dpa)) :
    s.hdmWord dpa =
      (nextFree s 1).setReply (.data (Memory.read (s.flat (dpaPart dpa) (dpaSlab dpa)) (dpaAddr dpa / 64 * 64) 64)) := by
  simp only [State.hdmWord, State.readHbm_clean clean]
  rfl

/-- A line that the filter records is read as it is (R354). -/
theorem State.hostReadDpa_held (backed : s.backed dpa = true) (held : s.port.snoop.contains (dpa / 64) = true) :
    s.hostReadDpa dpa = s.hdmWord dpa := by
  simp only [State.hostReadDpa, backed, held, Bool.not_true, Bool.false_eq_true, if_false, if_true]

/-- A new line is recorded where the filter has room (R354). -/
theorem State.hostReadDpa_records (backed : s.backed dpa = true) (new : s.port.snoop.contains (dpa / 64) = false)
    (room : s.port.snoop.length < snoopLines) :
    s.hostReadDpa dpa =
      (s.setPort { s.port with
        snoop := s.port.snoop ++ [dpa / 64]
        dropped := s.port.dropped.filter fun x => x != dpa / 64 }).hdmWord dpa := by
  simp only [State.hostReadDpa, backed, new, Nat.not_le.mpr room, Bool.not_true, Bool.false_eq_true, if_false]

/-- A full filter makes the read wait for a back-invalidation of its oldest line (R354, log 44). -/
theorem State.hostReadDpa_full (backed : s.backed dpa = true) (new : s.port.snoop.contains (dpa / 64) = false)
    (full : snoopLines ≤ s.port.snoop.length) :
    s.hostReadDpa dpa =
      (s.setPort { s.port.backInvalidate (s.port.snoop.take 1) with
        hostWaits := s.port.hostWaits ++ [(dpa, none)] }).setReply .waits := by
  simp only [State.hostReadDpa, backed, new, full, Bool.not_true, Bool.false_eq_true, if_false, if_true]

/-! ### Writes (R352, R353, R355, R401) -/

/-- A write where nothing backs the address, or where no frame is left, is an event (R352, R401). -/
theorem State.hostWriteDpa_unmapped {bs : List Byte}
    (unmapped : s.backed dpa = false ∨
      (s.port.dropped.contains (dpa / 64) = false ∧ s.needFlat (dpaPart dpa) (dpaSlab dpa) (dpaAddr dpa) = none)) :
    s.hostWriteDpa dpa bs = (s.hdmUnmapped dpa true).setReply .none := by
  cases backed : s.backed dpa
  · simp only [State.hostWriteDpa, backed, Bool.not_false, if_true]
  · obtain ⟨kept, full⟩ := unmapped.resolve_left (by simp [backed])
    simp only [State.hostWriteDpa, backed, kept, full, Bool.not_true, Bool.false_eq_true, if_false]

/-- A write of a dropped line does nothing (R355). -/
theorem State.hostWriteDpa_dropped (backed : s.backed dpa = true) (dropped : s.port.dropped.contains (dpa / 64) = true)
    (bs : List Byte) : s.hostWriteDpa dpa bs = s.setReply .none := by
  simp only [State.hostWriteDpa, backed, dropped, Bool.not_true, Bool.false_eq_true, if_false, if_true]

/-- A write changes its bytes, and one of a whole word replaces its code words (R353, R401). -/
theorem State.hostWriteDpa_writes {t : State} (backed : s.backed dpa = true) (kept : s.port.dropped.contains (dpa / 64) = false)
    (frame : s.needFlat (dpaPart dpa) (dpaSlab dpa) (dpaAddr dpa) = some t) (bs : List Byte) :
    s.hostWriteDpa dpa bs =
      (let u := t.writeFlat (dpaPart dpa) (dpaSlab dpa) (dpaAddr dpa) bs
       if bs.length = 64 then u.overwrite (dpaSlab dpa) (inFlat (dpaPart dpa) (dpaSlab dpa) (dpaAddr dpa) 64) else u).setReply
        .none := by
  simp only [State.hostWriteDpa, backed, kept, frame, Bool.not_true, Bool.false_eq_true, if_false]

end

/-- Settles O45: the rows let an access through, and it meets a stop, Rest, or the memory. -/
theorem hostLinkAndDeviceMemory : Obligations.HostLinkAndDeviceMemory := by
  unfold Obligations.HostLinkAndDeviceMemory
  intro s armed
  refine ⟨fun w r f l can run wide fast => ?_, fun i base size config cxl low uncommitted => ?_,
    fun dpa link flit decodes stop => ?_, fun dpa mem decodes up run => ?_⟩
  · have trains := hostLinkTrained_trains armed can run wide fast f l
    exact ⟨fun whole full => congrArg Host.Outcome.next (trains.trans (if_neg (by omega))),
      fun less => congrArg Host.Outcome.next (trains.trans (if_pos less)), cxlMode_iff, Port.trained_snoop, Port.trained_noMem⟩
  · exact congrArg Host.Outcome.next (hdmDecoderCommit_commits config cxl low uncommitted base size)
  · exact congrArg Host.Outcome.next ((hdmRead_stopped link flit decodes stop).trans (State.hostAccess_stopped stop))
  · intro p k a
    have reaches : s.Reaches dpa := ⟨mem, decodes, up⟩
    refine ⟨fun rest => ⟨?_, fun bs nonempty inWord => ?_⟩, fun awake => ?_⟩
    · exact congrArg Host.Outcome.next (reaches.read.trans (State.hostAccess_rests run rest none))
    · exact congrArg Host.Outcome.next ((reaches.write nonempty inWord).trans (State.hostAccess_rests run rest (some bs)))
    have reads : hdmRead dpa s = s.hostReadDpa dpa := reaches.read.trans (State.hostAccess_reads run awake)
    have writes {bs : List Byte} (nonempty : 0 < bs.length) (inWord : dpa % 64 + bs.length ≤ 64) :
        hdmWrite dpa bs s = s.hostWriteDpa dpa bs := (reaches.write nonempty inWord).trans (State.hostAccess_writes run awake bs)
    refine ⟨fun unbacked => ?_, fun backed good => ⟨fun held => ?_, fun new room => ?_, fun new full => ?_⟩,
      fun bs nonempty inWord unmapped => ?_, fun bs nonempty inWord backed dropped => ?_,
      fun bs t backed nonempty inWord kept frame => ⟨fun part => ?_, fun whole => ?_⟩⟩
    · exact congrArg Host.Outcome.next (reads.trans (State.hostReadDpa_unbacked unbacked))
    · exact congrArg Host.Outcome.next
        (reads.trans ((State.hostReadDpa_held backed held).trans (State.hdmWord_clean ⟨good, armed⟩)))
    · exact congrArg Host.Outcome.next
        (reads.trans ((State.hostReadDpa_records backed new room).trans (State.hdmWord_clean ⟨good, armed⟩)))
    · exact congrArg Host.Outcome.next (reads.trans (State.hostReadDpa_full backed new full))
    · exact congrArg Host.Outcome.next ((writes nonempty inWord).trans (State.hostWriteDpa_unmapped unmapped))
    · exact congrArg Host.Outcome.next ((writes nonempty inWord).trans (State.hostWriteDpa_dropped backed dropped bs))
    · have done := (writes nonempty inWord).trans (State.hostWriteDpa_writes backed kept frame bs)
      rw [if_neg part] at done
      exact congrArg Host.Outcome.next done
    · have done := (writes nonempty inWord).trans (State.hostWriteDpa_writes backed kept frame bs)
      rw [if_pos whole] at done
      exact congrArg Host.Outcome.next done

end Sys2Proof.Machine
end

section
/-! SUPPORT. Proofs/WholeMachine.lean: the step of the machine, the passing of time on an empty queue, the reset state, and the
invariant (R34, R94, R368 to R370, R374, R471, R516). -/

namespace Sys2Proof.Machine

/-! ### Lists -/

/-- Where every element is changed with its index, the element at an index is its own image. -/
theorem nth_map_zipIdx {α β : Type} [Inhabited α] [Inhabited β] (f : α × Nat → β) {l : List α} {i : Nat} (inside : i < l.length) :
    nth (l.zipIdx.map f) i = f (nth l i, i) := by
  simp [nth, List.getD_eq_getElem?_getD, inside]

theorem nth_replicate {α : Type} [Inhabited α] (a : α) {n i : Nat} (inside : i < n) : nth (List.replicate n a) i = a := by
  simp [nth, List.getD_eq_getElem?_getD, inside]

/-! ### The step (log 1) -/

section
variable {s : State}

theorem step_front {c : Instr} {rest : List Instr} (front : s.pending = c :: rest) :
    step s = exec c { s with pending := rest } := by
  simp only [step, front]

theorem step_empty (empty : s.pending = []) : step s = .next (idleTick s) := by
  simp only [step, empty]

/-! ### 20 µs on an empty queue (R34, R94) -/

/-- An oscillator is within 5 % (R34). -/
theorem advance_within (d i : Nat) : 19 ≤ advance d i ∧ advance d i ≤ 21 := by
  unfold advance
  omega

theorem runTimers_getD (d : Nat) {l : List Nat} {i : Nat} (inside : i < l.length) :
    (runTimers d l).getD i 0 = l.getD i 0 + advance d i :=
  nth_map_zipIdx (fun x : Nat × Nat => x.1 + advance d x.2) inside

/-- A slab of an idle module goes on by a tick of its own. -/
theorem slab_idleTick (s : State) {k : Nat} (there : k < s.slabs.length) :
    (idleTick s).slab k = (s.slab k).tick (s.free + 16 * (k + 1)) :=
  nth_map_zipIdx (fun b : Slab × Nat => b.1.tick (s.free + 16 * (b.2 + 1))) there

end

/-- Settles O53: a step is one of its two cases, and on an empty queue each timer, ramp and table is that of the tick. -/
theorem stepRunsTheFrontCommand : Obligations.StepRunsTheFrontCommand := by
  unfold Obligations.StepRunsTheFrontCommand
  refine fun s => ⟨fun c rest front => step_front front, fun empty => ⟨idleTick s, step_empty empty, empty, rfl,
    fun i inside => ?_, fun k there => ⟨_, slab_idleTick s there, fun busy => ?_, fun idle => ?_⟩,
    rfl, rfl, rfl, rfl, rfl, rfl, rfl, rfl, rfl⟩⟩
  · have runs : (idleTick s).hub.timers.getD i 0 = s.hub.timers.getD i 0 + advance s.free i := runTimers_getD s.free inside
    have within := advance_within s.free i
    omega
  · rw [slab_idleTick s there]
    exact if_pos busy
  · rw [slab_idleTick s there]
    exact if_neg (Bool.eq_false_iff.mp idle)

/-! ### The reset state (R368 to R370, R471, R516) -/

theorem State.fn_reset {fn : Nat} (there : fn < 16) : State.reset.fn fn = Fn.reset := nth_replicate Fn.reset there

theorem State.ring_reset {r : Nat} (there : r < 17) : State.reset.ring r = Ring.reset := nth_replicate Ring.reset there

theorem State.part_reset {p : Nat} (there : p < 16) : State.reset.part p = Part.absent := nth_replicate Part.absent there

/-- Settles O54: each field at reset, and each function, ring and partition by that of its table. -/
theorem resetState : Obligations.ResetState := by
  unfold Obligations.ResetState
  refine ⟨rfl, rfl, rfl, rfl, rfl, rfl, rfl, rfl, fun fn there => ?_, fun r there => ?_, fun p there => ?_⟩
  · rw [State.fn_reset there]
    exact ⟨rfl, rfl, rfl, rfl, rfl, rfl⟩
  · rw [State.ring_reset there]
    exact ⟨rfl, rfl, rfl⟩
  · rw [State.part_reset there]
    rfl

/-! ### The invariant (R374, R471) -/

/-- Settles O55: every table is made with its size, and host memory is empty. -/
theorem resetMeetsTheInvariant : Obligations.ResetMeetsTheInvariant where
  fns := rfl
  parts := rfl
  slabs := rfl
  rings := rfl
  cores := rfl
  domains := rfl
  host := rfl

/-- The invariant says nothing of the queue. -/
theorem State.Inv.withPending {s : State} (inv : s.Inv) (l : List Instr) : State.Inv { s with pending := l } := by
  obtain ⟨fns, parts, slabs, rings, cores, domains, host⟩ := inv
  exact ⟨fns, parts, slabs, rings, cores, domains, host⟩

/-- Settles O56: on an empty queue the tick is calm, and every row keeps the invariant on the state with the queue's rest. -/
theorem everyStepKeepsTheInvariant : Obligations.EveryStepKeepsTheInvariant := by
  unfold Obligations.EveryStepKeepsTheInvariant
  intro s t inv steps
  cases queue : s.pending with
  | nil =>
    have keep : Keep s t := (idleTick_calm (.refl s)).toKeep.ofNext ((step_empty queue).symm.trans steps)
    exact keep.inv inv
  | cons c rest =>
    have keep : Keep { s with pending := rest } t := exec_keep ((step_front queue).symm.trans steps)
    exact keep.inv (inv.withPending rest)

end Sys2Proof.Machine
end

section
/-! SUPPORT. Proofs/ServiceAndHeads.lean: STATUS_GET, SERVICE_ENTER and REST_ENTER, and the writes of the HEAD registers (R373,
R394, R473, R478, R500, R526). -/

namespace Sys2Proof.Machine

section
variable {s : State} {f : Flight}

/-! ### The status block, service mode and Rest (R394, R500, R526) -/

/-- STATUS_GET with a buffer for the block answers it (R394). -/
theorem State.statusGet_answers (buf : bufOk (f.arg 0 8) (f.arg 8 4) = true) (room : 64 ≤ f.arg 8 4) :
    s.statusGet f = s.okCmd f 0
      [{ addr := f.arg 0 8, len := f.arg 8 4, bytes := s.statusBlock f.fn, index := 1, epoch := true }] := by
  simp [State.statusGet, buf, Nat.not_lt.mpr room]

/-- Acceptance puts the command itself in flight, so that what else is in flight stays what was in flight (R376, R500). -/
theorem State.accepting_others (s : State) (c : Cmd) (fn k : Nat) :
    ((s.accepting c fn k).flights.any fun g => g.seq != (s.sealed c fn k).seq) = s.flights.any fun g => g.seq != s.hub.seq := by
  simp

end

/-- Settles O3: each ready command performs at its seal, and REST_ENTER by what else is in flight. -/
theorem statusServiceAndRestCommands : Obligations.StatusServiceAndRestCommands := by
  unfold Obligations.StatusServiceAndRestCommands
  intro fn k s
  refine ⟨fun ready => ?_, fun ready => exec_ready ready rfl, fun ready => ⟨fun alone => ?_, fun others => ?_⟩⟩
  · intro a f buf room
    exact exec_ready ready (State.statusGet_answers (s := a) (f := f) buf room)
  · exact exec_ready ready (if_neg (Bool.eq_false_iff.mp ((s.accepting_others .restEnter fn k).trans alone)))
  · exact exec_ready ready (if_pos ((s.accepting_others .restEnter fn k).trans others))

/-! ### HEAD registers (R373, R473, R478) -/

/-- A HEAD that a write may move: forward within what is there, modulo 2^17 (R373). -/
def HeadFits (head tail v : Nat) : Prop := (v % 2 ^ 17 + 2 ^ 17 - head) % 2 ^ 17 ≤ (tail + 2 ^ 17 - head) % 2 ^ 17

theorem headAfter_fits {head tail v : Nat} (fits : HeadFits head tail v) : headAfter head tail v = v % 2 ^ 17 := if_pos fits

theorem headAfter_ignored {head tail v : Nat} (beyond : ¬ HeadFits head tail v) : headAfter head tail v = head := if_neg beyond

section
variable {s : State}

/-- Two changes of a function that agree on it as it is are one. -/
theorem State.modFn_congr {fn : Nat} {g h : Fn → Fn} (agree : g (s.fn fn) = h (s.fn fn)) : s.modFn fn g = s.modFn fn h :=
  congrArg s.setFns (modAt_congr agree)

theorem State.modFn_eq_self {fn : Nat} {g : Fn → Fn} (keeps : g (s.fn fn) = s.fn fn) : s.modFn fn g = s :=
  congrArg s.setFns (modAt_eq_self keeps)

theorem State.modRing_congr {r : Nat} {g h : Ring → Ring} (agree : g (s.ring r) = h (s.ring r)) : s.modRing r g = s.modRing r h :=
  congrArg (fun l => s.setTalus { s.talus with rings := l }) (modAt_congr agree)

theorem State.modRing_eq_self {r : Nat} {g : Ring → Ring} (keeps : g (s.ring r) = s.ring r) : s.modRing r g = s :=
  congrArg (fun l => s.setTalus { s.talus with rings := l }) (modAt_eq_self keeps)

/-- MBX_CQ_HEAD after a write that the function may make. -/
theorem mbxCqHeadWrite_open {fn : Nat} (isOpen : s.barOpen fn = true) (v : Word) :
    mbxCqHeadWrite fn v s = s.modFn fn fun g => { g with head := headAfter g.head g.tail v.toNat } := by
  simp [mbxCqHeadWrite, isOpen]

/-- The ring that a write of TAL_HEAD names (R473). -/
def headRing (fn : Nat) (ofModule : Bool) : Nat := if ofModule then 16 else fn

/-- Drop records that have room now are written, unless the module is stopped (R478). -/
def State.reportDrops (s : State) (r : Nat) : State := if s.hub.stop = none then s.flushDrops r else s

/-- TAL_HEAD after a write that the function may make: its own, or the module ring's by the physical function (R473). -/
theorem talHeadWrite_open {fn : Nat} (isOpen : s.barOpen fn = true) {m : Bool} (own : m = false ∨ fn = 0) (v : Word) :
    talHeadWrite fn m v s =
      (s.modRing (headRing fn m) fun g => { g with head := headAfter g.head g.tail v.toNat }).reportDrops (headRing fn m) := by
  have mayWrite : (!s.barOpen fn || (m && fn != 0)) = false := by
    rcases own with rfl | rfl <;> simp [isOpen]
  simp only [talHeadWrite, mayWrite, Bool.false_eq_true, if_false]
  cases stop : s.hub.stop <;> simp [State.reportDrops, headRing, stop]

end

/-- Settles O18: a HEAD that the write may move is moved, and any other stays. -/
theorem headWritesMoveForward : Obligations.HeadWritesMoveForward := by
  unfold Obligations.HeadWritesMoveForward
  intro fn v s isOpen h fits
  refine ⟨fun moves => ?_, fun beyond => ?_, fun m own => ⟨fun moves => ?_, fun beyond => ?_⟩⟩
  · refine congrArg Host.Outcome.next ((mbxCqHeadWrite_open isOpen v).trans (State.modFn_congr ?_))
    rw [headAfter_fits moves]
  · refine congrArg Host.Outcome.next ((mbxCqHeadWrite_open isOpen v).trans (State.modFn_eq_self ?_))
    rw [headAfter_ignored beyond]
  · refine congrArg Host.Outcome.next ((talHeadWrite_open isOpen own v).trans ?_)
    refine congrArg (State.reportDrops · _) (State.modRing_congr ?_)
    exact congrArg (fun n => { s.ring (headRing fn m) with head := n }) (headAfter_fits moves)
  · refine congrArg Host.Outcome.next ((talHeadWrite_open isOpen own v).trans ?_)
    refine congrArg (State.reportDrops · _) (State.modRing_eq_self ?_)
    exact congrArg (fun n => { s.ring (headRing fn m) with head := n }) (headAfter_ignored beyond)

end Sys2Proof.Machine
end

section
/-! SUPPORT. Proofs/ContextsAndSwitches.lean: the commands that make, destroy, save and restore contexts, and the ends of
switches and teardowns (R405 to R417). -/

namespace Sys2Proof.Machine

section
variable {s : State} {f : Flight} {p n : Nat} {c : Ctx}

/-! ### Contexts found -/

theorem State.ctx?_num (found : s.ctx? p n = some c) : c.num = n := by
  have named := List.find?_some found
  simpa using named

/-- A context that a command may name is there (R391). -/
theorem State.needCtx_found (named : s.needCtx p n = .ok c) : s.ctx? p n = some c := by
  unfold State.needCtx at named
  cases found : s.ctx? p n with
  | none => simp [found] at named
  | some d =>
    simp only [found] at named
    split at named
    · cases named
    · exact congrArg some (Except.ok.inj named)

/-- ... under its own number. -/
theorem State.needCtx_own (named : s.needCtx p n = .ok c) : s.ctx? p c.num = some c := by
  have found := State.needCtx_found named
  rw [State.ctx?_num found]
  exact found

/-- An idle context is not Out (R406). -/
theorem State.idle_not_out {self : Nat} (idle : s.idle p c self = true) : c.st ≠ .out := by
  intro out
  simp [State.idle, out] at idle

/-! ### CTX_CREATE and CTX_DESTROY (R405, R408, R409, R417) -/

/-- The arguments of a CTX_CREATE are in range (R405). -/
structure State.CreateInRange (s : State) (f : Flight) : Prop where
  spans : f.arg 0 1 ≠ 0
  own : (maskList (f.arg 0 1) 8).all (fun k => bitOf (s.part f.fn).q.mask k) = true
  grant : f.arg 1 1 ∈ [2, 4, 8]
  slots : f.arg 1 1 ≤ (s.part f.fn).q.slots
  share : 1 ≤ f.arg 2 2
  spad : f.arg 2 2 ≤ (s.part f.fn).q.spad

/-- The state in which a CTX_CREATE has chosen its victims: they are going out (R409). -/
def State.victimsOut (s : State) (p : Nat) (vs : List Nat) : State := (s.setFree (s.free + 256)).sendOut p vs

/-- A new context without a program: resident, and coming in where it has victims (R405, R408, R409). -/
def Ctx.created (q : Part) (f : Flight) (num : Nat) (vs : List Nat) : Ctx :=
  { num := num, slabs := maskList (f.arg 0 1) 8, slots := f.arg 1 1, spad := f.arg 2 2, st := .resident
    switching := if vs = [] then .none else .comingIn
    lastUse := f.seq, prog := none
    data := (maskList (f.arg 0 1) 8).map fun k => CtxSlab.fresh k ((q.findPos k (f.arg 1 1) vs).getD 0) (f.arg 1 1)
    groups := [], cairn := 0, imgWord := 0, imgHash := [] }

/-- The state with a context more in a partition. -/
def State.addCtx (s : State) (p : Nat) (c : Ctx) : State := s.modPart p fun q => { q with ctxs := q.ctxs ++ [c] }

/-- A partition with a context more, which has its victims go out (R409). -/
theorem State.ctxs_withCreated (there : p < s.parts.length) (vs : List Nat) (c : Ctx) :
    (((s.victimsOut p vs).addCtx p c).part p).ctxs =
      (modWhere (s.part p).ctxs (fun x => vs.contains x.num) fun x => { x with switching := .goingOut }) ++ [c] := by
  have there' : p < (s.victimsOut p vs).parts.length := by simpa [State.victimsOut, State.sendOut] using there
  rw [State.addCtx, State.part_modPart_self _ there', State.victimsOut, State.sendOut,
    State.part_modPart_self (s.setFree (s.free + 256)) there]
  rfl

theorem State.part_withCreated (vs : List Nat) (c : Ctx) (j : Nat) (other : j ≠ p) :
    ((s.victimsOut p vs).addCtx p c).part j = s.part j :=
  (State.part_modPart_of_ne _ other.symm _).trans (State.part_modPart_of_ne _ other.symm _)

/-- CTX_CREATE in range, with a free number, victims and room for their images, makes its context; it waits for its victims
where it has any (R405, R408, R409). -/
theorem ctxCreate_makes {num : Nat} {vs : List Nat} (inRange : s.CreateInRange f)
    (free : (List.range 256).find? (fun n => !(s.part f.fn).ctxs.any fun c => c.num == n) = some num)
    (victims : s.victims f.fn (f.arg 1 1) (f.arg 2 2) (maskList (f.arg 0 1) 8) = some vs) (fit : s.imagesFit f.fn vs = true) :
    ctxCreate s f =
      let r := s.victimsOut f.fn vs
      let t := r.addCtx f.fn (Ctx.created (r.part f.fn) f num vs)
      if vs = [] then t.okCmd f num else (t.modFlight f.seq fun x => { x with value := num }).busyCmd f vs := by
  obtain ⟨spans, own, grant, slots, share, spad⟩ := inRange
  have passes : (decide (f.arg 0 1 = 0) || (maskList (f.arg 0 1) 8).any (fun k => !bitOf (s.part f.fn).q.mask k) ||
      !([2, 4, 8].contains (f.arg 1 1)) || decide ((s.part f.fn).q.slots < f.arg 1 1) || decide (f.arg 2 2 = 0) ||
      decide ((s.part f.fn).q.spad < f.arg 2 2)) = false := by
    have noneOut : (maskList (f.arg 0 1) 8).any (fun k => !bitOf (s.part f.fn).q.mask k) = false := by
      rw [← List.not_all_eq_any_not, own]
      rfl
    simp only [spans, noneOut, List.contains_iff_mem.mpr grant, Nat.not_lt.mpr slots, Nat.ne_of_gt share, Nat.not_lt.mpr spad]
    rfl
  simp only [ctxCreate, passes, free, victims, fit, Bool.false_eq_true, Bool.not_true, if_false]
  rfl

/-- CTX_DESTROY of a context without passages removes it, and ends the commands that wait for its switches (R417, log 51). -/
theorem ctxDestroy_removes (named : s.needCtx f.fn (f.arg 0 2) = .ok c) (quiet : s.passaging f.fn c.num f.seq = false) :
    ctxDestroy s f = (((s.teardown f.fn c.num).orphan f.fn c.num f.seq).modPart f.fn fun q =>
      { q with ctxs := q.ctxs.filter fun x => x.num != c.num }).okCmd f := by
  simp only [ctxDestroy, named, quiet, Bool.false_eq_true, if_false]

/-! ### CTX_SAVE (R413) -/

/-- A save of an Out context whose image is not copied out, or can be read, gives the handle of the image (R289, R413). -/
theorem State.saveDone_inPlace (noCopy : f.arg 8 8 = 0) (num : Nat) : s.saveDone f num = s.saveImage f num := if_pos noCopy

theorem State.saveDone_copies {a : State} (found : s.ctx? f.fn n = some c) (good : s.cairnRead f.fn c = (a, none))
    (copies : f.arg 8 8 ≠ 0) : s.saveDone f n = a.saveImage f n := by
  simp only [State.saveDone, copies, found, good, if_false]

theorem ctxSave_out (aligned : f.arg 8 8 % 64 = 0) (named : s.needCtx f.fn (f.arg 0 2) = .ok c) (out : c.st = .out)
    (still : c.switching = .none) : ctxSave s f = s.saveDone f c.num := by
  simp [ctxSave, aligned, named, out, still]

/-- A save of an idle resident context waits for its switch out (R413). -/
theorem ctxSave_idle (aligned : f.arg 8 8 % 64 = 0) (named : s.needCtx f.fn (f.arg 0 2) = .ok c)
    (idle : s.idle f.fn c f.seq = true) (fit : s.imagesFit f.fn [c.num] = true) :
    ctxSave s f = (s.sendOut f.fn [c.num]).busyCmd f [c.num] := by
  simp [ctxSave, aligned, named, State.idle_not_out idle, idle, fit]

/-! ### CTX_RESTORE (R414) -/

/-- A context that CTX_RESTORE may restore into: idle, or Out with no switch (R406, R414). -/
def State.restorable (s : State) (p : Nat) (c : Ctx) (self : Nat) : Prop :=
  s.idle p c self = true ∨ (c.st = .out ∧ c.switching = .none)

theorem State.restorable_test (can : s.restorable p c n) :
    (!(s.idle p c n || (decide (c.st = .out) && decide (c.switching = .none)))) = false := by
  rcases can with idle | ⟨out, still⟩ <;> simp [*]

theorem State.restoreInto_resident (inside : c.st ≠ .out) (secs : List (Mem × List AccSlot)) :
    s.restoreInto f c secs = (s.loadImage f.fn c.num secs).okCmd f := if_neg inside

/-- A restore into an Out context switches it in, and waits for that (R414). -/
theorem State.restoreInto_out {a : State} (out : c.st = .out) (switch : s.switchFor f.fn f.seq c = some a)
    (secs : List (Mem × List AccSlot)) : s.restoreInto f c secs = (a.loadImage f.fn c.num secs).busyCmd f [c.num] := by
  simp only [State.restoreInto, out, switch, if_true]

/-- A host copy that passes R414 goes into the context (R414). -/
theorem ctxRestore_hostCopy {a : State} {b : CairnBody} (host : bitOf (f.arg 8 8) 63 = true)
    (aligned : fld (f.arg 8 8) 62 0 % 64 = 0) (named : s.needCtx f.fn (f.arg 0 2) = .ok c)
    (can : s.restorable f.fn c f.seq) (read : s.hostCairn f c (fld (f.arg 8 8) 62 0) = (a, .ok b))
    (fits : a.cairnMatches c b.word b.hash = true) : ctxRestore s f = a.restoreInto f c b.secs := by
  simp only [ctxRestore, host, aligned, named, State.restorable_test can, read, fits, ne_eq, not_true_eq_false, decide_false,
    Bool.and_false, Bool.not_true, Bool.false_and, Bool.false_eq_true, if_false, if_true]

/-- The Out context of the partition whose image a handle names (R413). -/
def Part.imageOf? (q : Part) (v : Nat) : Option Ctx := q.ctxs.find? fun x => x.cairn == v && v != 0 && decide (x.st = .out)

/-- The contents of a context on each slab, as an image holds them (R412). -/
def Ctx.contents (c : Ctx) : List (Mem × List AccSlot) := c.data.map fun d => (d.share, d.slots)

/-- An image in HBM that passes R414 goes into the context that it is of, or into another (R414). -/
theorem ctxRestore_image {a : State} {x : Ctx} (image : bitOf (f.arg 8 8) 63 = false)
    (named : s.needCtx f.fn (f.arg 0 2) = .ok c) (can : s.restorable f.fn c f.seq)
    (source : (s.part f.fn).imageOf? (f.arg 8 8) = some x) (fits : s.cairnMatches c x.imgWord x.imgHash = true)
    (room : c.st = .out → (s.switchFor f.fn f.seq c).isSome = true) (good : s.cairnRead f.fn x = (a, none)) :
    ctxRestore s f = if x.num = c.num then a.restoreInto f c x.contents else a.restoreOther f c x x.contents := by
  have enters : (decide (c.st = .out) && (s.switchFor f.fn f.seq c).isNone) = false := by
    by_cases out : c.st = .out
    · simpa [out, ← Option.isSome_iff_ne_none] using room out
    · simp [out]
  rw [Part.imageOf?] at source
  simp only [ctxRestore, image, named, State.restorable_test can, source, fits, enters, good, Bool.false_and,
    Bool.not_true, Bool.not_false, Bool.true_and, Option.isNone_some, Bool.false_eq_true, if_false]
  rfl

/-- A restore from the image of another Out context switches in the context that is Out, and the other, which is left blank
(R414, log 51). -/
theorem State.restoreOther_loads {a b : State} {x : Ctx} {secs : List (Mem × List AccSlot)}
    (switch : (if c.st = .out then s.switchFor f.fn f.seq c else some s) = some a)
    (other : ((a.ctx? f.fn x.num).bind fun y => a.switchFor f.fn f.seq y) = some b) :
    s.restoreOther f c x secs =
      ((((b.modCtx f.fn x.num Ctx.blank).dropBad fun u => placeOfCtx u f.fn x.num).loadImage f.fn c.num secs)).busyCmd f
        (if c.st = .out then [c.num, x.num] else [x.num]) := by
  simp only [State.restoreOther, switch, other]

end

/-- Settles O5: each ready command performs at its seal, and each effect is that of its command. -/
theorem contextCommands : Obligations.ContextCommands := by
  unfold Obligations.ContextCommands
  intro fn k s
  refine ⟨fun ready => ?_, fun ready => ?_, fun ready => ?_, fun ready => ?_⟩
  · intro a f p slabs there spans own grant slots share spad num vs free victims fit
    have makes := ctxCreate_makes (s := a) (f := f) ⟨spans, own, grant, slots, share, spad⟩ free victims fit
    let r := a.victimsOut fn vs
    let c := Ctx.created (r.part fn) f num vs
    have made : ((r.addCtx fn c).part fn).ctxs =
        (modWhere p.ctxs (fun x => vs.contains x.num) fun x => { x with switching := .goingOut }) ++ [c] :=
      State.ctxs_withCreated (s := a) there vs c
    have others : ∀ j, j ≠ fn → (r.addCtx fn c).part j = s.part j := State.part_withCreated (s := a) vs c
    by_cases room : vs = []
    · refine ⟨(r.addCtx fn c).okCmd f num, c, exec_ready ready (makes.trans (if_pos room)), made, rfl, rfl,
        rfl, rfl, rfl, rfl, rfl, rfl, ?_, rfl, rfl, others⟩
      rw [if_pos room]
      rfl
    · refine ⟨((r.addCtx fn c).modFlight f.seq fun x => { x with value := num }).busyCmd f vs, c,
        exec_ready ready (makes.trans (if_neg room)), made, rfl, rfl, rfl, rfl, rfl, rfl, rfl, rfl, ?_, rfl,
        rfl, others⟩
      rw [if_neg room]
      rfl
  · intro a f c named quiet
    exact exec_ready ready (ctxDestroy_removes (s := a) (f := f) named quiet)
  · intro a f aligned c named
    refine ⟨fun out still => ⟨fun noCopy => ?_, fun b good copies => ?_⟩, fun idle fit => ?_⟩
    · exact exec_ready ready ((ctxSave_out (s := a) (f := f) aligned named out still).trans (State.saveDone_inPlace noCopy c.num))
    · exact exec_ready ready ((ctxSave_out (s := a) (f := f) aligned named out still).trans
        (State.saveDone_copies (State.needCtx_own named) good copies))
    · exact exec_ready ready (ctxSave_idle (s := a) (f := f) aligned named idle fit)
  · intro a f c named can
    have can : a.restorable f.fn c f.seq := can
    refine ⟨fun host aligned b body read fits => ?_, fun image handle x b source fits room good => ?_⟩
    · have restores := ctxRestore_hostCopy (s := a) (f := f) host aligned named can read fits
      exact ⟨fun inside => exec_ready ready (restores.trans (State.restoreInto_resident (f := f) inside _)),
        fun out t switch => exec_ready ready (restores.trans (State.restoreInto_out (f := f) out switch _))⟩
    · intro secs a2 switch
      have restores := ctxRestore_image (s := a) (f := f) image named can source fits room good
      refine ⟨fun own => exec_ready ready ((restores.trans (if_pos own)).trans ?_), fun foreign t other =>
        exec_ready ready ((restores.trans (if_neg foreign)).trans (State.restoreOther_loads (f := f) switch other))⟩
      by_cases out : c.st = .out
      · rw [if_pos out] at switch ⊢
        exact State.restoreInto_out (f := f) out switch _
      · rw [if_neg out] at switch ⊢
        cases switch
        exact State.restoreInto_resident (f := f) out _

section
variable {s : State} {p n : Nat} {c : Ctx}

/-! ### The ends of switches and teardowns (R410, R411, R413, R414, R416) -/

/-- The CTX_SAVE that waits for a context to go out (R413). -/
def State.waitingSave? (s : State) (p n : Nat) : Option Flight :=
  s.flights.find? fun f => f.fn == p && decide (f.cmd = .ctxSave) && decide (f.phase = .busy) && f.waits == [n]

/-- A CTX_RESTORE waits for a context to come in (R414). -/
def State.restoreWaits (s : State) (p n : Nat) : Bool :=
  s.flights.any fun f => f.fn == p && decide (f.cmd = .ctxRestore) && decide (f.phase = .busy) && f.waits.contains n

theorem State.waitingSave?_none (noSave : ∀ f ∈ s.flights, f.cmd ≠ .ctxSave) : s.waitingSave? p n = none :=
  List.find?_eq_none.mpr fun f flies => by simp [noSave f flies]

theorem State.restoreWaits_false (noRestore : ∀ f ∈ s.flights, f.cmd ≠ .ctxRestore) : s.restoreWaits p n = false :=
  List.any_eq_false.mpr fun f flies => by simp [noRestore f flies]

/-- The state with a context gone Out: its image stands in HBM under fresh code words (R410, R411). -/
def State.wentOut (s : State) (p n : Nat) : State := (s.modCtx p n Ctx.goneOut).dropBad fun x => placeOfCtx x p n

/-- The end of a switch out of a context that can be read; a save that waits for it is done (R410, R413). -/
theorem ctxSwitchOutEnd_leaves {t : State} (found : s.ctx? p n = some c) (run : s.running = true) (leaving : c.leaving = true)
    (good : s.switchRead p c = (t, none)) :
    ctxSwitchOutEnd p n s =
      match t.waitingSave? p n with
      | some f => (t.wentOut p n).saveDone f n
      | none => t.wentOut p n := by
  simp only [ctxSwitchOutEnd, found, run, leaving, good, Bool.and_self, Bool.not_true, Bool.false_eq_true, if_false]
  rfl

theorem ctxSwitchOutEnd_ignored (found : s.ctx? p n = some c) (stays : c.leaving = false) : ctxSwitchOutEnd p n s = s := by
  simp [ctxSwitchOutEnd, found, stays]

/-- The state with a context back in, and the handle of its image released (R411, R413). -/
def State.cameIn (s : State) (p n : Nat) : State :=
  s.modCtx p n fun x => { x with st := .resident, switching := .none, cairn := 0, imgWord := 0, imgHash := [] }

/-- The victims of a context that comes in are out: no context that is going out shares a slab with it (R409). -/
def State.roomMade (s : State) (p : Nat) (c : Ctx) : Prop :=
  ∀ x ∈ (s.part p).ctxs, x.leaving = true → ∀ k ∈ x.slabs, k ∉ c.slabs

/-- The end of a switch in, once the victims are out (R408, R411): a restore that waits has one context less to wait for, and
else the image is read. -/
theorem ctxSwitchInEnd_enters (found : s.ctx? p n = some c) (run : s.running = true) (coming : c.switching = .comingIn)
    (out : c.st = .out) (clear : s.roomMade p c) :
    (s.restoreWaits p n = true → ctxSwitchInEnd p n s = (s.cameIn p n).restoreArrived p n) ∧
    (s.restoreWaits p n = false → ∀ u, (s.cameIn p n).cairnRead p c = (u, none) →
      ctxSwitchInEnd p n s = u.dropBad fun x => placeOfCtx x p n) := by
  have noneLeaves : ((s.part p).ctxs.any fun x => x.leaving && x.slabs.any fun k => c.slabs.contains k) = false := by
    simpa [State.roomMade] using clear
  refine ⟨fun waits => ?_, fun alone u good => ?_⟩
  · rw [State.restoreWaits] at waits
    simp only [ctxSwitchInEnd, found, run, coming, out, noneLeaves, waits, decide_true, Bool.and_self, Bool.not_false,
      Bool.not_true, Bool.false_eq_true, if_false, if_true]
    rfl
  · rw [State.restoreWaits] at alone
    rw [State.cameIn] at good
    simp only [ctxSwitchInEnd, found, run, coming, out, noneLeaves, alone, good, decide_true, Bool.and_self, Bool.not_false,
      Bool.not_true, Bool.false_eq_true, if_false]

theorem ctxSwitchInEnd_ignored (found : s.ctx? p n = some c) (stays : c.switching ≠ .comingIn) : ctxSwitchInEnd p n s = s := by
  simp [ctxSwitchInEnd, found, stays]

theorem ctxTeardownEnd_faulted (found : s.ctx? p n = some c) (run : s.running = true) (faulted : c.st = .faulted) :
    ctxTeardownEnd p n s = s.teardown p n := by
  simp [ctxTeardownEnd, found, run, faulted]

theorem ctxTeardownEnd_ignored (found : s.ctx? p n = some c) (sound : c.st ≠ .faulted) : ctxTeardownEnd p n s = s := by
  simp [ctxTeardownEnd, found, sound]

end

/-- Settles O6: each of the three rows by its own lemma. -/
theorem contextSwitchAndTeardownEnds : Obligations.ContextSwitchAndTeardownEnds := by
  unfold Obligations.ContextSwitchAndTeardownEnds
  intro p n s c found run
  refine ⟨fun leaving t good => ?_, fun coming out clear => ?_, fun faulted => ?_, fun stays => ?_, fun stays => ?_,
    fun sound => ?_⟩
  · have leaves := ctxSwitchOutEnd_leaves found run leaving good
    refine ⟨fun noSave => congrArg Host.Outcome.next (leaves.trans ?_), fun f waits noCopy => congrArg Host.Outcome.next
      (leaves.trans ?_)⟩
    · rw [State.waitingSave?_none noSave]
      rfl
    · rw [show t.waitingSave? p n = some f from waits]
      exact State.saveDone_inPlace noCopy n
  · obtain ⟨arrives, reads⟩ := ctxSwitchInEnd_enters found run coming out clear
    exact ⟨fun noRestore u good => congrArg Host.Outcome.next (reads (State.restoreWaits_false noRestore) u good),
      fun waits => congrArg Host.Outcome.next (arrives waits)⟩
  · exact congrArg Host.Outcome.next (ctxTeardownEnd_faulted found run faulted)
  · exact congrArg Host.Outcome.next (ctxSwitchOutEnd_ignored found stays)
  · exact congrArg Host.Outcome.next (ctxSwitchInEnd_ignored found stays)
  · exact congrArg Host.Outcome.next (ctxTeardownEnd_ignored found sound)

end Sys2Proof.Machine
end

section
/-! SUPPORT. Proofs/CodecSessions.lean: the commands of the video codec (R418 to R421, R424, R433, R434, R436, R437, R439). -/

namespace Sys2Proof.Machine

section
variable {s : State} {f : Flight}

/-! ### CODEC_OPEN and CODEC_CLOSE (R418 to R421) -/

/-- The checks of a CODEC_OPEN all pass: `a` is the state after its parameter block `p` was read (R418, R420, R424, R437). -/
structure State.OpenChecked (s a : State) (f : Flight) (p : List Byte) : Prop where
  kind : f.arg 0 1 ≤ 2
  size : f.arg 16 4 = 64
  read : s.hostIn f f.cmd.code 1 (f.arg 8 8) 64 = (a, .ok p)
  ranges : (if f.arg 0 1 = 0 then encParamOk p else decParamOk p) = true
  cores : a.coresHeld f.fn (f.arg 0 1 == 0) + codecCores (f.arg 0 1) p ≤
    if f.arg 0 1 = 0 then (a.part f.fn).q.enc else (a.part f.fn).q.dec
  frames : codecFrames (f.arg 0 1) p ≤ a.framesFree f.fn (codecHome (f.arg 0 1) p)
  flat : 8 + (a.part f.fn).declaredOn (codecHome (f.arg 0 1) p) ≤
    (a.part f.fn).quotaOn (codecHome (f.arg 0 1) p) Quota.hbm - a.codecReserve f.fn (codecHome (f.arg 0 1) p)

/-- A codec session as it is opened: nothing filled, nothing decoded (R418, R420). -/
def CodecSession.opened (part kind handle : Nat) (p : List Byte) (cores : List Nat) : CodecSession :=
  { handle := handle, part := part, kind := kind, param := p, cores := cores, home := codecHome kind p,
    filling := [], committed := [], marks := List.replicate 9 0, history := [], running := false, output := [],
    capped := [], done := 0, input := [], consumed := 0, index := 0, damaged := [],
    slots := List.replicate 16 none, waiting := [], ready := [], good := none }

/-- The state with a codec session more, under the next handle, bound to free cores (R418, R420, log 16). -/
def State.openSession (s : State) (part kind : Nat) (p : List Byte) : State :=
  let cores := (s.freeCores (kind == 0)).take (codecCores kind p)
  ((s.setFree (s.free + 8)).setNextHandle (s.nextHandle + 1)).setCodec
    { cores := s.codec.cores.zipIdx.map fun x =>
        if cores.contains x.2 then { x.1 with holder := s.nextHandle, part := part, running := false } else x.1,
      sessions := s.codec.sessions ++ [CodecSession.opened part kind s.nextHandle p cores] }

theorem codecOpen_opens {a : State} {p : List Byte} (checked : s.OpenChecked a f p) :
    codecOpen s f = (a.openSession f.fn (f.arg 0 1) p).okCmd f a.nextHandle := by
  obtain ⟨kind, size, read, ranges, cores, frames, flat⟩ := checked
  simp only [codecOpen, size, read, ranges, Nat.not_lt.mpr kind, Nat.not_lt.mpr cores, Nat.not_lt.mpr frames,
    Nat.not_lt.mpr flat, ne_eq, not_true_eq_false, Bool.not_true, Bool.false_eq_true, if_false]
  rfl

/-- CODEC_CLOSE of an own session that no command uses frees its cores and removes it (R421). -/
theorem codecClose_closes {c : CodecSession} (own : s.ownSession f.fn (f.arg 0 4) = some c)
    (unused : s.codecInFlight f.fn c.handle = false) :
    codecClose s f = (s.setCodec
      { cores := s.codec.cores.zipIdx.map fun x =>
          if c.cores.contains x.2 then { x.1 with holder := 0, part := 0, running := false } else x.1,
        sessions := s.codec.sessions.filter fun x => x.handle != c.handle }).okCmd f := by
  simp only [codecClose, own, unused, Bool.false_eq_true, if_false]
  rfl

/-! ### CODEC_ENCODE and CODEC_DECODE (R421, R433, R434, R436 to R439) -/

/-- CODEC_ENCODE in range on an own encode session, with room for what it holds, waits for its frames (R433, R434). -/
theorem codecEncode_waits {c : CodecSession} (nonempty : 1 ≤ f.arg 4 2) (few : f.arg 4 2 ≤ 256)
    (buf : bufOk (f.arg 8 8) (f.arg 16 4) = true) (own : s.sink? f.fn (f.arg 0 4) = some c)
    (cap : fld (f.arg 24 8) 31 0 = 0 ∨ 4096 ≤ fld (f.arg 24 8) 31 0) (rsvd : fld (f.arg 24 8) 63 33 = 0)
    (room : f.arg 8 8 = 0 → s.heldFull f.fn 1 = false) : codecEncode s f = s.busyCmd f [c.handle] := by
  have inRange : (decide (f.arg 4 2 = 0) || decide (256 < f.arg 4 2) || !bufOk (f.arg 8 8) (f.arg 16 4)) = false := by
    simp only [buf, Nat.ne_of_gt nonempty, Nat.not_lt.mpr few]
    rfl
  have param : ((fld (f.arg 24 8) 31 0 != 0 && decide (fld (f.arg 24 8) 31 0 < 4096)) || fld (f.arg 24 8) 63 33 != 0) = false := by
    rcases cap with none | large <;> simp [*]
  have fits : (decide (f.arg 8 8 = 0) && s.heldFull f.fn 1) = false := by
    by_cases held : f.arg 8 8 = 0
    · simp [room held]
    · simp [held]
  simp only [codecEncode, inRange, own, param, fits, Bool.false_eq_true, if_false]

/-- CODEC_DECODE of an own decode session into a resident context with room for its frames waits for its turn, and takes it
where the session is free (R421, R436 to R439). -/
theorem codecDecode_queues {x : Ctx} {c : CodecSession} (slab : f.arg 6 1 < s.slabCount)
    (named : s.needCtx f.fn (f.arg 4 2) = .ok x) (own : s.ownSession f.fn (f.arg 0 4) = some c) (decodes : c.kind ≠ 0)
    (spans : (x.onSlab? (f.arg 6 1)).isSome = true)
    (room : f.arg 20 4 * 512 + frMax c.param * decFrameBytes c.param ≤ x.shareBytes) (resident : x.st = .resident)
    (still : x.switching = .none) :
    codecDecode s f =
      let b := s.busyCmd f [c.handle]
      b.nextDecode c.handle b.flights.length := by
  have session : (s.ownSession f.fn (f.arg 0 4)).filter (fun c => c.kind != 0) = some c := by
    simp [own, Option.filter, decodes]
  have fits : ((x.onSlab? (f.arg 6 1)).isNone ||
      decide (x.shareBytes < f.arg 20 4 * 512 + frMax c.param * decFrameBytes c.param)) = false := by
    simp [Option.isNone_eq_false_iff.mpr spans, room]
  simp only [codecDecode, Nat.not_le.mpr slab, named, session, fits, resident, still, ne_eq, not_true_eq_false, decide_false,
    Bool.or_self, Bool.false_eq_true, if_false]

end

/-- Settles O12: each ready command performs at its seal, and each effect is that of its command. -/
theorem codecCommands : Obligations.CodecCommands := by
  unfold Obligations.CodecCommands
  intro fn k s
  refine ⟨fun ready => ?_, fun ready => ?_, fun ready => ?_, fun ready => ?_⟩
  · intro f kind a p low size read ranges cores frames flat
    exact exec_ready (c := .codecOpen) ready (codecOpen_opens ⟨low, size, read, ranges, cores, frames, flat⟩)
  · intro a f c own unused
    exact exec_ready ready (codecClose_closes (s := a) (f := f) own unused)
  · intro a f c nonempty few buf own cap rsvd room
    exact exec_ready ready (codecEncode_waits (s := a) (f := f) nonempty few buf own cap rsvd room)
  · intro a f x c slab named own decodes spans room resident still
    exact exec_ready ready (codecDecode_queues (s := a) (f := f) slab named own decodes spans room resident still)

end Sys2Proof.Machine
end

section
/-! SUPPORT. Proofs/GeodeCommands.lean: attestation, image signers, tenant sessions and debug unlock (R452, R455 to R457, R460,
R464, R465, R467, R469). -/

namespace Sys2Proof.Machine

section
variable {s : State} {f : Flight}

/-! ### ATTEST and the signers (R452, R455, R465) -/

/-- A field of some bytes is not empty. -/
theorem bytesAt_ne_nil {bs : List Byte} {a n : Nat} (positive : 0 < n) : bytesAt bs a n ≠ [] :=
  List.ne_nil_of_length_pos (length_bytesAt (bs := bs) (a := a) ▸ positive)

/-- The report that a function gets outside a session, once Geode has drawn its key: everything before the signature (R452,
R455). -/
def State.openReport (s : State) (f : Flight) (draw : Nat) : List Byte :=
  s.reportBody f.fn f.seq (bytesAt f.args 16 32) (bytesAt (Config.kemPublic draw) 0 1568)

/-- ATTEST outside a session, with a buffer for the report, draws a key that stays pending, and answers the signed report (R452,
R455). -/
theorem attest_answers (unopened : (s.part f.fn).session = none) (buf : bufOk (f.arg 0 8) (f.arg 8 4) = true)
    (room : 6611 + 80 * (s.part f.fn).ctxs.length ≤ f.arg 8 4) :
    attest s f =
      let b := s.drawn 1
      let body := b.openReport f s.geode.draws
      (b.modPart f.fn fun q => { q with pendKey := some (s.geode.draws, digest body) }).okCmd f
        (6611 + 80 * (s.part f.fn).ctxs.length)
        [{ addr := f.arg 0 8, len := f.arg 8 4, bytes := body ++ b.geode.signed body, index := 1, epoch := true }] := by
  have refused : (!bufOk (f.arg 0 8) (f.arg 8 4) || decide (f.arg 8 4 < 6611 + 80 * (s.part f.fn).ctxs.length)) = false := by
    simp only [buf, Nat.not_lt.mpr room]
    rfl
  have key : bytesAt (Config.kemPublic s.geode.draws) 0 1568 ≠ [] := bytesAt_ne_nil (by decide)
  simp only [attest, refused, unopened, State.entropyDraw, key, Option.isSome_none, Bool.false_eq_true, if_false]
  rfl

/-- SIGNER_ADD puts the key that it reads into a free entry (R465). -/
theorem signerAdd_puts {a : State} {key : List Byte} (low : f.arg 8 1 ≤ 7) (free : nth (s.part f.fn).signers (f.arg 8 1) = [])
    (read : s.hostIn f f.cmd.code 1 (f.arg 0 8) 2592 = (a, .ok key)) :
    signerAdd s f = (a.modPart f.fn fun q => { q with signers := modAt q.signers (f.arg 8 1) fun _ => key }).okCmd f := by
  simp [signerAdd, Nat.not_lt.mpr low, free, read]

/-- SIGNER_REMOVE empties an entry that holds a key (R465). -/
theorem signerRemove_empties (low : f.arg 0 1 ≤ 7) (used : nth (s.part f.fn).signers (f.arg 0 1) ≠ []) :
    signerRemove s f = (s.modPart f.fn fun q => { q with signers := modAt q.signers (f.arg 0 1) fun _ => [] }).okCmd f := by
  simp [signerRemove, Nat.not_lt.mpr low, used]

end

/-- A ready command is outside a tenant session. -/
theorem State.ready_session {s : State} {c : Cmd} {fn k : Nat} (ready : s.ready c fn k = true) : (s.part fn).session = none := by
  simp only [State.ready, Bool.and_eq_true, Option.isNone_iff_eq_none] at ready
  exact ready.1.2

/-- Settles O13: each ready command performs at its seal, and each effect is that of its command. -/
theorem attestAndSignerCommands : Obligations.AttestAndSignerCommands := by
  unfold Obligations.AttestAndSignerCommands
  intro fn k s
  refine ⟨fun ready => ?_, fun ready => ?_, fun ready => ?_⟩
  · intro a f len kem b body buf room
    have unopened : (a.part f.fn).session = none := State.ready_session (s := s) ready
    have answers := attest_answers (s := a) (f := f) unopened buf room
    exact exec_ready ready answers
  · intro f a key low free read
    exact exec_ready (c := .signerAdd) ready (signerAdd_puts low free read)
  · intro f low used
    exact exec_ready ready (signerRemove_empties (s := s.accepting .signerRemove fn k) (f := f) low used)

/-! ### Commands under a tenant session (R456, R460, R464) -/

section
variable {s : State} {f : Flight} {ses : Session}

/-- A command with its argument area opened: its plaintext, its counter, and its record protected (R460, R462). -/
def Flight.opened (f : Flight) (ctr : Nat) (args : List Byte) : Flight := { f with args := args, ctr := ctr, prot := true }

/-- The state in which a command's argument area has been opened: its counter is used up (R460). -/
def State.argsOpened (s : State) (f : Flight) (ses : Session) (ctr : Nat) (args : List Byte) : State :=
  (s.modPart f.fn fun q => { q with session := some { ses with used := ctr :: ses.used } }).modFlight f.seq fun _ =>
    f.opened ctr args

/-- An argument area that does not open fails its command (R460). -/
theorem State.start_unopened {e : St} (session : (s.part f.fn).session = some ses) (bad : ses.openArgs f = .error e) :
    s.start f = s.failCmd f e := by
  simp only [State.start, session, bad]

/-- One that opens uses up its counter; its plaintext is checked, and the command goes on (R376, R390, R460). -/
theorem State.start_opened {ctr : Nat} {args : List Byte} (session : (s.part f.fn).session = some ses)
    (good : ses.openArgs f = .ok (ctr, args)) :
    s.start f =
      let b := s.argsOpened f ses ctr args
      let g := f.opened ctr args
      if !f.cmd.argsClean args then b.failCmd g .rsvdSet
      else match f.cmd.barred f.fn s.hub.acceptService args with
        | some e => b.failCmd g e
        | none => b.proceed g := by
  simp only [State.start, session, good]
  rfl

/-- The partition's session after its counter is used up. -/
theorem State.argsOpened_session (there : f.fn < s.parts.length) (ctr : Nat) (args : List Byte) :
    ((s.argsOpened f ses ctr args).part f.fn).session = some { ses with used := ctr :: ses.used } :=
  congrArg Part.session (State.part_modPart_self s there _)

/-- SESSION_CLOSE of the open session ends it; its record is in plaintext (R464, log 28). -/
theorem sessionClose_ends (session : (s.part f.fn).session = some ses) (named : ses.handle = f.arg 0 4) :
    sessionClose s f =
      (((s.abortPart f.fn f.seq).endSession f.fn).okCmd f).modFlight f.seq fun g => { g with prot := false } := by
  simp [sessionClose, session, named]

end

/-- The row of a command that starts starts it. -/
theorem exec_starts {s : State} {c : Cmd} {fn k : Nat} {t : State} (starts : s.starts c fn k = true)
    (start : (s.accepting c fn k).start (s.sealed c fn k) = t) : exec (c.row fn k) s = .next t := by
  rw [exec_row, sealRow_starts s c fn k starts, start]

/-- Settles O14: the argument area opens or not, its plaintext passes or not, and SESSION_CLOSE then ends its session. -/
theorem sessionCommandsOpenTheirArguments : Obligations.SessionCommandsOpenTheirArguments := by
  unfold Obligations.SessionCommandsOpenTheirArguments
  intro c fn k s ses starts session a f
  have session' : (a.part f.fn).session = some ses := session
  refine ⟨fun e bad => exec_starts starts (State.start_unopened session' bad), fun ctr args good => ?_⟩
  intro g b
  have start : a.start f = _ := State.start_opened session' good
  have goesOn (clean : c.argsClean args = true) (allowed : c.barred fn a.hub.acceptService args = none) :
      a.start f = b.proceed g := by
    rw [start]
    have clean' : f.cmd.argsClean args = true := clean
    have allowed' : f.cmd.barred f.fn a.hub.acceptService args = none := allowed
    simp only [clean', allowed', Bool.not_true, Bool.false_eq_true, if_false]
    rfl
  refine ⟨fun unclean => ?_, fun clean e barred => ?_, fun clean allowed => ?_, fun is clean there named => ?_⟩
  · exact exec_starts starts (start.trans (if_pos (by rw [show f.cmd.argsClean args = false from unclean]; rfl)))
  · refine exec_starts starts (start.trans ?_)
    have clean' : f.cmd.argsClean args = true := clean
    have barred' : f.cmd.barred f.fn a.hub.acceptService args = some e := barred
    simp only [clean', barred', Bool.not_true, Bool.false_eq_true, if_false]
    rfl
  · exact exec_starts starts (goesOn clean allowed)
  · subst is
    have opened : (b.part g.fn).session = _ := State.argsOpened_session (s := a) (f := f) there ctr args
    exact exec_starts starts ((goesOn clean rfl).trans (sessionClose_ends opened named))

/-! ### SESSION_OPEN (R456, R457) -/

section
variable {s : State} {f : Flight}

/-- The key material that a SESSION_OPEN derives from its ciphertext and the report's digest (R457). -/
def sessionKeys (d : Nat) (ct dig : List Byte) : List Byte :=
  bytesAt (Config.shake256 (bytesAt (Config.kemDecaps d ct) 0 32 ++ dig ++
    [0x4E, 0x46, 0x2D, 0x53, 0x45, 0x53, 0x53, 0x49, 0x4F, 0x4E, 0x2D, 0x31]) 64) 0 64

/-- The state with a tenant session under the next handle, no signers, and the receipt to be written once the window's lines
are back (R456, R457). -/
def State.withSession (s : State) (f : Flight) (keys dig : List Byte) : State :=
  let h := s.nextHandle
  (((s.setNextHandle (h + 1)).modPart f.fn fun q =>
    { q with pendKey := none, signers := List.replicate 8 []
             session := some { handle := h, kIn := keys.take 32, kOut := keys.drop 32, used := [], saves := [] } }).closeWindow
      f.fn).modFlight f.seq fun g =>
        { g with phase := .busy, value := h,
                 outs := [{ addr := f.arg 8 8, len := protSize (f.arg 16 4), index := 0, epoch := true,
                            bytes := sealBuffer (keys.drop 32) f.fn f.cmd.code 0 0
                              (bytesAt (toLe 4 h ++ toLe 1 f.fn ++ List.replicate 59 0 ++ dig) 0 (f.arg 16 4)) }] }

/-- SESSION_OPEN of an empty partition with a pending key opens a session; its key pair comes once the host holds no line of
the window (R456, R457). -/
theorem sessionOpen_opens {d : Nat} {dig ct : List Byte} {a : State} (buf : bufOk (f.arg 8 8) (f.arg 16 4) = true)
    (room : 128 ≤ f.arg 16 4) (empty : s.sessionBusy f = false) (pending : (s.part f.fn).pendKey = some (d, dig))
    (read : s.hostIn f f.cmd.code 1 (f.arg 0 8) 1568 = (a, .ok ct)) :
    sessionOpen s f =
      let b := a.withSession f (sessionKeys d ct dig) dig
      if b.windowClosed f.fn then b.sessionReady f else b := by
  have refused : (!bufOk (f.arg 8 8) (f.arg 16 4) || decide (f.arg 16 4 < 128)) = false := by
    simp only [buf, Nat.not_lt.mpr room]
    rfl
  simp only [sessionOpen, refused, empty, pending, read, Bool.false_eq_true, if_false]
  rfl

/-- Outside a session SESSION_CLOSE fails (R464). -/
theorem sessionClose_outside (unopened : (s.part f.fn).session = none) : sessionClose s f = s.failCmd f .handleBad := by
  simp [sessionClose, unopened]

/-! ### DEBUG_UNLOCK (R467, R469) -/

/-- What a DEBUG_UNLOCK reads of its token: nothing where its length is not a token's (R467, log 28). -/
def State.readToken (s : State) (f : Flight) : State × Except St (List Byte) :=
  if f.arg 8 4 = 4691 then s.hostIn f f.cmd.code 1 (f.arg 0 8) 4691 else (s, .ok [])

/-- The state with a new challenge (R469). -/
def State.redrawn (s : State) : State :=
  s.setGeode { s.geode with draws := s.geode.draws + 1, chal := Config.entropy s.geode.draws }

/-- A failure draws a new challenge (R467, R469). -/
theorem State.debugFails_eq (s : State) (f : Flight) (e : St) : s.debugFails f e = s.redrawn.failCmd f e := rfl

/-- A good token ends the other partitions, and opens debug in its scope (R467). -/
theorem debugUnlock_good {a : State} {t : List Byte} (read : s.readToken f = (a, .ok t)) (good : a.tokenOk t = true) :
    debugUnlock s f = ((((((List.range 15).foldl (fun s i =>
      if (s.part (i + 1)).live then s.destroyPart (i + 1) f.seq else s) a).rekey 0 0).modPart 0 fun q =>
        { q with pendKey := none }).openDebug (numAt t 24 4)).okCmd f) := by
  rw [State.readToken] at read
  simp only [debugUnlock, read, good, Bool.not_true, Bool.false_eq_true, if_false]

theorem debugUnlock_bad {a : State} {t : List Byte} (read : s.readToken f = (a, .ok t)) (bad : a.tokenOk t = false) :
    debugUnlock s f = a.redrawn.failCmd f .debugToken := by
  rw [State.readToken] at read
  simp only [debugUnlock, read, bad, Bool.not_false, if_true, State.debugFails_eq]

theorem debugUnlock_unread {a : State} {e : St} (read : s.readToken f = (a, .error e)) :
    debugUnlock s f = a.redrawn.failCmd f e := by
  rw [State.readToken] at read
  simp only [debugUnlock, read, State.debugFails_eq]

end

/-- Settles O15: each ready command performs at its seal, and each effect is that of its command. -/
theorem sessionAndDebugCommands : Obligations.SessionAndDebugCommands := by
  unfold Obligations.SessionAndDebugCommands
  intro fn k s
  refine ⟨fun ready => ?_, fun ready => ?_, fun ready => ?_⟩
  · intro f q d dig a ct buf room empty pending read okm h ses receipt b
    have opens := sessionOpen_opens (s := s.accepting .sessionOpen fn k) (f := f) buf room empty pending read
    exact ⟨fun closed => exec_ready ready (opens.trans (if_pos closed)),
      fun waits => exec_ready ready (opens.trans (if_neg (Bool.eq_false_iff.mp waits)))⟩
  · have unopened : (s.part fn).session = none := State.ready_session ready
    exact exec_ready ready (sessionClose_outside (s := s.accepting .sessionClose fn k) (f := s.sealed .sessionClose fn k) unopened)
  · intro f q tries redrawn
    have reads : (s.accepting .debugUnlock fn k).readToken f = tries := rfl
    refine ⟨fun a t read good => ?_, fun a t read bad => ?_, fun a e read => ?_⟩
    · have unlocks := debugUnlock_good (reads.trans read) good
      exact exec_ready ready unlocks
    · have fails := debugUnlock_bad (reads.trans read) bad
      exact exec_ready ready fails
    · have fails := debugUnlock_unread (reads.trans read)
      exact exec_ready ready fails

end Sys2Proof.Machine
end

section
/-! SUPPORT. Proofs/RingsAndManagement.lean: the commands of Talus, and the messages of the management endpoint (R471, R472, R481,
R485, R487, R489, R520). -/

namespace Sys2Proof.Machine

section
variable {s : State} {f : Flight}

/-! ### RING_SET and ALARM_ACK (R471, R472, R481) -/

/-- The ring that a RING_SET names: its function's, or the module ring (R472). -/
def Flight.ringNamed (f : Flight) : Nat := if f.arg 10 1 % 2 = 1 then 16 else f.fn

/-- The arguments of a RING_SET are in range, and name a ring that its function may set (R471, R472). -/
structure Flight.RingInRange (f : Flight) : Prop where
  aligned : f.arg 0 8 % 64 = 0
  low : 6 ≤ f.arg 8 1
  high : f.arg 8 1 ≤ 16
  vector : f.arg 9 1 ≤ 127
  own : f.arg 10 1 % 2 = 0 ∨ f.fn = 0

/-- RING_SET in range empties its ring; a base of zero unsets it, and leaves size and vector as last set (R471, log 32). -/
theorem State.ringSet_empties (inRange : f.RingInRange) :
    s.ringSet f = ((s.modRing f.ringNamed fun g =>
      { g with isSet := decide (f.arg 0 8 ≠ 0), base := f.arg 0 8,
               log2n := if f.arg 0 8 = 0 then g.log2n else f.arg 8 1,
               vector := if f.arg 0 8 = 0 then g.vector else f.arg 9 1,
               head := 0, tail := 0, written := 0, blocked := false }).okCmd f).flushDrops f.ringNamed := by
  obtain ⟨aligned, low, high, vector, own⟩ := inRange
  have passes : (decide (f.arg 0 8 % 64 ≠ 0) || decide (f.arg 8 1 < 6) || decide (16 < f.arg 8 1) ||
      decide (127 < f.arg 9 1)) = false := by
    simp only [aligned, Nat.not_lt.mpr low, Nat.not_lt.mpr high, Nat.not_lt.mpr vector]
    rfl
  have allowed : (f.arg 10 1 % 2 == 1 && f.fn != 0) = false := by
    rcases own with functions | physical <;> simp [*]
  have named : (if (f.arg 10 1 % 2 == 1) = true then 16 else f.fn) = f.ringNamed := by
    simp only [beq_iff_eq, Flight.ringNamed]
  simp only [State.ringSet, passes, allowed, named, Bool.false_eq_true, if_false]

/-- RING_SET with a base sets the ring (R471). -/
theorem State.ringSet_sets (inRange : f.RingInRange) (based : f.arg 0 8 ≠ 0) :
    s.ringSet f = ((s.modRing f.ringNamed fun g =>
      { g with isSet := true, base := f.arg 0 8, log2n := f.arg 8 1, vector := f.arg 9 1, head := 0, tail := 0,
               written := 0, blocked := false }).okCmd f).flushDrops f.ringNamed := by
  simp only [State.ringSet_empties inRange, based, ne_eq, not_false_eq_true, decide_true, if_false]

/-- RING_SET with the base zero unsets the ring (R471). -/
theorem State.ringSet_unsets (inRange : f.RingInRange) (zero : f.arg 0 8 = 0) :
    s.ringSet f = ((s.modRing f.ringNamed fun g =>
      { g with isSet := false, base := 0, head := 0, tail := 0, written := 0, blocked := false }).okCmd f).flushDrops
        f.ringNamed := by
  simp only [State.ringSet_empties inRange, zero, ne_eq, not_true_eq_false, decide_false, if_true]

/-! ### INJECT and INJECT_CLEAR (R485, R487) -/

/-- The points armed beside the one that an INJECT names: an arming of the same point by its function is replaced (R485). -/
def State.otherArmed (s : State) (f : Flight) : List Armed := s.talus.armed.filter fun x => !(x.fn == f.fn && x.point == f.arg 0 2)

/-- An INJECT that passes its checks: a target that exists, a class that the point may raise, and room to arm (R383, R391,
R485). -/
structure State.Injectable (s : State) (f : Flight) : Prop where
  scope : (pointScopes (f.arg 0 2)).contains (f.arg 2 1) = true
  target : s.targetExists f.fn (f.arg 2 1) (f.arg 4 2) = true
  sound : f.arg 2 1 = 0 → ((s.ctx? f.fn (f.arg 4 2)).any fun c => decide (c.st = .faulted)) = false
  path : ((f.arg 0 2 == 0x0B01 || f.arg 0 2 == 0x0B02) && (pathClass (f.arg 0 2) (f.arg 8 8)).isNone) = false
  room : ((s.otherArmed f).filter fun x => x.fn == f.fn).length < 16

/-- What an INJECT arms (R485). -/
def Flight.arming (f : Flight) : Armed :=
  { fn := f.fn, point := f.arg 0 2, scope := f.arg 2 1, ctx := f.arg 4 2, param := f.arg 8 8,
    left := if f.arg 3 1 = 0 then none else some (f.arg 3 1) }

/-- INJECT acts at once, or arms (R485). -/
theorem State.inject_acts (can : s.Injectable f) :
    s.inject f =
      if immediatePoint (f.arg 0 2) then
        (s.actTimes f (f.arg 0 2) (f.arg 2 1) (f.arg 8 8) (if f.arg 3 1 = 0 then 1 else f.arg 3 1)).okCmd f
      else (s.setTalus { s.talus with armed := s.otherArmed f ++ [f.arming] }).okCmd f := by
  obtain ⟨scope, target, sound, path, room⟩ := can
  have faulted : (decide (f.arg 2 1 = 0) && (s.ctx? f.fn (f.arg 4 2)).any fun c => decide (c.st = .faulted)) = false := by
    by_cases ofCtx : f.arg 2 1 = 0
    · simp only [ofCtx, sound ofCtx, Bool.and_false]
    · simp only [ofCtx, decide_false, Bool.false_and]
  have inRange : (!(pointScopes (f.arg 0 2)).contains (f.arg 2 1) || !s.targetExists f.fn (f.arg 2 1) (f.arg 4 2) ||
      (f.arg 0 2 == 0x0B01 || f.arg 0 2 == 0x0B02) && (pathClass (f.arg 0 2) (f.arg 8 8)).isNone) = false := by
    simp only [scope, target, path]
    rfl
  rw [State.otherArmed] at room
  simp only [State.inject, inRange, faulted, Nat.not_le.mpr room, Bool.false_eq_true, if_false]
  rfl

end

/-- Settles O16: each ready command performs at its seal, and each effect is that of its command. -/
theorem talusCommands : Obligations.TalusCommands := by
  unfold Obligations.TalusCommands
  intro fn k s
  refine ⟨fun ready => ?_, fun ready => ?_, fun ready => ?_, fun ready => ?_⟩
  · intro a f r
    refine ⟨fun aligned based low high vector own => ?_, fun zero low high vector own => ?_⟩
    · have sets := State.ringSet_sets (s := a) (f := f) ⟨aligned, low, high, vector, own⟩ based
      exact exec_ready ready sets
    · have unsets := State.ringSet_unsets (s := a) (f := f) ⟨by rw [zero], low, high, vector, own⟩ zero
      exact exec_ready ready unsets
  · exact ⟨fun can => exec_ready ready (if_pos can), fun cannot => exec_ready ready (if_neg (Bool.eq_false_iff.mp cannot))⟩
  · intro a f rest scope target sound path room
    have acts := State.inject_acts (s := a) (f := f) ⟨scope, target, sound, path, room⟩
    exact ⟨fun now => exec_ready ready (acts.trans (if_pos now)),
      fun later => exec_ready ready (acts.trans (if_neg (Bool.eq_false_iff.mp later)))⟩
  · exact exec_ready ready rfl

/-! ### The management endpoint (R481, R487, R489, R520) -/

section
variable {s : State}

/-- The endpoint answers while the hub is supplied (R489). -/
theorem State.mgmtUp_of_supplied (supplied : s.hub.power ≠ .off) : s.mgmtUp = true := decide_eq_true supplied

theorem getState_answers (up : s.mgmtUp = true) :
    getState s = s.setReply (.state s.hubIdent s.hub.stop.isSome ((s.hub.stop.map fun x => x.code.code).getD 0) s.hub.service
      s.inRestBit (s.port.linkStat % 2 ^ 16) (s.viewAlarms 16).length (((s.viewAlarms 16).take 8).map fun a => a.code.code)) := by
  simp only [getState, up, Bool.not_true, Bool.false_eq_true, if_false]

theorem getThermal_answers (up : s.mgmtUp = true) :
    getThermal s = s.setReply (.thermal ((List.range (3 * s.slabCount)).map fun k =>
      ((nth (s.slab (k / 3)).hbm (k % 3)).temp, (nth (s.slab (k / 3)).hbm (k % 3)).level)) (maxNat s.power.tj)) := by
  simp only [getThermal, up, Bool.not_true, Bool.false_eq_true, if_false]

/-- The endpoint acknowledges an alarm of the module view, or refuses (R481). -/
theorem mgmtAlarmAck_answers (up : s.mgmtUp = true) (code : Nat) :
    mgmtAlarmAck code s =
      if s.talus.canAck [16] code then (s.setTalus (s.talus.ackIn [16] code)).setReply (.acked true)
      else s.setReply (.acked false) := by
  simp only [mgmtAlarmAck, up, Bool.not_true, Bool.false_eq_true, if_false]

/-- A start-up point is armed while MOD_RST# is asserted, and any other request is refused (R487). -/
theorem injectArm_answers (up : s.mgmtUp = true) (p v : Nat) :
    injectArm p v s =
      if s.hub.pins.modRst = true ∧ isStartPoint p = true then
        (s.setTalus { s.talus with startup := (s.talus.startup.filter fun a => a.1 != p) ++ [(p, v)] }).setReply (.acked true)
      else s.setReply (.acked false) := by
  simp only [injectArm, up, Bool.not_true, Bool.false_eq_true, if_false, Bool.and_eq_true]

/-- Bytes that lie in the staging area of an image are staged while MOD_RST# is asserted (R520). -/
theorem imageStage_answers (up : s.mgmtUp = true) (i off : Nat) (bs : List Byte) :
    imageStage i off bs s =
      if s.hub.pins.modRst = true ∧ i < 2 ∧ bs.length ≤ 64 ∧ off + bs.length ≤ stageSize i then
        (s.modStaged i fun g => { g with bytes := Memory.write g.bytes off bs }).setReply (.acked true)
      else s.setReply (.acked false) := by
  simp only [imageStage, up, Bool.not_true, Bool.false_eq_true, if_false, Bool.and_eq_true, decide_eq_true_eq, and_assoc]

/-- An image that fits its area is sealed while MOD_RST# is asserted (R520). -/
theorem imageSeal_answers (up : s.mgmtUp = true) (i len : Nat) :
    imageSeal i len s =
      if s.hub.pins.modRst = true ∧ i < 2 ∧ len ≤ stageSize i then
        (s.modStaged i fun g => { g with complete := some len }).setReply (.acked true)
      else s.setReply (.acked false) := by
  simp only [imageSeal, up, Bool.not_true, Bool.false_eq_true, if_false, Bool.and_eq_true, decide_eq_true_eq, and_assoc]

/-- The images are discarded while MOD_RST# is asserted (R520). -/
theorem imageDiscard_answers (up : s.mgmtUp = true) :
    imageDiscard s =
      if s.hub.pins.modRst then
        (s.setHub { s.hub with staged := [{ bytes := [], complete := none }, { bytes := [], complete := none }] }).setReply
          (.acked true)
      else s.setReply (.acked false) := by
  simp only [imageDiscard, up, Bool.not_true, Bool.false_eq_true, if_false]

end

/-- Settles O47: each message by its own answer. -/
theorem managementMessages : Obligations.ManagementMessages := by
  unfold Obligations.ManagementMessages
  intro s supplied
  have up := State.mgmtUp_of_supplied supplied
  refine ⟨congrArg Host.Outcome.next (getState_answers up), congrArg Host.Outcome.next (getThermal_answers up),
    fun code => ?_, fun held => ⟨fun p v => ?_, fun i off bs => ?_, fun i len => ?_, ?_⟩,
    fun released => ⟨fun p v => ?_, fun i off bs => ?_, fun i len => ?_, ?_⟩⟩
  · have acks := mgmtAlarmAck_answers up code
    exact ⟨fun can => congrArg Host.Outcome.next (acks.trans (if_pos can)),
      fun cannot => congrArg Host.Outcome.next (acks.trans (if_neg (Bool.eq_false_iff.mp cannot)))⟩
  · have arms := injectArm_answers up p v
    exact ⟨fun point => congrArg Host.Outcome.next (arms.trans (if_pos ⟨held, point⟩)),
      fun other => congrArg Host.Outcome.next (arms.trans (if_neg fun both => Bool.eq_false_iff.mp other both.2))⟩
  · have stages := imageStage_answers up i off bs
    exact ⟨fun fits => congrArg Host.Outcome.next (stages.trans (if_pos ⟨held, fits⟩)),
      fun beyond => congrArg Host.Outcome.next (stages.trans (if_neg fun both => beyond both.2))⟩
  · have seals := imageSeal_answers up i len
    exact ⟨fun fits => congrArg Host.Outcome.next (seals.trans (if_pos ⟨held, fits⟩)),
      fun beyond => congrArg Host.Outcome.next (seals.trans (if_neg fun both => beyond both.2))⟩
  · exact congrArg Host.Outcome.next ((imageDiscard_answers up).trans (if_pos held))
  · exact congrArg Host.Outcome.next ((injectArm_answers up p v).trans (if_neg fun both => Bool.eq_false_iff.mp released both.1))
  · exact congrArg Host.Outcome.next
      ((imageStage_answers up i off bs).trans (if_neg fun both => Bool.eq_false_iff.mp released both.1))
  · exact congrArg Host.Outcome.next ((imageSeal_answers up i len).trans (if_neg fun both => Bool.eq_false_iff.mp released both.1))
  · exact congrArg Host.Outcome.next ((imageDiscard_answers up).trans (if_neg (Bool.eq_false_iff.mp released)))

end Sys2Proof.Machine
end

section
/-! SUPPORT. Proofs/Calibration.lean: load samples of the calibration domains, and recalibrations (R505 to R507). -/

namespace Sys2Proof.Machine

section
variable {s : State} {d load m : Nat}

/-! ### Changes of a domain -/

/-- Two changes of a domain that agree on it as it is are one. -/
theorem State.modDomain_congr {f g : Domain → Domain} (agree : f (nth s.power.domains d) = g (nth s.power.domains d)) :
    s.modDomain d f = s.modDomain d g :=
  congrArg (fun l => s.setPower { s.power with domains := l }) (modAt_congr agree)

/-- The event of a domain on its factory tables shows the domain as it is (R505, R507). -/
theorem State.calStale_modDomain (there : d < s.power.domains.length) (f : Domain → Domain) (failed inj : Bool) :
    (s.modDomain d f).calStale d failed inj =
      (s.modDomain d f).moduleEvent .calStale 0 0xF 0xF (domainCode d + boolNat failed * 256)
        (f (nth s.power.domains d)).capture (f (nth s.power.domains d)).load inj := by
  have changed : nth (s.modDomain d f).power.domains d = f (nth s.power.domains d) := nth_modAt_self there f
  simp only [State.calStale, changed]

/-! ### Load samples (R505) -/

theorem loadOver_iff {capture : Nat} : loadOver load capture = true ↔ capture * 110 < load * 100 := by simp [loadOver]

theorem loadOver_within {capture : Nat} (within : load * 100 ≤ capture * 110) : loadOver load capture = false := by
  simp [loadOver, within]

/-- A sample of a load within 1.10 times the capture load keeps the domain's record (R505). -/
theorem calLoadSample_within (run : s.running = true) (armed : s.talus.armed = []) (fitted : s.domainExists d = true)
    (within : load * 100 ≤ (nth s.power.domains d).capture * 110) :
    calLoadSample d load s = s.modDomain d fun x => { x with load := load, fallback := false, recal := none } := by
  simp [calLoadSample, run, fitted, State.opportunity_unarmed armed, loadOver_within within]

/-- A sample above puts the domain on its factory tables, with an event unless it is on them (R505). -/
theorem calLoadSample_over (run : s.running = true) (armed : s.talus.armed = []) (fitted : s.domainExists d = true)
    (above : (nth s.power.domains d).capture * 110 < load * 100) :
    calLoadSample d load s =
      let t := s.modDomain d fun x =>
        { x with load := load, fallback := true, since := if x.fallback = false then s.powTime else x.since,
                 recal := x.recal.map (Nat.min load) }
      if (nth s.power.domains d).fallback then t else t.calStale d false false := by
  cases on : (nth s.power.domains d).fallback <;>
    simp [calLoadSample, run, fitted, State.opportunity_unarmed armed, loadOver_iff.mpr above, on]

/-! ### Recalibrations (R506) -/

/-- A recalibration starts after 5 local ms in fallback (R506). -/
theorem recalStart_starts (run : s.running = true) (fitted : s.domainExists d = true) (awake : s.hub.rest = .awake)
    (fallback : (nth s.power.domains d).fallback = true) (idle : (nth s.power.domains d).recal = none)
    (due : (nth s.power.domains d).since + 5000 ≤ s.powTime) :
    recalStart d s = s.modDomain d fun x => { x with recal := some x.load } := by
  simp [recalStart, run, fitted, awake, fallback, idle, due]

/-- A recalibration that ends well leaves a new record (R506). -/
theorem recalEnd_valid (run : s.running = true) (going : (nth s.power.domains d).recal = some m) :
    recalEnd d true s = s.modDomain d fun x =>
      { x with capture := m, recal := none, fallback := loadOver x.load m, since := s.powTime } := by
  simp [recalEnd, run, going]

/-- ... and one that fails leaves the factory tables, with its event (R506, R507). -/
theorem recalEnd_invalid (run : s.running = true) (going : (nth s.power.domains d).recal = some m) :
    recalEnd d false s = (s.modDomain d fun x => { x with recal := none, since := s.powTime }).calStale d true false := by
  simp [recalEnd, run, going]

end

/-- Settles O22: each row by its own lemma, and its event by what the change leaves of the domain. -/
theorem calibrationEvents : Obligations.CalibrationEvents := by
  unfold Obligations.CalibrationEvents
  intro s d load run armed fitted x
  refine ⟨fun within => ?_, fun above on => ?_, fun above off there => ?_, fun awake on idle due => ?_, fun m going => ?_,
    fun m going there => ?_⟩
  · exact congrArg Host.Outcome.next (calLoadSample_within run armed fitted within)
  · have samples := calLoadSample_over run armed fitted above
    refine congrArg Host.Outcome.next ((samples.trans (if_pos on)).trans (State.modDomain_congr ?_))
    rw [if_neg (ne_false_of_eq_true on)]
  · have samples := calLoadSample_over run armed fitted above
    have stays : (nth s.power.domains d).fallback ≠ true := Bool.eq_false_iff.mp off
    refine congrArg Host.Outcome.next ((samples.trans (if_neg stays)).trans ?_)
    rw [State.modDomain_congr (g := fun x =>
      { x with load := load, fallback := true, since := s.powTime, recal := x.recal.map (Nat.min load) }) (by rw [if_pos off])]
    exact State.calStale_modDomain there _ false false
  · exact congrArg Host.Outcome.next (recalStart_starts run fitted awake on idle due)
  · exact congrArg Host.Outcome.next (recalEnd_valid run going)
  · exact congrArg Host.Outcome.next ((recalEnd_invalid run going).trans (State.calStale_modDomain there _ true false))

end Sys2Proof.Machine
end

section
/-! SUPPORT. Proofs/StartUp.lean: MOD_RST#, power-on, and the steps of start-up to its end or its stop (R254, R447, R451, R512,
R513, R516 to R523, R534, R537). -/

namespace Sys2Proof.Machine

section
variable {s : State}

/-! ### MOD_RST# and power-on (R512, R513, R517, R537) -/

/-- MOD_RST# past its filter resets every unit of a supplied module, and disarms the start-up points (R487, R513). -/
theorem modRstAssert_acted (supplied : s.hub.power ≠ .off) {ns : Nat} (long : (filterWidths 1).2 ≤ ns) :
    modRstAssert ns s =
      ((s.setHub { s.hub with pins := { s.hub.pins with modRst := true } }).setTalus
        { s.talus with startup := [] }).resetUnits .held := by
  simp only [modRstAssert, s.passes_acted (pin := 1) (by decide) long, State.modRst]
  exact if_neg supplied

theorem modRstAssert_ignored (s : State) {ns : Nat} (short : ns ≤ (filterWidths 1).1) : modRstAssert ns s = s := by
  simp only [modRstAssert, s.passes_ignored short]

/-- The state with MOD_RST# released. -/
def State.released (s : State) (power : Power) : State :=
  s.setHub { s.hub with power := power, pins := { s.hub.pins with modRst := false } }

/-- Start-up begins at the release of MOD_RST# once the input is good; without it the module waits (R512, R517, R537). -/
theorem modRstRelease_held (held : s.hub.power = .held) :
    modRstRelease s = s.released (if s.hub.pins.pwrGood && vinOk s.power.vin then .starting else .off) := by
  have waits : (s.setHub { s.hub with pins := { s.hub.pins with modRst := false } }).hub.power = .held := held
  unfold modRstRelease
  dsimp only
  rw [if_neg (not_not_intro waits)]
  cases good : s.hub.pins.pwrGood && vinOk s.power.vin <;> simp [good, State.released, State.setHub_setHub]

theorem modRstRelease_other (other : s.hub.power ≠ .held) : modRstRelease s = s.released s.hub.power := if_pos other

/-- Power-on in range from the off state resets every unit, and begins start-up unless MOD_RST# is asserted (R512, R517,
R534). -/
theorem powerOn_starts {mv : Nat} (inRange : vinOk mv = true) (off : s.hub.power = .off) (straps : Nat) :
    powerOn mv straps s =
      ((s.setPower { s.power with vin := mv, excursion := false }).setHub { s.hub with
        pins := { s.hub.pins with pwrGood := true, straps := straps } }).resetUnits
          (if s.hub.pins.modRst then .held else .starting) := by
  simp only [powerOn, inRange, off, Bool.not_true, Bool.false_eq_true, if_false, State.setHub_hub, ne_eq, not_true_eq_false,
    State.setHub_setHub]

/-! ### Start-up points, and the stop of a start-up (R487, R516, R518) -/

theorem State.startPoint_unarmed (unarmed : s.talus.startup = []) (point : Nat) (p : Nat → Bool) : s.startPoint point p = none := by
  simp [State.startPoint, unarmed]

/-- The module stops in start-up: the stop shows the step that ran (R518). -/
def State.StartStopped (s t : State) (c : St) (d1 : Nat) : Prop :=
  ∃ x, t.hub.stop = some x ∧ x.code = c ∧ x.d0 = s.hub.startup.step ∧ x.d1 = d1

/-- Start-up runs, and nothing has stopped it (R516, R518). -/
structure State.StartsUp (s : State) : Prop where
  power : s.hub.power = .starting
  run : s.hub.stop = none

/-- A stop of the module in start-up, whatever free value was drawn for its record (R518, log 29). -/
theorem State.startStop_stops (starts : s.StartsUp) (c : St) (d1 : Nat) (inj : Bool) :
    s.StartStopped (s.startStop c d1 inj) c d1 := by
  have stops := State.stopModule_stopping (s := s.draw.2) (.inr starts.power) starts.run c 0xF
    (if c = .startTimeout then 0xF else Config.freeNat s.free % 16) s.hub.startup.step d1 inj
  unfold State.startStop
  dsimp only
  rw [stops]
  exact ⟨_, rfl, rfl, rfl, rfl⟩

/-! ### How a step fails (R254, R516, R518) -/

/-- No direction of a link has lost more lanes than it has spares (R254). -/
theorem State.linkFails_none (s : State) {r : StepReport} (spared : ∀ k, r.lanes.getD k 0 ≤ 2) : s.linkFails r = none := by
  have sends (a b : Nat) : ¬ 2 < sendLanes r a b := Nat.not_lt.mpr (spared _)
  have receives (a b : Nat) : ¬ 2 < recvLanes r a b := by
    unfold recvLanes
    split
    · exact Nat.not_lt.mpr (spared _)
    · exact sends b a
  simp [State.linkFails, sends, receives]

/-- Without start-up points and without a report of a failure, no step fails before its own checks (R516, R518). -/
theorem State.stepFails_none {r : StepReport} (unarmed : s.talus.startup = []) (good : r.failed = none)
    (links : s.linkFails r = none) : s.stepFails r = none := by
  unfold State.stepFails
  simp only [State.startPoint_unarmed unarmed, good, links, Option.isSome_none, Bool.false_eq_true, if_false]
  split <;> rfl

/-- Step 1 reports no failed index: it fails by its own checks alone (R447, R516). -/
theorem State.stepFails_boot (unarmed : s.talus.startup = []) (boot : s.hub.startup.step = 1) (r : StepReport) :
    s.stepFails r = none := by
  simp [State.stepFails, State.startPoint_unarmed unarmed, boot]

/-- The codes of the later steps (R516, R518). -/
def stepCodes : List (Nat × St) := [(2, .hbmTrain), (3, .selftest), (4, .fabricTrain), (5, .calFail)]

/-- A later step that fails at an index fails with its own code (R516, R518). -/
theorem State.stepFails_reported {r : StepReport} {i : Nat} {c : St} (unarmed : s.talus.startup = [])
    (failed : r.failed = some i) (links : s.linkFails r = none) (step : (s.hub.startup.step, c) ∈ stepCodes) :
    s.stepFails r = some (c, i, false) := by
  simp only [stepCodes, List.mem_cons, List.not_mem_nil, or_false, Prod.mk.injEq] at step
  rcases step with ⟨n, rfl⟩ | ⟨n, rfl⟩ | ⟨n, rfl⟩ | ⟨n, rfl⟩ <;>
    simp [State.stepFails, State.startPoint_unarmed unarmed, n, failed, links]

/-- A link without spares enough fails the fabric's step first (R254, R518). -/
theorem State.stepFails_link {r : StepReport} {i : Nat} (unarmed : s.talus.startup = []) (links : s.linkFails r = some i)
    (step : s.hub.startup.step = 4) : s.stepFails r = some (.fabricTrain, i, false) := by
  simp [State.stepFails, State.startPoint_unarmed unarmed, step, links]

/-! ### The steps (R516 to R523) -/

/-- The step that runs, where it does not fail (R516). -/
def State.runStep (s : State) (r : StepReport) : State :=
  match s.hub.startup.step with
  | 0 => s.nextStep
  | 1 => s.stepBoot r
  | 2 => s.stepHbm r
  | 3 => s.stepSelfTest
  | 4 => s.stepFabric r
  | _ => s.startDone r

theorem State.StartsUp.goes (starts : s.StartsUp) : (decide (s.hub.power ≠ .starting) || s.hub.stop.isSome) = false := by
  simp [starts.power, starts.run]

theorem startupStepEnd_runs (starts : s.StartsUp) {r : StepReport} (good : s.stepFails r = none) :
    startupStepEnd r s = s.runStep r := by
  unfold startupStepEnd
  rw [if_neg (Bool.eq_false_iff.mp starts.goes), good]
  rfl

/-- A step that fails stops the module with the step in D0 (R518). -/
theorem startupStepEnd_fails (starts : s.StartsUp) {r : StepReport} {c : St} {d1 : Nat} {inj : Bool}
    (bad : s.stepFails r = some (c, d1, inj)) : s.StartStopped (startupStepEnd r s) c d1 := by
  unfold startupStepEnd
  rw [if_neg (Bool.eq_false_iff.mp starts.goes), bad]
  exact State.startStop_stops starts c d1 inj

/-- A step that runs past its time stops the module, in step 1 as the Steward's failure once it may have started (R517). -/
theorem startupTimeout_stops (starts : s.StartsUp) :
    s.StartStopped (startupTimeout s) .startTimeout noIndex ∨
      s.hub.startup.step = 1 ∧ s.StartStopped (startupTimeout s) .steward noIndex := by
  have drawn : s.draw.2.StartsUp := ⟨starts.power, starts.run⟩
  unfold startupTimeout
  rw [if_neg (Bool.eq_false_iff.mp starts.goes)]
  dsimp only
  split
  case isTrue ready =>
    simp only [Bool.and_eq_true, beq_iff_eq] at ready
    exact .inr ⟨ready.1.1, State.startStop_stops drawn ..⟩
  case isFalse => exact .inl (State.startStop_stops drawn ..)

/-- The source of entropy fails its health tests in step 1 (R451). -/
theorem State.stepBoot_noEntropy {r : StepReport} (bad : r.entropyFail = true) :
    s.stepBoot r = s.startStop .selftest noIndex false := if_pos bad

/-- The state in which the image pair has passed the checks of R447: measured, and its version taken (R447, R448, R516). -/
def State.booted (s : State) : State :=
  ((s.setHub { s.hub with
    svnFw := Config.imageSvn (s.bootImage 0), mFw := digest (s.bootImage 0), mUcode := digest (s.bootImage 1),
    startup := { s.hub.startup with stewardUp := true } }).setGeode { s.geode with entOk := true }).nextStep

/-- Without start-up points step 1 is the checks of R447 (R447, R516). -/
theorem State.stepBoot_checks {r : StepReport} (unarmed : s.talus.startup = []) (entropy : r.entropyFail = false) :
    (bootCheck (s.bootImage 0) (s.bootImage 1) s.hub.fuse.svn = none → s.stepBoot r = s.booted) ∧
    ∀ c i, bootCheck (s.bootImage 0) (s.bootImage 1) s.hub.fuse.svn = some (c, i) → s.stepBoot r = s.startStop c i false := by
  refine ⟨fun passes => ?_, fun c i fails => ?_⟩
  · simp only [State.stepBoot, entropy, State.startPoint_unarmed unarmed, passes, Option.isSome_none, Bool.false_eq_true, if_false]
    rfl
  · simp only [State.stepBoot, entropy, State.startPoint_unarmed unarmed, fails, Option.isSome_none, Bool.false_eq_true, if_false]

/-- The frames of a slab after step 2 lie between the floor and what 72 GB hold (R1, R27, R292). -/
theorem State.stepHbm_frames (s : State) (r : StepReport) {k : Nat} (fitted : k < s.slabCount) (there : k < s.slabs.length) :
    34076 ≤ ((s.stepHbm r).slab k).frames ∧ ((s.stepHbm r).slab k).frames ≤ 34332 := by
  have trained : (s.stepHbm r).slab k = _ := nth_map_zipIdx _ there
  rw [trained, if_neg (Nat.not_le.mpr fitted)]
  exact ⟨Nat.le_max_left .., Nat.max_le.mpr ⟨by decide, Nat.min_le_left ..⟩⟩

/-- Step 3 leaves no register, no count and no damaged word (R519). -/
theorem State.stepSelfTest_clears (s : State) : ∀ b ∈ s.stepSelfTest.slabs, b.regs = [] ∧ b.spadCorrected = 0 ∧ b.bad = [] := by
  intro b tested
  obtain ⟨_, -, rfl⟩ := List.mem_map.mp tested
  exact ⟨rfl, rfl, rfl⟩

/-- Step 4 brings every powered link up with its spare lanes (R253, R254). -/
theorem State.stepFabric_link (s : State) (r : StepReport) {a b : Nat} (sender : a < s.slabCount) (receiver : b < s.slabCount)
    (there : a < s.slabs.length) (linked : b < (s.slab a).links.length) :
    ((s.stepFabric r).link a b).up = true ∧ ((s.stepFabric r).link a b).spares = [sendLanes r a b, recvLanes r a b] := by
  have slab : (s.stepFabric r).slab a = _ := nth_map_zipIdx _ there
  have link : (s.stepFabric r).link a b = _ := (congrArg (fun x : Slab => nth x.links b) slab).trans (nth_map_zipIdx _ linked)
  have powered : s.linkPowered a b = true := by simp [State.linkPowered, sender, receiver]
  rw [link]
  dsimp only
  rw [if_pos powered]
  exact ⟨rfl, rfl⟩

/-- The end of start-up leaves partition 0 alone, with no quota (R523). -/
theorem State.startDone_part (s : State) (r : StepReport) (there : 0 < s.parts.length) :
    (s.startDone r).part 0 = { Part.absent with live := true, key := s.geode.draws } :=
  State.part_modPart_self _ (i := 0) there _

theorem State.startDone_others (s : State) (r : StepReport) {j : Nat} (other : j ≠ 0) : (s.startDone r).part j = s.part j :=
  State.part_modPart_of_ne _ other.symm _

end

/-- Settles O52: the rows of the resets by their own lemmas, and a step by whether it fails. -/
theorem moduleResetAndStartUp : Obligations.ModuleResetAndStartUp := by
  unfold Obligations.ModuleResetAndStartUp
  intro s
  refine ⟨fun ns long supplied => congrArg Host.Outcome.next (modRstAssert_acted supplied long),
    fun ns short => congrArg Host.Outcome.next (modRstAssert_ignored s short), ?_, fun mv straps low high off => ?_,
    fun power run => ?_⟩
  · refine ⟨fun held good low high => ?_, fun held bad => ?_, fun other => congrArg Host.Outcome.next (modRstRelease_other other)⟩
    · refine congrArg Host.Outcome.next ((modRstRelease_held held).trans ?_)
      rw [good, vinOk_iff.mpr ⟨low, high⟩]
      rfl
    · refine congrArg Host.Outcome.next ((modRstRelease_held held).trans ?_)
      rw [bad]
      rfl
  · exact congrArg Host.Outcome.next (powerOn_starts (vinOk_iff.mpr ⟨low, high⟩) off straps)
  · have starts : s.StartsUp := ⟨power, run⟩
    refine ⟨fun unarmed r good entropy spared => ?_, fun r i c unarmed failed spared step => ?_,
      fun r unarmed step bad => ?_, fun r i unarmed step links => ?_, ?_⟩
    · have runs : startupStepEnd r s = s.runStep r :=
        startupStepEnd_runs starts (State.stepFails_none unarmed good (s.linkFails_none spared))
      have ends {u : State} (step : s.runStep r = u) : exec (.startupStepEnd r) s = .next u :=
        congrArg Host.Outcome.next (runs.trans step)
      refine ⟨fun step => ?_, fun step => ?_, fun step => ?_, fun step => ?_, fun step => ?_, fun step there => ?_⟩
      · refine ends ?_
        simp only [State.runStep, State.nextStep, step]
      · obtain ⟨boots, refuses⟩ := State.stepBoot_checks unarmed entropy
        refine ⟨s.stepBoot r, ends (by simp only [State.runStep, step]), fun passes => ?_, fun c i fails => ?_⟩
        · rw [boots passes]
          exact ⟨congrArg (· + 1) step, run, rfl, rfl, rfl, rfl⟩
        · obtain ⟨x, stop, code, d0, d1⟩ := State.startStop_stops starts c i false
          rw [refuses c i fails]
          exact ⟨x, stop, code, d0.trans step, d1⟩
      · exact ⟨s.stepHbm r, ends (by simp only [State.runStep, step]), congrArg (· + 1) step, rfl, rfl,
          fun k fitted there => s.stepHbm_frames r fitted there⟩
      · exact ⟨s.stepSelfTest, ends (by simp only [State.runStep, step]), congrArg (· + 1) step, s.stepSelfTest_clears⟩
      · exact ⟨s.stepFabric r, ends (by simp only [State.runStep, step]), congrArg (· + 1) step,
          fun a b sender receiver there linked => s.stepFabric_link r sender receiver there linked⟩
      · have alone := s.startDone_part r there
        exact ⟨s.startDone r, ends (by simp only [State.runStep, step]), rfl, rfl, rfl, run, congrArg Part.live alone,
          congrArg Part.q alone, fun j other => s.startDone_others r other, rfl, rfl⟩
    · obtain ⟨x, stop, code, d0, d1⟩ :=
        startupStepEnd_fails starts (State.stepFails_reported unarmed failed (s.linkFails_none spared) step)
      exact ⟨_, x, rfl, stop, code, d0, d1⟩
    · have runs : startupStepEnd r s = s.startStop .selftest noIndex false :=
        (startupStepEnd_runs starts (State.stepFails_boot unarmed step r)).trans
          (by simp only [State.runStep, step, State.stepBoot_noEntropy bad])
      obtain ⟨x, stop, code, d0, -⟩ := State.startStop_stops starts .selftest noIndex false
      exact ⟨_, x, congrArg Host.Outcome.next runs, stop, code, d0.trans step⟩
    · obtain ⟨x, stop, code, d0, d1⟩ := startupStepEnd_fails starts (State.stepFails_link unarmed links step)
      exact ⟨_, x, rfl, stop, code, d0.trans step, d1⟩
    · rcases startupTimeout_stops starts with ⟨x, stop, code, d0, -⟩ | ⟨step, x, stop, code, d0, -⟩
      · exact ⟨_, x, rfl, stop, d0, .inl code⟩
      · exact ⟨_, x, rfl, stop, d0, .inr ⟨code, step⟩⟩

end Sys2Proof.Machine
end
